-- ==== Sys2Proof/Word.lean ====
section
/-! DEFINITION. The words of the machine and their plainest arithmetic: widths of R49, bit ranges of R9. -/

namespace Sys2Proof

/-- A scalar register (R70). -/
abbrev W64 := BitVec 64
/-- A lane register of one thread (R70). -/
abbrev W32 := BitVec 32
/-- The unit of memory. -/
abbrev Byte := BitVec 8

/-- Bits `hi:lo` of a number (R9: written high:low, bit 0 the least significant). -/
def bitsOf (w hi lo : Nat) : Nat := w / 2 ^ lo % 2 ^ (hi + 1 - lo)

/-- The two's complement value of the low `n` bits of `w`. -/
def toSigned (n w : Nat) : Int :=
  if w % 2 ^ n < 2 ^ (n - 1) then ((w % 2 ^ n : Nat) : Int) else ((w % 2 ^ n : Nat) : Int) - (2 ^ n : Nat)

/-- A number from its little-endian bytes (R49). -/
def leNat : List Byte → Nat
  | [] => 0
  | b :: bs => b.toNat + 256 * leNat bs

/-- The `n` little-endian bytes of a number (R49). -/
def leBytes : Nat → Nat → List Byte
  | 0, _ => []
  | n + 1, w => BitVec.ofNat 8 w :: leBytes n (w / 256)

end Sys2Proof
end

