-- ==== Sys2Proof/Config.lean ====
section
/-! DEFINITION. What an implementation fixes, and the free values. A free value is an opaque constant with no body:
nothing can evaluate it or prove a value of it (log 3). -/

namespace Sys2Proof.Config

/-- An unpredictable 32-bit value (R8): the value drawn in the step numbered `tick` for the purpose numbered `slot`. -/
opaque freeWord (tick slot : Nat) : BitVec 32

/-- An unpredictable byte of a range of memory (R8, R137, R165, R172). -/
opaque freeByte (tick addr : Nat) : BitVec 8

/-- A choice the hardware makes where the manual gives no rule (R140, R144, R254, R369): the caller reduces it to its range. -/
opaque freeChoice (tick slot : Nat) : Nat

/-- The verdict of a signature check (R375): FIPS 205 stands outside the manual. -/
opaque signatureGood (image : List (BitVec 8)) : Bool

/-- The security version of an image, and the floor fused into each hub (R375): the manual gives neither a place nor a value. -/
opaque securityVersion (image : List (BitVec 8)) : Nat
opaque fusedFloor : Nat

/-- The images that bring-up verifies beside the hub's firmware: the conformance vectors and the route tables (R375). -/
opaque bringupImages : List (List (BitVec 8))

/-- The part number of the package (R376). -/
opaque partNumber : Nat

/-- SHA-256 of a string of bytes (R376): it is defined outside the manual. -/
opaque sha256 (bytes : List (BitVec 8)) : BitVec 256

/-- A byte of the hub's signature of a quote's body (R376): FIPS 205 stands outside the manual. -/
opaque signatureByte (body : List (BitVec 8)) (i : Nat) : BitVec 8

/-- The certificate issued at manufacture (R376). -/
opaque certificateBytes : List (BitVec 8)

/-- The CRC-32 of a burst, over its payload flits and bits 255:32 of its control flit (R361): the polynomial is not given. -/
opaque crc32 (flits : List Nat) : BitVec 32

/-- The pod route table by destination package (R360): computed off line, its contents stand outside the manual. -/
opaque podRoute (pkg : Nat) : List Nat

/-- The compressed size of a 4 KiB block in 512-byte steps, less one (R296): the algorithm is not given. -/
opaque compressedSteps (block : List (BitVec 8)) : Fin 8

/-- The die sites 0 to 7 hold Reed dies and 8 to 11 Heald dies (R1). -/
def isReed (site : Nat) : Bool := site < 8

/-- Cores of a die (R1, R131). -/
def cores (site : Nat) : Nat := if isReed site then 128 else 96
/-- Quads of a die (R1). -/
def quads (site : Nat) : Nat := if isReed site then 32 else 24
/-- Columns of the router torus (R234). -/
def columns (site : Nat) : Nat := if isReed site then 8 else 6
/-- Granules of a die (R314). -/
def granules (site : Nat) : Nat := if isReed site then 8 else 6
/-- Lanes of a core (R134). -/
def lanes (site : Nat) : Nat := if isReed site then 64 else 32
/-- Shuttle slots of a core (R134). -/
def shuttleSlots (site : Nat) : Nat := if isReed site then 128 else 64
/-- Resident blocks of a core, at most (R134). -/
def maxBlocks (site : Nat) : Nat := if isReed site then 32 else 16
/-- Lines of the register pool (R134). -/
def poolLines (site : Nat) : Nat := if isReed site then 12288 else 8192
/-- Bytes of the A data area (R134). -/
def aBytes (site : Nat) : Nat := if isReed site then 252 * 1024 else 188 * 1024
/-- Bytes of the weight store (R134). -/
def wBytes (site : Nat) : Nat := if isReed site then 512 * 1024 else 256 * 1024
/-- Accumulator tiles of a core (R134). -/
def tiles (site : Nat) : Nat := if isReed site then 32 else 16
/-- FEAT of the generation record: bit 0 wide64, 1 e2m1, 2 xunit, 3 npmode (R300). -/
def feat (site : Nat) : Nat := if isReed site then 0x0F else 0x00
/-- The matrix image version a die writes (R191). -/
def mimg (site : Nat) : Nat := if isReed site then 2 else 1
/-- The generation record that a die of the site reports (R299). -/
def genRecord (site : Nat) : BitVec 128 :=
  if isReed site then 0x0002010000028020204001000200000F#128 else 0x0001010000016018102000C001000000#128

end Sys2Proof.Config
end

