-- ==== Sys2Proof/Machine/Table.lean ====
section
/-! DEFINITION. Sparse tables by number, sets of numbers, and memory as a list of cells in one canonical form. -/

namespace Sys2Proof.Machine

/-- A table by number: keys strictly rising. -/
abbrev Tab (α : Type) := List (Nat × α)

/-- The entry of `k`. -/
def Tab.get? {α : Type} : Tab α → Nat → Option α
  | [], _ => none
  | (j, v) :: t, k => if j = k then some v else Tab.get? t k

/-- The entry of `k`, or `d`. -/
def Tab.getD {α : Type} (t : Tab α) (k : Nat) (d : α) : α := (Tab.get? t k).getD d

/-- The table with `v` under `k`. -/
def Tab.set {α : Type} : Tab α → Nat → α → Tab α
  | [], k, v => [(k, v)]
  | (j, w) :: t, k, v =>
    if k < j then (k, v) :: (j, w) :: t else if j = k then (k, v) :: t else (j, w) :: Tab.set t k v

/-- The table without `k`. -/
def Tab.del {α : Type} : Tab α → Nat → Tab α
  | [], _ => []
  | (j, w) :: t, k => if j = k then Tab.del t k else (j, w) :: Tab.del t k

/-- The table with the entry of `k` changed, if it has one. -/
def Tab.upd {α : Type} (t : Tab α) (k : Nat) (f : α → α) : Tab α :=
  match Tab.get? t k with
  | some v => Tab.set t k (f v)
  | none => t

/-- The values of a table, in the order of their keys. -/
def Tab.vals {α : Type} (t : Tab α) : List α := t.map (·.2)

/-- The `i`th element replaced. -/
def setAt {α : Type} : List α → Nat → α → List α
  | [], _, _ => []
  | _ :: t, 0, x => x :: t
  | y :: t, n + 1, x => y :: setAt t n x

/-- The `i`th element taken out. -/
def dropAt {α : Type} : List α → Nat → List α
  | [], _ => []
  | _ :: t, 0 => t
  | y :: t, n + 1 => y :: dropAt t n

/-- A number put into a rising list without repeats. -/
def insertNat : List Nat → Nat → List Nat
  | [], n => [n]
  | m :: t, n => if n < m then n :: m :: t else if n = m then m :: t else m :: insertNat t n

/-- Bytes of a memory of which only those that differ from zero are listed (log 2). -/
abbrev Memory := List Host.Cell

/-- What an address that no cell lists reads as (log 2). -/
def Memory.unlisted : Byte := 0

/-- The byte at an address. -/
def Memory.read : Memory → Nat → Byte
  | [], _ => Memory.unlisted
  | (a, b) :: t, k => if a = k then b else Memory.read t k

/-- The canonical form: addresses strictly rising above `lo`, no byte equal to what an unlisted address reads as. -/
def Memory.above : Nat → Memory → Bool
  | _, [] => true
  | lo, (a, b) :: t => decide (lo ≤ a) && (b != Memory.unlisted) && Memory.above (a + 1) t

/-- The form that every memory of the machine has. -/
def Memory.wf (m : Memory) : Bool := Memory.above 0 m

/-- The memory with `b` at `k`: writing what an unlisted address reads as removes the cell. -/
def Memory.write : Memory → Nat → Byte → Memory
  | [], k, b => if b = Memory.unlisted then [] else [(k, b)]
  | (a, c) :: t, k, b =>
    if k < a then (if b = Memory.unlisted then (a, c) :: t else (k, b) :: (a, c) :: t)
    else if k = a then (if b = Memory.unlisted then t else (k, b) :: t)
    else (a, c) :: Memory.write t k b

/-- The bytes from `a` on. -/
def Memory.readN (m : Memory) : Nat → Nat → List Byte
  | _, 0 => []
  | a, n + 1 => m.read a :: Memory.readN m (a + 1) n

/-- The memory with the bytes from `a` on replaced. -/
def Memory.writeN (m : Memory) : Nat → List Byte → Memory
  | _, [] => m
  | a, b :: bs => Memory.writeN (m.write a b) (a + 1) bs

/-- The memory with a list of cells written, in their order. -/
def Memory.writeCells (m : Memory) : List Host.Cell → Memory
  | [] => m
  | (a, b) :: t => Memory.writeCells (m.write a b) t

/-- Cells for consecutive bytes. -/
def cellsFrom : Nat → List Byte → List Host.Cell
  | _, [] => []
  | a, b :: bs => (a, b) :: cellsFrom (a + 1) bs

/-- The numbers from `a` on. -/
def range : Nat → Nat → List Nat
  | _, 0 => []
  | a, n + 1 => a :: range (a + 1) n

end Sys2Proof.Machine
end

