-- ==== Sys2Proof/Syntax.lean ====
section
/-! DEFINITION. The syntax of the DG-1284: one constructor of `Instr` for each row of spec/opcode_table.json. Control
words (R41) and lane words (R42) come first; then the steps of the other agents, which have no encoding and name the party
they concern, those that agents take by themselves before those that come from outside; then the words and steps without
operands. -/

namespace Sys2Proof

abbrev SReg := Fin 64
abbrev KReg := Fin 8
abbrev MReg := Fin 8
abbrev TileReg := Fin 32
abbrev EReg := Fin 32
abbrev OReg := Fin 4

/-- Scopes (R2, R33). -/
inductive Scope | lane | core | quad | die | pkg | pod
  deriving DecidableEq, Repr

/-- Rounding modes (R33, R57). -/
inductive Rnd | rne | rtz | rdn | rup | rna
  deriving DecidableEq, Repr

/-- Control types: `.s64` is written `.b64` and `.n32` `.b32` for bit functions (R33). -/
inductive CType | s64 | n64 | s32 | n32
  deriving DecidableEq, Repr

/-- Integer conditions (R33). -/
inductive ICond | eq | ne | lt | le | gt | ge
  deriving DecidableEq, Repr

/-- Float conditions (R33). -/
inductive FCond | eq | ne | lt | le | gt | ge | ord | unord
  deriving DecidableEq, Repr

/-- Element formats (R33, R52). -/
inductive Fmt | s8 | s16 | s32 | n8 | n16 | n32 | f32 | f16 | bf16 | e4m3 | e5m2 | e2m1
  deriving DecidableEq, Repr

/-- Conditions of CMP with an immediate (R116). -/
inductive ImmCond | eq | ne | ltS | ltN
  deriving DecidableEq, Repr

/-- Sizes of LDS and STS of majors 0x10 and 0x12 (R127). -/
inductive LdsU | n8 | n16 | n32 | b64
  deriving DecidableEq, Repr

/-- Sizes of LDS of major 0x11 (R127). -/
inductive LdsS | s8 | s16 | s32
  deriving DecidableEq, Repr

/-- Functions of AMO and AMOS (R38, R41, R289). -/
inductive AmoFn | add | min | max | and | or | xor | xchg | incw
  deriving DecidableEq, Repr

/-- Functions of AMO3 (R39). -/
inductive Amo3Fn | cas | addb
  deriving DecidableEq, Repr

/-- Special values of MFS (R41). -/
inductive Special
  | tid | shuttle | blockX | blockY | blockZ | gridX | gridY | gridZ | core | quad | die | step | gen
  deriving DecidableEq, Repr

/-- Operand formats of MMA and MGEMM (R173). -/
inductive MmaFmt | e2m1 | e4m3 | e5m2 | bf16 | f16 | s8
  deriving DecidableEq, Repr

/-- Acquire and release flags of a copy command and their one scope (R162). -/
structure CopyMods where
  acq : Bool
  rel : Bool
  scope : Scope
  deriving DecidableEq, Repr

/-- The guard and the boundary bit of a lane word (R35). -/
structure Head where
  bnd : Bool
  mask : MReg
  neg : Bool
  deriving DecidableEq, Repr

/-- A source operand of a lane word with its last-read bit (R19, R36). `imm v` reads imm32, whose value is `v`. -/
inductive LSrc
  | main (n : Fin 256) (last : Bool)
  | opf (n : Fin 8)
  | lat
  | uni (n : SReg)
  | imm (v : W32)
  deriving DecidableEq, Repr

/-- A register destination of a lane word (R36). -/
inductive LDst
  | main (n : Fin 256)
  | opf (n : Fin 8)
  | lat
  deriving DecidableEq, Repr

/-- Lane type class I (R37). -/
inductive IType | s32 | n32 | s16x2 | n16x2 | s8x4 | n8x4
  deriving DecidableEq, Repr

/-- Lane type class F (R37). -/
inductive FType | f32 | f16x2 | bf16x2
  deriving DecidableEq, Repr

/-- Lane type class M (R37). -/
inductive MType | b32 | b64 | n8 | s8 | n16 | s16 | b128
  deriving DecidableEq, Repr

/-- MLOGIC functions (R104). -/
inductive MFn | and | or | xor | andn
  deriving DecidableEq, Repr

/-- PASS modes (R106). -/
inductive PassMode | from | back | fwd | mirror | rot
  deriving DecidableEq, Repr

/-- VOTE functions (R107). -/
inductive VoteFn | any | all | ballot | count
  deriving DecidableEq, Repr

/-- RED functions with their types (R108). -/
inductive RedFn
  | add (signed : Bool) | min (signed : Bool) | max (signed : Bool)
  | and (signed : Bool) | or (signed : Bool) | xor (signed : Bool)
  | fadd | fmin | fmax
  deriving DecidableEq, Repr

/-- Spaces of a lane access (R38). -/
inductive LSpace | g | a | w | peer (n : Fin 4)
  deriving DecidableEq, Repr

/-- A step qualifier: `.step-d` when `neg` (R18, R38). -/
structure StepQ where
  neg : Bool
  d : Fin 16
  deriving DecidableEq, Repr

/-- The memory control of LD, ST and LDW (R38). `wf` is `.fill` on ST. -/
structure MemCtl where
  space : LSpace
  step : Option StepQ
  wf : Bool
  clr : Bool
  inv : Bool
  deriving DecidableEq, Repr

/-- A context-table entry as the supervisor writes it (R317). -/
structure CtxEntry where
  valid : Bool
  root : Nat
  handler : Nat
  stackBase : Nat
  stackSize : Nat
  ttab : Nat
  deriving DecidableEq, Repr

/-- What the supervisor sets up when it builds its partition: the entry of its own context, and the physical bases of the
context table, the control page, the command window, the fatal log and the spill region (R314, R317, R318, R331, R344). -/
structure SuperPlan where
  entry : CtxEntry
  table : Nat
  page : Nat
  window : Nat
  log : Nat
  spill : Nat
  deriving DecidableEq, Repr

/-- Why an accepted copy command fails while it runs (R171, R223, R294, R295). -/
inductive CopyFail | uncorrectableRead | partialWrite | peerLost
  deriving DecidableEq, Repr

/-- A unit that the management plane may fence (R347). -/
inductive FenceTarget
  | core (site core : Nat) (hard : Bool) | quad (site quad : Nat) | die (site : Nat) (hard : Bool)
  | frame (pa : Nat) | port (n : Nat)
  deriving DecidableEq, Repr

/-- A class 7 event that no instruction raises (R346). -/
inductive MachineEvent
  | coreSoftError (h : Nat) (expansion : Bool)
  | siteLost (site : Nat)
  | hubState (block : Nat)
  | compressedExhausted (hub : Nat)
  deriving DecidableEq, Repr

/-- The measured power and heat of one window (R377). -/
structure PowerSample where
  milliwatts : Nat
  hottest : Nat
  deriving DecidableEq, Repr

/-- The instructions and steps of spec/opcode_table.json: each row a constructor. -/
inductive Instr
  -- control words
  | addReg (d a b : SReg) (t : CType)
  | subReg (d a b : SReg) (t : CType)
  | mulReg (d a b : SReg) (t : CType)
  | mulh (d a b : SReg) (t : CType)
  | div (d a b : SReg) (t : CType)
  | rem (d a b : SReg) (t : CType)
  | minReg (d a b : SReg) (t : CType)
  | maxReg (d a b : SReg) (t : CType)
  | andReg (d a b : SReg) (t : CType)
  | orReg (d a b : SReg) (t : CType)
  | xorReg (d a b : SReg) (t : CType)
  | andn (d a b : SReg) (t : CType)
  | shlReg (d a b : SReg) (t : CType)
  | shrReg (d a b : SReg) (t : CType)
  | sraReg (d a b : SReg) (t : CType)
  | rotReg (d a b : SReg) (t : CType)
  | popcReg (d a : SReg) (t : CType)
  | clzReg (d a : SReg) (t : CType)
  | ctz (d a : SReg) (t : CType)
  | addImm (d a : SReg) (i : BitVec 12)
  | andImm (d a : SReg) (i : BitVec 12)
  | orImm (d a : SReg) (i : BitVec 12)
  | xorImm (d a : SReg) (i : BitVec 12)
  | shlImm (d a : SReg) (n : Fin 64)
  | shrImm (d a : SReg) (n : Fin 64)
  | sraImm (d a : SReg) (n : Fin 64)
  | mulImm (d a : SReg) (i : BitVec 12)
  | cmpReg (k : KReg) (a b : SReg) (t : CType) (c : ICond)
  | cmpImm (k : KReg) (a : SReg) (c : ImmCond) (i : BitVec 12)
  | lui (d : SReg) (i : BitVec 20)
  | apc (d : SReg) (i : BitVec 20)
  | br (p : KReg) (n : Bool) (o : BitVec 22)
  | call (p : KReg) (n : Bool) (o : BitVec 22)
  | loop (d : SReg) (gt : Bool) (i : BitVec 12)
  | jr (a : SReg)
  | callr (a : SReg)
  | ret (a : SReg)
  | lrun (l : BitVec 20)
  | trap (a : SReg)
  | mfs (d : SReg) (v : Special)
  | icinvPkg (a b : SReg)
  | launch (d a b : SReg)
  | fence (s : Scope) (pred succ : BitVec 7)
  | kand (d a b : KReg)
  | kor (d a b : KReg)
  | kxor (d a b : KReg)
  | knot (d a : KReg)
  | ldsG (d a : SReg) (s : LdsU) (i : BitVec 12)
  | ldsGSigned (d a : SReg) (s : LdsS) (i : BitVec 12)
  | stsG (d a : SReg) (s : LdsU) (i : BitVec 12)
  | ldsA (d a : SReg) (wide : Bool) (i : BitVec 12)
  | stsA (d a : SReg) (wide : Bool) (i : BitVec 12)
  | lr (d a : SReg) (t : CType)
  | sc (d a b : SReg) (t : CType)
  | amos (d a b : SReg) (t : CType) (f : AmoFn)
  | movsk (d : SReg)
  | movks (a : SReg)
  | movsm (d : SReg) (m : MReg)
  | movms (m : MReg) (a : SReg)
  | csel (d a b : SReg) (p : KReg) (n : Bool)
  | binit (d a b : SReg)
  | barrive (a b : SReg)
  | bexpect (a b : SReg)
  | bwait (a b : SReg)
  | btest (d a b : SReg)
  | empty (w : Bool) (a b : SReg)
  | gbar (die : Bool) (id : Fin 16)
  | tdef (n : Fin 1024) (a : SReg)
  | cpy (d a b : SReg) (m : CopyMods)
  | cpyt (d a b : SReg) (m : CopyMods)
  | cpyg (d a b : SReg) (m : CopyMods)
  | cpym (d a b : SReg) (m : CopyMods)
  | cmovCToA (c : TileReg) (a : SReg)
  | cmovNowait (c : TileReg) (a : SReg)
  | cmovAToC (c : TileReg) (a : SReg)
  | czero (c : TileReg)
  | mma (c : TileReg) (a b : SReg) (f : MmaFmt) (aten bten : Bool)
  | mgemm (c : TileReg) (a : SReg) (f : MmaFmt) (aten bten : Bool)
  | mwait (c : TileReg)
  | xclr (e : EReg) (a b : SReg)
  | xshift (d s : EReg) (o : OReg)
  | xm2l (d s : EReg) (o : OReg)
  | xl2l (d s : EReg) (o : OReg)
  | xadm (k : KReg) (a b : SReg)
  | xld (e : EReg) (a : SReg) (local_ : Bool)
  | xst (e : EReg) (a : SReg) (local_ : Bool)
  | xownTake (k : KReg) (e : EReg)
  | xownRel (e : EReg)
  | ord (o : OReg) (a : SReg)
  | sgjoin (k : KReg) (a : SReg)
  | npenter (a : SReg)
  | send (a b : SReg)
  | recvpost (k : KReg) (a b : SReg)
  | rinit (a : SReg)
  | rgrab (d a : SReg)
  | cred (d a b : SReg)
  | credExact (d a b : SReg)
  | cmc (d a b : SReg)
  | cag (d a b : SReg)
  -- lane words
  | lAdd (h : Head) (t : IType) (sat : Bool) (d : LDst) (a b : LSrc)
  | lSub (h : Head) (t : IType) (sat : Bool) (d : LDst) (a b : LSrc)
  | lMul (h : Head) (t : IType) (sat : Bool) (d : LDst) (a b : LSrc)
  | lMulhi (h : Head) (t : IType) (d : LDst) (a b : LSrc)
  | lMad (h : Head) (t : IType) (sat : Bool) (d : LDst) (a b c : LSrc)
  | lMin (h : Head) (t : IType) (d : LDst) (a b : LSrc)
  | lMax (h : Head) (t : IType) (d : LDst) (a b : LSrc)
  | lAbs (h : Head) (t : IType) (sat : Bool) (d : LDst) (a : LSrc)
  | lNeg (h : Head) (t : IType) (sat : Bool) (d : LDst) (a : LSrc)
  | lSum3 (h : Head) (t : IType) (sat : Bool) (d : LDst) (a b c : LSrc)
  | lClamp (h : Head) (t : IType) (sat : Bool) (d : LDst) (a b c : LSrc)
  | lQdot (h : Head) (signed sat : Bool) (d : LDst) (a b c : LSrc)
  | lHdot (h : Head) (signed sat : Bool) (d : LDst) (a b c : LSrc)
  | lMulfull (h : Head) (signed : Bool) (d : Fin 256) (a b : LSrc)
  | lAnd (h : Head) (d : LDst) (a b : LSrc)
  | lOr (h : Head) (d : LDst) (a b : LSrc)
  | lXor (h : Head) (d : LDst) (a b : LSrc)
  | lNot (h : Head) (d : LDst) (a : LSrc)
  | lShl (h : Head) (d : LDst) (a b : LSrc)
  | lShr (h : Head) (d : LDst) (a b : LSrc)
  | lSra (h : Head) (signed : Bool) (d : LDst) (a b : LSrc)
  | lRot (h : Head) (d : LDst) (a b : LSrc)
  | lPopc (h : Head) (d : LDst) (a : LSrc)
  | lClz (h : Head) (d : LDst) (a : LSrc)
  | lBrev (h : Head) (d : LDst) (a : LSrc)
  | lBfx (h : Head) (signed : Bool) (d : LDst) (a b c : LSrc)
  | lBfi (h : Head) (d : LDst) (a b c : LSrc)
  | lBytesel (h : Head) (d : LDst) (a b c : LSrc)
  | lTruth (h : Head) (d : LDst) (a b c : LSrc) (table : BitVec 8)
  | lScadd (h : Head) (d : LDst) (a b : LSrc) (n : Fin 32)
  | lFunnel (h : Head) (lo : Bool) (d : LDst) (a b c : LSrc)
  | lFadd (h : Head) (t : FType) (r : Rnd) (d : LDst) (a b : LSrc)
  | lFsub (h : Head) (t : FType) (r : Rnd) (d : LDst) (a b : LSrc)
  | lFmul (h : Head) (t : FType) (r : Rnd) (d : LDst) (a b : LSrc)
  | lFma (h : Head) (t : FType) (r : Rnd) (d : LDst) (a b c : LSrc)
  | lFdot2 (h : Head) (bf : Bool) (r : Rnd) (d : LDst) (a b c : LSrc)
  | lFmin (h : Head) (t : FType) (d : LDst) (a b : LSrc)
  | lFmax (h : Head) (t : FType) (d : LDst) (a b : LSrc)
  | lFclamp (h : Head) (t : FType) (d : LDst) (a b c : LSrc)
  | lFabs (h : Head) (t : FType) (d : LDst) (a : LSrc)
  | lFneg (h : Head) (t : FType) (d : LDst) (a : LSrc)
  | lFcpsgn (h : Head) (t : FType) (d : LDst) (a b : LSrc)
  | lFrnd (h : Head) (t : FType) (r : Rnd) (d : LDst) (a : LSrc)
  | lFdiv (h : Head) (d : LDst) (a b : LSrc)
  | lFsqrt (h : Head) (d : LDst) (a : LSrc)
  | lFrcp (h : Head) (d : LDst) (a : LSrc)
  | lFrsq (h : Head) (d : LDst) (a : LSrc)
  | lFexp2 (h : Head) (d : LDst) (a : LSrc)
  | lFlog2 (h : Head) (d : LDst) (a : LSrc)
  | lFsin (h : Head) (d : LDst) (a : LSrc)
  | lFcos (h : Head) (d : LDst) (a : LSrc)
  | lFldexp (h : Head) (r : Rnd) (d : LDst) (a b : LSrc)
  | lFclass (h : Head) (d : LDst) (a : LSrc)
  | lCvt (h : Head) (df sf : Fmt) (r : Rnd) (sat : Bool) (d : LDst) (a : LSrc)
  | lCvtpk (h : Head) (df sf : Fmt) (r : Rnd) (sat : Bool) (d : LDst) (a b : LSrc)
  | lQblk (h : Head) (df : Fmt) (r : Rnd) (sat : Bool) (d : LDst) (a b : LSrc)
  | lDqblk (h : Head) (sf : Fmt) (d : LDst) (a b : LSrc)
  | lIcmp (h : Head) (t : IType) (c : ICond) (d : MReg) (a b : LSrc)
  | lFcmp (h : Head) (t : FType) (c : FCond) (d : MReg) (a b : LSrc)
  | lSel (h : Head) (d : LDst) (a b : LSrc) (m : MReg)
  | lMlogic (h : Head) (f : MFn) (d a b : MReg)
  | lPass (h : Head) (m : PassMode) (d : LDst) (a b : LSrc)
  | lVote (h : Head) (f : VoteFn) (d : SReg) (a : MReg)
  | lRed (h : Head) (f : RedFn) (d : SReg) (a : LSrc)
  | lScan (h : Head) (signed excl : Bool) (d : LDst) (a : LSrc)
  | lMov (h : Head) (d : LDst) (a : LSrc)
  | lLtid (h : Head) (d : LDst)
  | lNop (bnd : Bool)
  | lLd (h : Head) (t : MType) (mc : MemCtl) (d : LDst) (a : LSrc) (off : W32)
  | lSt (h : Head) (t : MType) (mc : MemCtl) (a b : LSrc) (off : W32)
  | lLdw (h : Head) (t : MType) (wf clr : Bool) (d : LDst) (a : LSrc) (off : W32)
  | lLdg (h : Head) (wide : Bool) (d : LDst) (a : SReg) (b : LSrc) (off : W32)
  | lBld (h : Head) (d : LDst) (rec : SReg) (b : LSrc) (off : W32)
  | lBst (h : Head) (rec : SReg) (b c : LSrc) (off : W32)
  | lAmo (h : Head) (f : AmoFn) (signed : Bool) (sp : LSpace) (d : LDst) (a b : LSrc) (off : W32)
  | lAmo3 (h : Head) (f : Amo3Fn) (signed : Bool) (sp : LSpace) (res : MReg) (d : LDst) (a b c : LSrc)
  | lRld (h : Head) (t : MType) (d : LDst) (a b c : LSrc) (off : W32)
  | lXform (h : Head) (e : EReg) (o : OReg) (a b c : LSrc)
  | lXeval (h : Head) (d : Fin 256) (e : EReg) (o : OReg) (a b : LSrc)
  | lXnear (h : Head) (a b : LSrc) (off : W32)
  -- steps of the other agents: `h` a shuttle, `b` a block, `c` a core (128 * site + index), `p` a partition
  | runReady (h : Nat)
  | laneArbitration (c lane : Nat)
  | runEnd (h : Nat)
  | breakerStage1 (c : Nat)
  | breakerStage2 (c : Nat)
  | drainEnd (h : Nat)
  | blockAdmission (b : Nat)
  | dispatchPlace (p : Nat)
  | dispatchReservation (p : Nat)
  | priorityPreemption (p : Nat)
  | wfWaitRelease (h : Nat)
  | fullEmptyWaitExpired (h : Nat)
  | copySlotAccept (c : Nat)
  | copyStart (c : Nat)
  | copyComplete (c i : Nat)
  | copyFailure (c i : Nat) (why : CopyFail)
  | peerPacketArrival (i : Nat)
  | mmaSlotAccept (c : Nat)
  | followOnAccept (c i : Nat)
  | matrixFetch (c : Nat)
  | matrixFetchResume (c : Nat)
  | matrixFetchFatal (c : Nat)
  | matrixCompute (c : Nat)
  | matrixRetire (c : Nat)
  | mgemmStep (c : Nat)
  | mgemmCopies (c : Nat)
  | mgemmStop (c : Nat)
  | translationEvict (i : Nat)
  | preemptBlock (b : Nat)
  | fetchFaultSwap (h : Nat)
  | blockResume (b : Nat)
  | npEntryComplete (c : Nat)
  | stepNotice (c : Nat)
  | stepAdvance (c : Nat)
  | npExitComplete (c : Nat)
  | rldWaitEnd (h : Nat)
  | stepWaitExpired (h : Nat)
  | rldTargetGone (h : Nat)
  | packetRoute (i : Nat)
  | routerGrant (site quad out : Nat)
  | messageArrival (i : Nat)
  | messageResend (c : Nat)
  | sendSlotAccept (c : Nat)
  | congestionWindow (site quad : Nat)
  | rangeSlotAccept (site : Nat)
  | globalWritePerformed (i : Nat)
  | cacheRevalidate (c line : Nat)
  | collectiveNewUse (hub gid : Nat)
  | collectiveSlotAccept (hub : Nat)
  | collectiveSourceRead (i : Nat)
  | collectiveResultWrite (i : Nat)
  | laneRepair (port : Nat)
  | trapDelivery (h : Nat)
  | deferredTrapDelivery (h : Nat)
  | fatalEnd (b : Nat)
  | joinNegotiation (site : Nat) (record : BitVec 128) (failed : List Nat)
  | cmdLaunch (p : Nat)
  | cmdPreemptGranule (p : Nat)
  | cmdHaltAndCapture (p : Nat)
  | cmdResume (p : Nat)
  | cmdRefused (p : Nat)
  | launchEligible (p q : Nat)
  | launchComplete (l : Nat)
  | powerOnBringup (hubGood : Bool) (present : List Nat) (pkg : Nat)
  | illegalInstruction (slot : Fin 8)
  -- steps that come from outside the machine, or from its management
  | translationReplace (i : Nat)
  | faultDeclaredFatal (i : Nat)
  | invalidateCommand (cx lo len : Nat)
  | translateRegion (reed : Bool) (cx lo words : Nat)
  | haltAndCapture (p : Nat)
  | captureResume (p : Nat)
  | rangeClaim (p site r cx : Nat)
  | partialWriteError (i : Nat)
  | patrolScrub (line : Nat)
  | farTierLoss (hub : Nat)
  | collectivePacketArrival (hub part : Nat) (fn : Fin 4) (desc : W64) (data : List Byte)
  | linkBurstReceive (port seq ack : Nat) (flits : List Nat) (crc : BitVec 32) (lane : Nat)
  | replayRequest (port seq : Nat)
  | packageLost (pkg : Nat)
  | machineCheck (e : MachineEvent)
  | fenceUnit (u : FenceTarget) (cause : Nat)
  | dieOffline (site : Nat)
  | contextEntryValid (p idx : Nat) (e : CtxEntry)
  | hostWindowWrite (p off : Nat) (data : List Byte)
  | hostBar2Access (write : Bool) (off n : Nat) (data : List Byte)
  | mbBuildPartition (image : List Byte) (plan : SuperPlan)
  | mbUnknownOp (op : BitVec 8)
  | registerWrite (off : Nat) (v : W64)
  | powerWindow (m : PowerSample)
  | powerThermalEmergency (m : PowerSample)
  | telemetryUpdate (temps : List Nat)
  | fetchPoisoned (h : Nat)
  -- words and steps without operands
  | syncrun
  | yield
  | halt
  | eret
  | sgleave
  | npexit
  | stepdone
  | faultService
  | spaceRecovered
  | mbReadGenerationRecord
  | mbDissolvePartition
  | mbSetPowerCap
  | mbReadErrorLog
  | mbStageFirmware
  | mbAttestationQuote
  | mbReadmitDie
  | mailboxCommandEnd
  deriving DecidableEq, Repr

end Sys2Proof
end

