-- ==== Sys2Proof/Machine/State.lean ====
section
/-! DEFINITION. The state of the package as plain data: one structure for each level of the hierarchy (R2), the reasons
a step can stop, and the machine right after power-on. A shuttle's key is 64 times its block's key plus its index in
the block; a core's key is 128 times the die site plus the core index; a quad's key is 32 times the site plus the quad;
a context's key is 256 times the partition plus the table index. -/

namespace Sys2Proof.Machine

/-! ## Kernels and launches (R319, R354) -/

/-- A kernel descriptor with the addresses that its object gives it (R354). -/
structure Kern where
  entry : Nat
  laneAddr : Nat
  laneLen : Nat
  peak : Nat
  init : Nat
  shuttles : Nat
  astore : Nat
  wstore : Nat
  ctiles : Nat
  feat : Nat
  deriving DecidableEq, Repr

/-- A launch (R319 to R322). -/
structure Launch where
  part : Nat
  seq : Nat
  queue : Nat
  prio : Nat
  ctx : Nat
  kern : Kern
  gx : Nat
  gy : Nat
  gz : Nat
  place : Nat
  serial : Bool
  nbars : Nat
  waits : List (Nat × Bool)
  arrive : Nat
  args : List W64
  /-- The address of its kernel descriptor (R319, R359). -/
  desc : Nat
  /-- The launch stands no longer in its queue; the next block to place; blocks that have ended. -/
  left : Bool
  eligible : Bool
  nextBlock : Nat
  /-- The last gang, shorter than the others, is placed ahead of them (R323, R325). -/
  tail : Bool
  ended : Nat
  failed : Bool
  complete : Bool
  /-- The launch in its queue before this one, by number (SERIAL, R321). -/
  before : Option Nat
  since : Nat
  deriving DecidableEq, Repr

/-! ## Shuttles (R70) -/

/-- One 32-bit register of all eight threads (R70, R79). -/
abbrev Line := Vector W32 8

/-- What a trap record says beside where the block runs (R339). -/
structure TrapRec where
  cause : Nat
  lane : Bool := false
  lrunv : Bool := false
  defer : Bool := false
  drain : Bool := false
  tmask : Nat := 0
  /-- The operand slot when it is not the cause's slot (R181). -/
  opslot : Option Nat := none
  addr : Nat := 0
  lword : Nat := 0
  roff : Nat := 0
  tile : Option Nat := none
  /-- The tensor identifier and the coordinates X3 to X0 as one 64-bit number. -/
  tid : Option (Nat × Nat) := none
  cpc : Nat := 0
  ipc : Nat := 0
  lost : Nat := 0
  pending : Nat := 0
  /-- The lost site that DIE names instead of the block's own, with all ones in QUAD and CORE (R346). -/
  lostSite : Option Nat := none
  /-- The control word that raised the trap (R343, R345). -/
  code : Option Nat := none
  deriving DecidableEq, Repr

/-- Where a queued run stands (R71, R81, R327, R336). -/
inductive RunPhase | queued | enlarge | ready (since : Nat) | running (lane : Nat) | stopped
  deriving DecidableEq, Repr

/-- A run in a shuttle's queue (R73): the words its LRUN validated and what it captured. -/
structure Run where
  lword : Nat
  words : List Nat
  off : Nat
  caps : Vector W64 64
  ords : Vector (BitVec 5) 4
  step : Nat
  lrunPc : Nat
  phase : RunPhase
  /-- Lines set aside and not bound yet (R81). -/
  aside : Nat
  /-- Lines released, which return to the pool when the run ends (R80). -/
  freed : Nat
  /-- An instruction of this run waited for global memory, a peer store or a message (R245). -/
  waited : Bool
  /-- When the wait of the instruction at `off` began (R141, R229), or when a queued run was first held back (R246); the
  pages that it waits for (R282). -/
  since : Option Nat
  pages : List Nat
  /-- Pages whose fault the supervisor declared fatal while the instruction at `off` waited on them (R282). -/
  fatal : List Nat
  /-- Cores that left the mode or were lost while the RLD at `off` waited (R229). -/
  gone : List Nat
  /-- Under REPL: the mask and the replacement block with which the instruction at `off` completes (R343, R345). -/
  repl : Option (Nat × List Byte)
  /-- Of a 16-byte global load at `off`, one 8-byte half that has been read: the upper one or the lower one, and the bytes by
  thread (R255). -/
  half : Option (Bool × List (Nat × List Byte))
  deriving DecidableEq, Repr

/-- What the control stream waits for (R83, R112, R223); `woken`: the phase that a BWAIT stood at has completed (R144);
`newUse`: a collective command that names the next use of a group waits for its DRAIN (R364). -/
inductive Wait | none | barrier (n : Nat) | woken | gbar | paced | slot | memory | newUse (gid : Nat) | other
  deriving DecidableEq, Repr

/-- Running, draining, exited (R85), or stopped by Fatal (R344). -/
inductive ShuttleStatus | running | draining | exited | fatal
  deriving DecidableEq, Repr

/-- The state of a shuttle (R70 Table 1 and the rules that add to it). -/
structure Shuttle where
  idx : Nat
  slot : Nat
  s : Vector W64 64
  k : Vector Bool 8
  m : Vector (BitVec 8) 8
  q : Vector Line 8
  lat : Line
  /-- Threads whose latch an instruction of the run in progress has written (R72). -/
  latOk : BitVec 8
  /-- The bound names (R79). -/
  v : Vector (Option Line) 256
  pc : W64
  queue : List Run
  /-- Pending scalar results in the order they were recorded (R74). -/
  pend : List (SReg × W64)
  /-- The reserved 64-byte granule, by physical line number (R292). -/
  resv : Option Nat
  handler : Bool
  /-- The record of the trap in service (R340, R343). -/
  trap : Option TrapRec
  /-- A trap whose ERET has not completed what it resumes, since a deferred trap was delivered first, with the word and the
  replacement block of its frame (R343). -/
  owed : Option (TrapRec × Nat × List Byte)
  /-- A control trap that waits for the queued runs to end (R77). -/
  held : Option TrapRec
  /-- A lane trap raised and not yet delivered (R336). -/
  laneTrap : Option TrapRec
  /-- Pending deferred traps, oldest first, at most 8 (R342). -/
  deferred : List TrapRec
  status : ShuttleStatus
  wait : Wait
  /-- The launch that a LAUNCH read and checked before it began to wait for its queue (R320). -/
  record : Option Launch
  /-- Pages that the control stream waits for, and pages whose fault the supervisor declared fatal while it waited on them
  (R282). -/
  waitPages : List Nat
  fatalPages : List Nat
  /-- The memory-bound history (R245). -/
  hist : BitVec 64
  deriving DecidableEq, Repr

/-- A cached translation of a die (R282). -/
structure TlbEntry where
  ctx : Nat
  page : Nat
  pa : Nat
  writable : Bool
  comp : Bool
  deriving DecidableEq, Repr

/-! ## Blocks (R136, R142, R194) -/

/-- A local store's region: the cells, what an unlisted byte holds, and the full granules (R136, R137, R139). -/
structure LStore where
  bytes : Nat
  cells : Tab Byte
  /-- `some n`: bytes that no cell lists are unpredictable (R137), drawn for the number `n`; `none`: they are zero. -/
  free : Option Nat
  /-- Full granules, by number, rising. -/
  full : List Nat
  deriving DecidableEq, Repr

/-- A barrier object (R142). -/
structure Barrier where
  landed : Nat
  expBytes : Nat
  tenancy : Nat
  arrived : Nat
  expArr : Nat
  init : Bool
  ova : Bool
  ovb : Bool
  phase : Bool
  deriving DecidableEq, Repr

/-- An expansion register (R194): its owner is a shuttle index of the block. -/
structure ExpReg where
  kind : Nat
  centre : W32 × W32
  radius : W32
  coef : Vector (W32 × W32) 32
  owner : Option Nat
  deriving DecidableEq, Repr

/-- An accumulator tile: the 32-bit elements that differ from zero, by 32 times the row plus the column (R134). -/
abbrev Tile := Tab W32

/-- Placed on a core and not yet admitted (R323, R137), resident, saved in an image (R331), or ended (R85). -/
inductive BlockStatus | placed | resident | saved | ended
  deriving DecidableEq, Repr

/-- Where a copy or a collective reads or writes (R165, R222, R365). A peer is its block and the tenancy at issue. -/
inductive CSpace | g | a | w | peer (block tenancy : Nat)
  deriving DecidableEq, Repr

/-- An operand of a matrix operation: its word, its entry copy (R148), and whether it is a tensor tile (R175). -/
structure MatOperand where
  word : Nat
  entry : Nat
  tensor : Bool
  deriving DecidableEq, Repr

/-- What an MGEMM adds to a matrix operation (R185, R187). -/
structure Gemm where
  n : Nat
  abuf : Nat
  wbuf : Nat
  step : Nat
  /-- Steps whose copies the sequencer has issued, and steps whose copies have all written. -/
  issued : Nat
  /-- Of step `issued` the copy of operand a has been issued, and that of b not yet. -/
  half : Bool
  /-- Sequencer copies of issued steps that have not yet written their last byte, by step. -/
  pendingCopies : List Nat
  /-- Steps with a failed copy, and the record of the first that failed of each (R188). -/
  failed : List (Nat × TrapRec)
  /-- Another agent wrote to a buffer region: the tile's elements are unpredictable (R187). -/
  dirty : Bool
  deriving DecidableEq, Repr

/-- A matrix operation in the queue or in a reserved slot (R179, R180). -/
structure MatOp where
  id : Nat
  h : Nat
  block : Nat
  ipc : Nat
  tile : Nat
  fmt : MmaFmt
  a : MatOperand
  b : MatOperand
  /-- FETCHED, and the rows in the operand buffer: data bytes then scale bytes. -/
  fetched : Nat
  rows : List (List Byte)
  /-- 16-byte granules of the next row that have been read already, by position (R183). -/
  part : List (Nat × List Byte)
  /-- Pages that the next row waits for, and their fault was declared fatal (R180, R181). -/
  pages : List Nat
  fatal : List Nat
  /-- Compute has written the tile. -/
  computed : Bool
  gemm : Option Gemm
  deriving DecidableEq, Repr

/-- A copy command's kind (R165, R168, R169); CPYM is a tensor copy with a follow-on (R170). -/
inductive CopyKind | linear | tensor | gather
  deriving DecidableEq, Repr

/-- A copy command in the queue or in a reserved slot (R149, R150). -/
structure Copy where
  id : Nat
  h : Nat
  block : Nat
  ipc : Nat
  kind : CopyKind
  acq : Option Scope
  rel : Option Scope
  src : CSpace
  srcAddr : Nat
  dst : CSpace
  dstAddr : Nat
  /-- Transfer size in bytes. -/
  len : Nat
  /-- The object of the landing report; none under NOBAR. -/
  bar : Option Nat
  /-- For a tensor copy: the entry copy, the coordinates, SCL, and DIR = 1. -/
  entry : Nat
  coords : Nat
  scl : Bool
  out : Bool
  /-- For a gather: the rows' indices and the row length in 16-byte units. -/
  rows : List Nat
  rowb : Nat
  inFlight : Bool
  /-- 16-byte units moved: all before `done`, and some beyond it (R254). -/
  done : Nat
  ahead : List Nat
  /-- The last write has been made. -/
  written : Bool
  follow : Option MatOp
  /-- A sequencer copy of the MGEMM with this id, for this step (R187). -/
  seq : Option (Nat × Nat)
  /-- The translations of the global pages that the command reads or writes, pinned until it completes (R163), and pages
  that it waits for (R282), with those whose fault was declared fatal meanwhile. -/
  pins : List TlbEntry
  pages : List Nat
  fatal : List Nat
  deriving DecidableEq, Repr

/-- The neighbour-paced state of a core (R225), with the arrivals of its block operations. -/
structure Paced where
  on : Bool
  step : Nat
  done : Nat
  /-- DONE as the other cores of the die see it, once the notice has travelled (R227, R250). -/
  published : Nat
  waiton : List Nat
  heldby : List Nat
  skew : Nat
  depth : Nat
  bufbase : Nat
  buflen : Nat
  owner : Option Nat
  /-- The record of the first NPENTER, and the shuttles that stand in NPENTER, STEPDONE and NPEXIT. -/
  record : List W64
  entering : List Nat
  arrived : List Nat
  leaving : List Nat
  /-- This step's DONE has been announced. -/
  announced : Bool
  /-- Shuttles whose STEPDONE or NPEXIT completed while they were stopped at it (R227, R230). -/
  passed : List Nat
  /-- The core has been in the mode and has left it (R230). -/
  left : Bool
  deriving DecidableEq, Repr

/-- What pre-emption saves beside the block's and its shuttles' own fields (R190, R191, R331). -/
structure Image where
  copies : List Copy
  /-- The sequencer's copies that waited in its reserved slot (R150, R189). -/
  slots : List Copy
  mats : List MatOp
  version : Nat
  length : Nat
  /-- Bytes that the image takes, and where it stands in the partition's spill region, shadow storage being full (R331). -/
  bytes : Nat
  spillAt : Option Nat
  /-- The core that the block left (R138). -/
  core : Nat
  /-- The core's neighbour-paced state, where the block took it along (R231). -/
  np : Option Paced
  deriving DecidableEq, Repr

/-- A block (R136, R331). Its region bases, its first barrier object and its tiles are those of the core it stands on. -/
structure Block where
  part : Nat
  launch : Nat
  ctx : Nat
  kern : Kern
  x : Nat
  y : Nat
  z : Nat
  gx : Nat
  gy : Nat
  gz : Nat
  linear : Nat
  args : List W64
  nbars : Nat
  supervisor : Bool
  status : BlockStatus
  site : Nat
  core : Nat
  abase : Nat
  wbase : Nat
  barBase : Nat
  tiles : List Nat
  tenancy : Nat
  /-- Admission order on the package (R82, R83). -/
  admitted : Nat
  a : LStore
  w : LStore
  bars : Tab Barrier
  ctile : Tab Tile
  eregs : Vector ExpReg 32
  oregs : Vector (BitVec 5) 4
  image : Option Image
  /-- When the block began to wait for a place (R323), and what its swap-out waits for (R333). -/
  since : Nat
  onFault : Option Nat
  /-- A pre-emption was requested and steps 1 to 5 of R331 are under way. -/
  stopping : Bool
  /-- It leaves by a swap-out, so that its core stays its own in neighbour-paced mode (R231, R333); the favoured shuttle
  for which stage 2 of the breaker took it out (R83, R324). -/
  swap : Bool
  victim : Option Nat
  /-- Fatal struck: the record, until FATAL_END (R344). -/
  fatal : Option (Nat × TrapRec)
  /-- When the block had stopped, but for the writes that its loads may have returned (R257, R331). -/
  quietAt : Option Nat
  deriving DecidableEq, Repr

/-! ## Cores, quads and dies -/

/-- A message in a send queue, on its way, or in an overflow queue (R239, R242). -/
structure Message where
  h : Nat
  ipc : Nat
  ctx : Nat
  src : Nat
  dst : Nat
  tag : Nat
  xdir : Nat
  payload : List Byte
  /-- In the send queue: the packet has entered the network; the destination refused it and it awaits its claim. -/
  sent : Bool
  refused : Bool
  /-- Since when it stands at the head of its core's send queue (R252). -/
  head : Option Nat
  deriving DecidableEq, Repr

/-- A posted receive (R241). -/
structure Recv where
  h : Nat
  ipc : Nat
  ctx : Nat
  block : Nat
  anyTag : Bool
  anySrc : Bool
  tag : Nat
  src : Nat
  cap : Nat
  bar : Nat
  offset : Nat
  deriving DecidableEq, Repr

/-- A stretch of a store that a block of a context has held since bring-up (R137). -/
structure Tenant where
  w : Bool
  lo : Nat
  len : Nat
  /-- None once the context has ended. -/
  ctx : Option Nat
  deriving DecidableEq, Repr

/-- A core (R134, R138, R149, R179, R225, R239 to R242, R246). -/
structure Core where
  /-- The counter that gives tenancy numbers (R138). -/
  number : Nat
  tenants : List Tenant
  copyQ : List Copy
  copySlots : List Copy
  matQ : List MatOp
  matSlots : List MatOp
  sendQ : List Message
  sendSlots : List Message
  recvs : List Recv
  overflow : List Message
  /-- Source cores with a reserved claim, in the order of their refusal (R240). -/
  claims : List Nat
  /-- Contexts for which overflow full has been raised (R242). -/
  raised : List Nat
  stale : Nat
  np : Paced
  favoured : Option Nat
  cap : Nat
  fenced : Bool
  corrected : Nat
  uncorrected : Nat
  /-- When errors of the last 24 hours struck, and whether each was uncorrectable (R347). -/
  errors : List (Nat × Bool)
  deriving DecidableEq, Repr

/-- An open barrier instance (R160): its grid, its participants and the arrived. -/
structure GInst where
  grid : Nat
  parts : List Nat
  arrived : List Nat
  deriving DecidableEq, Repr

/-- A member of a sharing group (R218). -/
structure Member where
  block : Nat
  tenancy : Nat
  base : Nat
  size : Nat
  lost : Bool
  /-- An SGLEAVE of the block waits, and new peer packets that name it are refused (R221). -/
  leaving : Bool
  deriving DecidableEq, Repr

/-- A slot of a quad's group table (R218): members by core position. -/
structure Group where
  ctx : Nat
  tag : Nat
  members : Tab Member
  deriving DecidableEq, Repr

/-- A quad (R217, R246): its open barriers by id, its groups, its router's congestion count, and the windows of 1024 cycles
whose count has been read. -/
structure Quad where
  bars : Tab GInst
  groups : List Group
  congest : Nat
  windows : Nat
  fenced : Bool
  deriving DecidableEq, Repr

/-- A range (R247). -/
structure Range where
  part : Nat
  ctx : Option Nat
  start : Nat
  next : Nat
  stop : Nat
  div : Nat
  min : Nat
  deriving DecidableEq, Repr

/-- A request to the range unit: the issuing shuttle, and RINIT's record or RGRAB's range and destination (R248). -/
inductive RangeOp | init (r start stop min div : Nat) | grab (r : Nat) (d : SReg)
  deriving DecidableEq, Repr

/-- A copy of a 64-byte line; `inval` is when its invalidation was sent (R348). -/
structure CacheLine where
  bytes : List Byte
  inval : Option Nat
  deriving DecidableEq, Repr

/-- The route table of a die (R236, R237): for a position and a destination of a row's and of a column's ring, 0 none, 1 the
positive and 2 the negative direction. -/
structure Routes where
  x : List (List Nat)
  y : List (List Nat)
  deriving DecidableEq, Repr

/-- A compute die (R235, R246, R247, R256, R282, R299, R305). -/
structure Die where
  joined : Bool
  negotiating : Bool
  fenced : Bool
  /-- It is being taken offline: nothing more is placed on it (R307). -/
  leaving : Bool
  /-- The generation record (R299). -/
  record : BitVec 128
  /-- The route table, once it is loaded (R237). -/
  routes : Option Routes
  bars : Tab GInst
  ranges : Tab Range
  /-- Entries of the range queue that are served and not yet retired, and the refused requests (R249). -/
  rangeQ : List Nat
  rangeSlots : List (Nat × RangeOp)
  tlb : List TlbEntry
  /-- The die cache, and the core data caches by 2^48 times the core plus the line. -/
  cache : Tab CacheLine
  coreCache : Tab CacheLine
  deriving DecidableEq, Repr

/-- Where a packet's flits stand in a router input port (R235): the shared pool, or an escape channel. -/
inductive Buffer | shared | escape (vc : Nat)
  deriving DecidableEq, Repr

/-- The stretch of a packet at one router (R235, R252): the quad, the input (0 to 3 the quad's cores, 4 to 7 the west, east,
north and south inputs, 9 the endpoint whose answer has not entered yet), the buffer, the flits in it, the flits that are
to come, the cycle from which its header is ready, and the output that carries it. Outputs 0 to 3 are the links +X, -X,
+Y, -Y, and 4 to 7 the eject ports of the quad's cores. -/
structure Seat where
  quad : Nat
  port : Nat
  buf : Buffer
  here : Nat
  due : Nat
  ready : Nat
  out : Option Nat
  deriving DecidableEq, Repr

/-- A packet on the router torus (R235, R236, R252). -/
structure NetPacket where
  site : Nat
  /-- The quad where it entered, and the quad it goes to. -/
  origin : Nat
  dstQuad : Nat
  xdir : Nat
  flits : Nat
  reply : Bool
  msg : Message
  /-- For a reply: whether the destination refused. -/
  refusal : Bool
  /-- The stretches of the packet, its header's first; flits that the eject port has taken. -/
  seats : List Seat
  ejected : Nat
  deriving DecidableEq, Repr

/-- What a peer packet asks of its target (R222). -/
inductive PeerReq
  | write (parts : List (Nat × List Byte)) (fill : Bool)
  | land (bar n : Nat)
  deriving DecidableEq, Repr

/-- A peer packet under way inside a quad (R222): its target block, the tenancy at issue, and its issuer. -/
structure PeerPacket where
  core : Nat
  block : Nat
  tenancy : Nat
  h : Nat
  ipc : Nat
  /-- The copy command it belongs to, if any. -/
  copy : Option Nat
  req : PeerReq
  deriving DecidableEq, Repr

/-! ## The hubs -/

/-- A posted write to one line of global memory on its way to its home slice (R256, R294). -/
structure Posted where
  h : Nat
  ipc : Nat
  site : Nat
  core : Nat
  line : Nat
  cells : List Host.Cell
  /-- Performed at .die (R256). -/
  die : Bool
  tmask : Nat
  va : Nat
  /-- The lane word and offset of a run's store. -/
  lane : Option (Nat × Nat)
  /-- The copy or collective command that made it, if one did. -/
  engine : Option Nat
  /-- The write may be a full one: a copy's, a collective's or a lane ST's; it covers the line (R294). -/
  may : Bool
  full : Bool
  /-- The cycle in which it was accepted. -/
  since : Nat
  /-- After a FENCE, its shuttle's copy commands and matrix operations from these numbers on see it (R167, R183, R258). -/
  forCpy : Option Nat
  forMma : Option Nat
  /-- The page is compressed (R296). -/
  comp : Bool
  /-- A write of a trap frame (R340). -/
  frame : Bool
  deriving DecidableEq, Repr

/-- A request in the hub's fault queue (R282). -/
structure FaultReq where
  site : Nat
  ctx : Nat
  page : Nat
  deriving DecidableEq, Repr

/-- A translation in the hub's cache (R308, R310) of a control region or of a run: its words are those the translator
read, by address. -/
structure Translation where
  reed : Bool
  run : Bool
  ctx : Nat
  lo : Nat
  words : List Nat
  current : Bool
  /-- Shuttles whose native program counter lies inside. -/
  inside : List Nat
  deriving DecidableEq, Repr

/-- A loaded code object (R123, R353, R354). -/
structure CodeObj where
  ctx : Nat
  ctlLo : Nat
  ctlLen : Nat
  laneLo : Nat
  laneLen : Nat
  descs : List Nat
  /-- Its global symbols: name and address (R355). -/
  globals : List (List Byte × Nat)
  deriving DecidableEq, Repr

/-- A line of a loaded object (R313): its context and its virtual line, and its contents since an ICINV.pkg last covered it,
each with the step from which it stands, oldest first. -/
structure CodeLine where
  ctx : Nat
  va : Nat
  held : List (Nat × List Byte)
  deriving DecidableEq, Repr

/-- What halt-and-capture holds of a partition (R334): the sequence counter and the launch queues, the saved blocks and
their shuttles, by core the overflow entries and posted receives, by die site the ranges, the context table's bytes and the
frame pool. Open GBAR instances stay where they are, and published DONE values stand in the images (R231). -/
structure Capture where
  seq : Nat
  queues : Tab (List Nat)
  blocks : Tab Block
  shuttles : Tab Shuttle
  overflow : Tab (List Message)
  recvs : Tab (List Recv)
  ranges : Tab (Tab Range)
  table : List Byte
  frames : List Nat
  deriving DecidableEq, Repr

/-- A partition (R314 to R318, R334, R344, R363). Its context table, control page, command window, fatal log and spill
region are stretches of device memory, each named by its physical base (log 75). -/
structure Part where
  granules : List Nat
  super : Option Nat
  queues : Tab (List Nat)
  seq : Nat
  table : Nat
  page : Nat
  window : Nat
  /-- The bytes that the host has written to each slot since the supervisor took it, by the slot's offset (R318). -/
  filled : Tab (List Nat)
  log : Nat
  spill : Nat
  /-- Contexts whose entry the hub has found valid, by index, with the cycle in which each began (R145). -/
  live : Tab Nat
  /-- The launch of a command that the supervisor has read and checked, while its queue is full (R320). -/
  waiting : Option Launch
  frames : List Nat
  groups : Tab Nat
  halted : Bool
  /-- The capture of a halted partition, once it is complete (R334). -/
  capture : Option Capture
  /-- The reservations of R323: who waits, twice a launch's key or twice a block's plus one, and the cores' keys. -/
  reserved : List (Nat × List Nat)
  deriving DecidableEq, Repr

/-- A collective operation (R365). -/
inductive CollKind | red (op fmt : Nat) (exact : Bool) | multicast | gather
  deriving DecidableEq, Repr

/-- A collective command in the queue or in a reserved slot (R366, R367). -/
structure Coll where
  id : Nat
  h : Nat
  ipc : Nat
  block : Nat
  hub : Nat
  gid : Nat
  use : Nat
  rank : Nat
  n : Nat
  root : Nat
  count : Nat
  kind : CollKind
  all : Bool
  src : Option (CSpace × Nat)
  dst : Option (CSpace × Nat)
  bar : Option Nat
  /-- The pinned translations (R366). -/
  pins : List TlbEntry
  read : Bool
  /-- The core and the tenancy number that a delivery into A: goes to, or went to when the hub held the result (R138, R367),
  and whether it is on its way. -/
  toward : Option (Nat × Nat)
  flying : Bool
  deriving DecidableEq, Repr

/-- A rank's contribution, with the operation, the format and COUNT that its command names (R363). -/
structure Contribution where
  kind : CollKind
  count : Nat
  data : List Byte
  deriving DecidableEq, Repr

/-- A command that is not yet performed at .pod (R256, R367): the shuttle, the group and its use, the rank, the ranks of the
group on this package, and whether its own landing report has been made. -/
structure PodWait where
  h : Nat
  gid : Nat
  use : Nat
  rank : Nat
  mine : List Nat
  landed : Bool
  deriving DecidableEq, Repr

/-- A group id's use at a hub (R364). The key is 4096 times the partition plus the id. -/
structure GidUse where
  cur : Nat
  /-- Ranks of commands accepted into the current use. -/
  joined : List Nat
  /-- Packets sent and not yet acknowledged. -/
  unacked : Nat
  contrib : Tab Contribution
  /-- Packets of the next use, held apart. -/
  held : List (Nat × Contribution)
  /-- What the engines' choice of order in this use is drawn by (R369). -/
  stamp : Nat
  deriving DecidableEq, Repr

/-- A hub (R297, R364, R366). -/
structure Hub where
  uses : Tab GidUse
  stale : Nat
  collQ : List Coll
  collSlots : List Coll
  podWaits : List PodWait
  /-- Memory errors that were corrected, and uncorrectable ones that were found (R294, R378). -/
  corrected : Nat
  uncorrected : Nat
  farLost : Bool
  deriving DecidableEq, Repr

/-- A fabric port (R360 to R362). -/
structure Port where
  up : Bool
  /-- CRC errors, by lane and cycle; the lane mapped to the spare; the lane whose repair is pending. -/
  errors : List (Nat × Nat)
  spare : Option Nat
  repair : Option Nat
  /-- The next SEQ; the replay buffer: SEQ, destination package and payload; and the bursts put on the link, each its
  payload and its control flit. -/
  seq : Nat
  replay : List (Nat × Nat × List Nat)
  sent : List (List Nat)
  /-- The last burst received intact, and the payload delivered. -/
  got : Nat
  wantReplay : Bool
  delivered : List Nat
  deriving DecidableEq, Repr

/-- What a context's invariant loads have read (R266): the bytes, by physical address, rising; and those of them that were
written meanwhile. -/
structure InvUse where
  loaded : List Nat
  broken : List Nat
  deriving DecidableEq, Repr

/-- Bytes of a block's store that a stream of a shuttle replaced, and when (R167). -/
structure OldBytes where
  h : Nat
  block : Nat
  ws : Bool
  off : Nat
  bytes : List Byte
  at_ : Nat
  /-- After a FENCE, copy commands from this number on do not read them (R258). -/
  forCpy : Option Nat
  deriving DecidableEq, Repr

/-! ## Host, management and the package -/

/-- The mailbox (R373). -/
structure Mailbox where
  op : Nat
  busy : Bool
  /-- GO has been written, and the command's own step is to come. -/
  started : Bool
  result : Nat
  winbase : Nat
  winctx : Nat
  args : Vector W64 29
  data : Memory
  deriving DecidableEq, Repr

/-- An error-log entry (R379). -/
structure LogEntry where
  time : Nat
  repl : Bool
  site : Nat
  quad : Nat
  core : Nat
  cause : Nat
  deriving DecidableEq, Repr

/-- The management plane (R374 to R379). -/
structure Mgmt where
  mailbox : Mailbox
  msix : List Nat
  log : List LogEntry
  staged : List Byte
  firmware : List Byte
  images : List (List Byte)
  /-- The host buffer that the endpoint last wrote, by host address (R376), the stretch of host memory that it last read
  (R374), and the last answer to a host read (R371, R372). -/
  hostBuf : List (Nat × List Byte)
  hostRead : Option (Nat × Nat)
  answer : List Byte
  unsupported : Bool
  telemetry : List Nat
  cap : Nat
  newCap : Option Nat
  mhz : Nat
  /-- The cycle from which the present clock runs, and the picoseconds since bring-up that had passed by then (R379). -/
  clockFrom : Nat
  clockPs : Nat
  /-- The average power of the last window, in mW (R378). -/
  power : Nat
  hold : Bool
  calmSince : Option Nat
  capRequests : Nat
  window : Nat
  deriving DecidableEq, Repr

/-- What a hub's free-space manager has in 512-byte steps: free space, the far tier's, and what is drawn from the reserve
(R296). -/
structure Pool where
  free : Nat
  far : Nat
  reserve : Nat
  deriving DecidableEq, Repr

/-- Where the steps of a compressed block come from (R296). -/
inductive Store512 | free | far | reserve
  deriving DecidableEq, Repr

/-- Compressed storage (R296): the 512-byte steps that each 4 KiB block holds and where, and the pools by hub. -/
structure Compress where
  blocks : Tab (Nat × Store512)
  pools : Tab Pool
  hold : Bool
  deriving DecidableEq, Repr

/-- One turn of an agent: what the next step does (log 1). -/
inductive Turn
  /-- A shuttle's control stream executes its next word. -/
  | control (h : Nat)
  /-- A shuttle's running run executes its next lane word. -/
  | lane (h : Nat)
  /-- A step of another agent that has a row in the opcode table. -/
  | event (i : Instr)
  /-- Cycles pass (log 5). -/
  | pass (n : Nat)
  /-- A copy command moves its next 16-byte unit (R149). -/
  | copyUnit (c i : Nat)
  /-- A posted write reaches its die cache (R256). -/
  | toDie (i : Nat)
  /-- One atomic piece of a posted write goes on by itself (R255). -/
  | split (i : Nat)
  /-- A shuttle's 16-byte global load reads one of its halves (R255); a granule of a core's next operand row is read (R183). -/
  | halfLoad (h : Nat)
  | granule (c : Nat)
  /-- A die caches a translation (R282) or a line, or a core takes a line (R256). -/
  | tlbFill (site ctx page : Nat)
  | dieFill (site line : Nat)
  | coreFill (site core line : Nat)
  /-- A waiting invalidate command completes for the pages that are no longer pinned (R283). -/
  | invalidate (i : Nat)
  /-- The page of a fetch fault is requested while its block is out (R333). -/
  | refetch (b : Nat)
  /-- The translator makes native code for what a shuttle waits to execute (R308). -/
  | translateFor (h : Nat)
  /-- A packet's flits move from its seat `j` to the one before, or into its endpoint (R235); a reply enters (R235). -/
  | flit (i j : Nat)
  | replyEnter (i : Nat)
  /-- A collective delivery into A: sets out for its core (R138, R367); a command is performed at .pod (R256, R367). -/
  | collDeliver (hub id : Nat)
  | podReport (hub i : Nat)
  /-- The hub serves a partition's control page (R314, R330, R334); the capture of a halted partition is complete (R334). -/
  | controlPage (p : Nat)
  | capture (p : Nat)
  /-- The hub looks at an entry of a context table (R145, R317); a die that is being taken offline leaves the pool once it is
  empty (R307). -/
  | contextLook (p idx : Nat)
  | offline (site : Nat)
  /-- The hub halts the partitions with compressed regions, its reserve being short (R296). -/
  | reserveShort
  /-- Corrected memory errors are counted (R294). -/
  | memCorrected (hub : Nat)
  /-- The range unit retires its oldest served request (R249). -/
  | rangeRetire (site : Nat)
  /-- Packets of a group's use are acknowledged (R364). -/
  | collectiveAck (hub gid : Nat)
  /-- An uncorrectable error strikes a line of memory (R294). -/
  | strike (line : Nat)
  /-- The host reads or writes BAR0 (R371); the mailbox answers a command of an unknown OP (R374). -/
  | bar0 (write : Bool) (off n : Nat) (data : List Byte)
  | unknownOp
  /-- The supervisor gives frames to its pool (R282), or a group-table entry to the hub (R363). -/
  | frames (p : Nat) (pas : List Nat)
  | groupEntry (p gid entry : Nat)
  /-- The supervisor allots a range that its partition holds to a context (R247). -/
  | allotRange (site r ctx : Nat)
  /-- A code object is loaded into a context at a base (R353 to R359). -/
  | load (ctx base : Nat) (file : List Byte)
  /-- The object at an index of the loaded ones is unloaded (R359). -/
  | unload (i : Nat)
  /-- A soft error of a core is corrected (R151, R347). -/
  | corrected (core : Nat)
  /-- A hub sends payload flits to another package (R360, R361); the traffic of a fenced port moves to the next (R362). -/
  | linkSend (pkg : Nat) (flits : List Nat)
  | linkMove (port : Nat)
  deriving DecidableEq, Repr

/-- The machine. `agenda`, `cur`, `tick` and `nextId` are the model's own (log 1, log 3). -/
structure State where
  /-- The turns that come next, in order; empty when the machine picks among its own. -/
  agenda : List Turn
  /-- The shuttle whose instruction executes. -/
  cur : Option Nat
  /-- Steps so far; unpredictable values are drawn by it. -/
  tick : Nat
  /-- Arithmetic cycles since power-on. -/
  now : Nat
  nextId : Nat
  started : Bool
  recovery : Bool
  pkg : Nat
  shuttles : Tab Shuttle
  blocks : Tab Block
  cores : Tab Core
  quads : Tab Quad
  dies : Tab Die
  net : List NetPacket
  peers : List PeerPacket
  mem : Memory
  /-- Poisoned lines, and lines with an error not yet found, by physical line number (R294, R295). -/
  poison : List Nat
  bad : List Nat
  retired : List Nat
  posted : List Posted
  faults : List FaultReq
  /-- Invalidate commands that wait for pinned pages: context, address and length (R283). -/
  invals : List (Nat × Nat × Nat)
  /-- What the contexts' invariant loads have read (R266), and what the lines of memory held before each write, with the
  cycle of the write, oldest first. -/
  inv : Tab InvUse
  past : Tab (List (Nat × List Byte))
  /-- Bytes of local stores before a stream's store replaced them, which a copy of the same shuttle without `.acq` may
  still read (R167). -/
  older : List OldBytes
  /-- What fetches may still find, by physical line of a loaded object (R313). -/
  code : Tab CodeLine
  trans : List Translation
  objs : List CodeObj
  launches : Tab Launch
  parts : Tab Part
  hubs : Tab Hub
  ports : Tab Port
  /-- The pod route table: ports in order of preference, by destination package (R360). -/
  podRoutes : Tab (List Nat)
  lostPkgs : List Nat
  compress : Compress
  mgmt : Mgmt
  deriving DecidableEq, Repr

/-- The reasons a step stops with a fault. -/
inductive Fault
  /-- Raised by a shuttle's instruction when `cur` names no shuttle of the machine: exec is then asked for the
  effect of an instruction that nobody executes. A turn reaches it only as the event of a word's instruction, which no
  agent takes. Safe. -/
  | noShuttle
  /-- Raised by a lane instruction when the shuttle that `cur` names has no run in its queue: exec is then asked for an
  instruction of no run. No turn of the machine reaches it. Safe. -/
  | noRun
  deriving DecidableEq, Repr

/-- The reasons a step is refused. -/
inductive Refusal
  /-- Raised by an arm of exec whose instruction has no meaning yet. Safe. -/
  | notModelled (mnemonic : String)
  deriving DecidableEq, Repr

/-! ## Initial values -/

/-- Mode off (R217). -/
def Paced.off : Paced :=
  { on := false, step := 0, done := 0, published := 0, waiton := [], heldby := [], skew := 0, depth := 0, bufbase := 0,
    buflen := 0, owner := none, record := [], entering := [], arrived := [], leaving := [], announced := false,
    passed := [], left := false }

/-- A core at bring-up (R138, R217, R246). -/
def Core.initial : Core :=
  { number := 0, tenants := [], copyQ := [], copySlots := [], matQ := [], matSlots := [], sendQ := [], sendSlots := [],
    recvs := [], overflow := [], claims := [], raised := [], stale := 0, np := Paced.off, favoured := none, cap := 128,
    fenced := false, corrected := 0, uncorrected := 0, errors := [] }

/-- A quad at bring-up (R217). -/
def Quad.initial : Quad := { bars := [], groups := [], congest := 0, windows := 0, fenced := false }

/-- A die before its negotiation (R305, R307); its generation record is fixed (R299). -/
def Die.initial (site : Nat) : Die :=
  { joined := false, negotiating := false, fenced := false, leaving := false, record := Config.genRecord site, routes := none, bars := [], ranges := [], rangeQ := [],
    rangeSlots := [], tlb := [], cache := [], coreCache := [] }

/-- A group id's first use (R364). -/
def GidUse.initial : GidUse := { cur := 15, joined := [], unacked := 0, contrib := [], held := [], stamp := 0 }

/-- A hub at bring-up. -/
def Hub.initial : Hub := { uses := [], stale := 0, collQ := [], collSlots := [], podWaits := [], corrected := 0, uncorrected := 0, farLost := false }

/-- A port at bring-up (R361). -/
def Port.initial : Port :=
  { up := false, errors := [], spare := none, repair := none, seq := 0, replay := [], sent := [], got := 0xFFF,
    wantReplay := false, delivered := [] }

/-- A barrier object at admission: zero but for TENANCY (R137). -/
def Barrier.zero (tenancy : Nat) : Barrier :=
  { landed := 0, expBytes := 0, tenancy := tenancy, arrived := 0, expArr := 0, init := false, ova := false, ovb := false,
    phase := false }

/-- An empty expansion register (R193). -/
def ExpReg.empty : ExpReg :=
  { kind := 0, centre := (0, 0), radius := 0, coef := Vector.replicate 32 (0, 0), owner := none }

/-- The mailbox at power-on (log 6). -/
def Mailbox.initial : Mailbox :=
  { op := 0, busy := false, started := false, result := 0, winbase := 0, winctx := 0, args := Vector.replicate 29 0, data := [] }

/-- The management plane at power-on: the arithmetic clock of R7, and the power cap of log 6. -/
def Mgmt.initial : Mgmt :=
  { mailbox := Mailbox.initial, msix := [], log := [], staged := [], firmware := [], images := [], hostBuf := [],
    hostRead := none, answer := [], unsupported := false, telemetry := [], cap := 3600, newCap := none, mhz := 940,
    clockFrom := 0, clockPs := 0, power := 0,
    hold := false, calmSince := none, capRequests := 0, window := 0 }

/-- A hub's space with nothing in it: half of HBM4E and of the far tier in 512-byte steps, the reserve untouched (R296). -/
def Pool.initial : Pool := { free := 384 * 2 ^ 21, far := 2 ^ 33, reserve := 0 }

/-- Compressed storage with nothing in it. -/
def Compress.initial : Compress := { blocks := [], pools := [], hold := false }

/-- The package right after power-on and before bring-up (R375 and the steps after it): nothing joined, nothing
built, nothing resident, memory with nothing listed. -/
def State.reset : State :=
  { agenda := [], cur := none, tick := 0, now := 0, nextId := 1, started := false, recovery := false, pkg := 0,
    shuttles := [], blocks := [], cores := [], quads := [], dies := [], net := [], peers := [], mem := [], poison := [],
    bad := [], retired := [], posted := [], faults := [], invals := [], inv := [], past := [], older := [], code := [], trans := [], objs := [], launches := [], parts := [],
    hubs := [], ports := [], podRoutes := [], lostPkgs := [], compress := Compress.initial, mgmt := Mgmt.initial }

end Sys2Proof.Machine
end

