-- ==== Sys2Proof/Machine/Access.lean ====
section
/-! DEFINITION. Reading and changing one piece of the state: tables with their default entries, the registers of a
shuttle (R70), and the shuttle whose turn it is. -/

namespace Sys2Proof.Machine

/-! ## Tables of the state -/

def State.core (s : State) (c : Nat) : Core := Tab.getD s.cores c Core.initial
def State.updCore (s : State) (c : Nat) (f : Core → Core) : State :=
  { s with cores := Tab.set s.cores c (f (s.core c)) }
def State.quad (s : State) (q : Nat) : Quad := Tab.getD s.quads q Quad.initial
def State.updQuad (s : State) (q : Nat) (f : Quad → Quad) : State :=
  { s with quads := Tab.set s.quads q (f (s.quad q)) }
def State.die (s : State) (d : Nat) : Die := Tab.getD s.dies d (Die.initial d)
def State.updDie (s : State) (d : Nat) (f : Die → Die) : State := { s with dies := Tab.set s.dies d (f (s.die d)) }
def State.hub (s : State) (h : Nat) : Hub := Tab.getD s.hubs h Hub.initial
def State.updHub (s : State) (h : Nat) (f : Hub → Hub) : State := { s with hubs := Tab.set s.hubs h (f (s.hub h)) }
def State.port (s : State) (p : Nat) : Port := Tab.getD s.ports p Port.initial
def State.updPort (s : State) (p : Nat) (f : Port → Port) : State :=
  { s with ports := Tab.set s.ports p (f (s.port p)) }
def State.sh? (s : State) (h : Nat) : Option Shuttle := Tab.get? s.shuttles h
def State.updSh (s : State) (h : Nat) (f : Shuttle → Shuttle) : State :=
  { s with shuttles := Tab.upd s.shuttles h f }
def State.blk? (s : State) (b : Nat) : Option Block := Tab.get? s.blocks b
def State.updBlk (s : State) (b : Nat) (f : Block → Block) : State := { s with blocks := Tab.upd s.blocks b f }
def State.part? (s : State) (p : Nat) : Option Part := Tab.get? s.parts p
def State.updPart (s : State) (p : Nat) (f : Part → Part) : State := { s with parts := Tab.upd s.parts p f }
def State.launch? (s : State) (l : Nat) : Option Launch := Tab.get? s.launches l
def State.updLaunch (s : State) (l : Nat) (f : Launch → Launch) : State :=
  { s with launches := Tab.upd s.launches l f }
/-- The management plane changed. -/
def State.updMgmt (s : State) (f : Mgmt → Mgmt) : State := { s with mgmt := f s.mgmt }

/-! ## Keys -/

/-- The block of a shuttle. -/
def blockOf (h : Nat) : Nat := h / 64
/-- The key of the core a block stands on. -/
def Block.coreKey (b : Block) : Nat := 128 * b.site + b.core
/-- The key of the quad a block stands on (R131). -/
def Block.quadKey (b : Block) : Nat := 32 * b.site + b.core / 4
/-- The position of a block's core in its quad. -/
def Block.pos (b : Block) : Nat := b.core % 4
/-- The hub that serves a die site (log 17). -/
def hubOf (site : Nat) : Nat := site / 6
/-- The package number of a granule (R374). -/
def granuleNo (site j : Nat) : Nat := if site < 8 then 8 * site + j else 64 + 6 * (site - 8) + j
/-- The key of a launch. -/
def launchKey (part seq : Nat) : Nat := part * 2 ^ 63 + seq
/-- The keys of the shuttles of a block, lowest index first. -/
def State.shuttlesOf (s : State) (b : Nat) : List Nat := (s.shuttles.map (·.1)).filter (blockOf · == b)
/-- The block takes space on its core: it is resident, or placed and about to be admitted. -/
def Block.holds (b : Block) : Bool := b.status == .resident || b.status == .placed
/-- The keys of the blocks that take space on a core, lowest first. -/
def State.blocksOn (s : State) (c : Nat) : List Nat :=
  (s.blocks.filter fun e => e.2.holds && e.2.coreKey == c).map (·.1)
/-- The keys of the shuttles resident on a core (those that hold a slot). -/
def State.shuttlesOn (s : State) (c : Nat) : List Nat :=
  (s.shuttles.filter fun e => e.2.status != .exited && (s.blocksOn c).contains (blockOf e.1)).map (·.1)

/-! ## Registers (R70) -/

/-- s0 reads zero and discards writes. -/
def Shuttle.readS (sh : Shuttle) (r : SReg) : W64 := if r = 0 then 0 else sh.s.get r
def Shuttle.writeS (sh : Shuttle) (r : SReg) (v : W64) : Shuttle :=
  if r = 0 then sh else { sh with s := sh.s.set r v }
/-- k0 reads true and discards writes. -/
def Shuttle.readK (sh : Shuttle) (r : KReg) : Bool := if r = 0 then true else sh.k.get r
def Shuttle.writeK (sh : Shuttle) (r : KReg) (v : Bool) : Shuttle :=
  if r = 0 then sh else { sh with k := sh.k.set r v }
/-- m0 reads 0xFF and discards writes. -/
def Shuttle.readM (sh : Shuttle) (r : MReg) : BitVec 8 := if r = 0 then 0xFF else sh.m.get r
def Shuttle.writeM (sh : Shuttle) (r : MReg) (v : BitVec 8) : Shuttle :=
  if r = 0 then sh else { sh with m := sh.m.set r v }
/-- The register `n` places on in a group of four (R185, R226, R248, R287). -/
def SReg.plus (r : SReg) (n : Nat) : SReg := Fin.ofNat 64 (r.val + n)

/-- The next control word; what the shuttle waited for is over. -/
def Shuttle.advance (sh : Shuttle) : Shuttle := { sh with pc := sh.pc + 4, wait := .none, waitPages := [], fatalPages := [], record := none }
/-- The control stream goes on at `t` (R124). -/
def Shuttle.jump (sh : Shuttle) (t : W64) : Shuttle := { sh with pc := t, wait := .none, waitPages := [], fatalPages := [] }
/-- The control stream stands at its word, waiting (R112). -/
def Shuttle.stand (sh : Shuttle) (w : Wait) : Shuttle := { sh with wait := w }

/-- The runs that count for a drain wait: in handler mode the frozen queue does not (R75, R341). -/
def Shuttle.drained (sh : Shuttle) : Bool := sh.handler || sh.queue.isEmpty

/-! ## The shuttle whose turn it is -/

/-- The executing shuttle with its block. -/
structure Who where
  h : Nat
  sh : Shuttle
  blk : Block

/-- The shuttle that `cur` names, with its block. -/
def State.who? (s : State) : Option Who :=
  match s.cur with
  | none => none
  | some h =>
    match s.sh? h, s.blk? (blockOf h) with
    | some sh, some blk => some { h := h, sh := sh, blk := blk }
    | _, _ => none

/-- A shuttle's instruction: its effect, or the fault of an instruction that nobody executes. -/
def onCur (s : State) (f : Who → State) : Host.Outcome State Fault Refusal :=
  match s.who? with
  | some w => .next (f w)
  | none => .fault .noShuttle

/-- The key of the core that executes. -/
def Who.coreKey (w : Who) : Nat := w.blk.coreKey
/-- The key of the executing block. -/
def Who.b (w : Who) : Nat := blockOf w.h

/-- The instruction completes: the shuttle changes as `f` says and goes on at its next word. -/
def State.complete (s : State) (w : Who) (f : Shuttle → Shuttle) : State :=
  s.updSh w.h fun sh => (f sh).advance

/-- The instruction waits and will execute again (R112, log 4). -/
def State.waits (s : State) (w : Who) (why : Wait) : State := s.updSh w.h (·.stand why)

/-- The instruction waits for pages. -/
def Shuttle.standOn (sh : Shuttle) (ps : List Nat) : Shuttle := { sh with wait := .memory, waitPages := ps }

end Sys2Proof.Machine
end

