-- ==== Sys2Proof/Machine/Flags.lean ====
section
/-! DEFINITION. Control types (R33), the conditions of compares (R116, R103) and sets of predicates and masks (R119). -/

namespace Sys2Proof.Machine

/-! ## Control types -/

/-- Width in bits (R33). -/
def cWidth : CType → Nat
  | .s64 | .n64 => 64
  | .s32 | .n32 => 32
/-- The type compares and extends as signed. -/
def cSigned : CType → Bool
  | .s64 | .s32 => true
  | .n64 | .n32 => false
/-- The bits that the type reads (R113). -/
def cNat (t : CType) (a : W64) : Nat := a.toNat % 2 ^ cWidth t
/-- The value that the type reads. -/
def cInt (t : CType) (a : W64) : Int := if cSigned t then toSigned (cWidth t) a.toNat else (cNat t a : Int)
/-- A result of the type: wrapped to its width, then extended to 64 bits (R33, R113). -/
def cExt (t : CType) (x : Int) : W64 :=
  let n := (x % (2 ^ cWidth t : Nat)).toNat
  if cSigned t then BitVec.ofInt 64 (toSigned (cWidth t) n) else BitVec.ofNat 64 n

/-- A 12-bit immediate, sign-extended (R114). -/
def imm64 (i : BitVec 12) : W64 := i.signExtend 64

/-! ## Conditions -/

/-- An integer condition over exact values (R116, R103). -/
def iHolds (c : ICond) (a b : Int) : Bool :=
  match c with
  | .eq => a == b
  | .ne => a != b
  | .lt => decide (a < b)
  | .le => decide (a ≤ b)
  | .gt => decide (b < a)
  | .ge => decide (b ≤ a)

/-- The immediate conditions of CMP (R116). -/
def immHolds (c : ImmCond) (a b : W64) : Bool :=
  match c with
  | .eq => a == b
  | .ne => a != b
  | .ltS => decide (a.toInt < b.toInt)
  | .ltN => decide (a.toNat < b.toNat)

/-- A guarded transfer's condition (R120). -/
def predHolds (sh : Shuttle) (p : KReg) (neg : Bool) : Bool := xor (sh.readK p) neg

/-! ## Predicate and mask sets -/

/-- The predicates as an 8-bit number with bit n = k[n] (R119). -/
def Shuttle.predBits (sh : Shuttle) : Nat :=
  (List.finRange 8).foldl (fun acc n => acc + if sh.readK n then 2 ^ n.val else 0) 0

/-- k1 to k7 set from a number's bits (R119). -/
def Shuttle.setPreds (sh : Shuttle) (v : Nat) : Shuttle :=
  (List.finRange 8).foldl (fun x n => x.writeK n (v.testBit n.val)) sh

/-- Bit t of a mask. -/
def maskBit (m : BitVec 8) (t : Nat) : Bool := m.getLsbD t

/-- A mask with bit t replaced. -/
def setMaskBit (m : BitVec 8) (t : Nat) (v : Bool) : BitVec 8 :=
  if v then m ||| BitVec.ofNat 8 (2 ^ t) else m &&& ~~~(BitVec.ofNat 8 (2 ^ t))

end Sys2Proof.Machine
end

