-- ==== Sys2Proof/WellFormed.lean ====
section
/-! DEFINITION. Which terms of the syntax an encoding of R29 to R43 admits. A step of another agent has no encoding, and
every term of it is well formed. -/

namespace Sys2Proof

/-- A bit function accepts only the codes 00 and 11 (R33, R113). -/
def CType.bitOk : CType → Bool
  | .s64 | .n32 => true
  | .n64 | .s32 => false

/-- SRA accepts only `.s64` and `.s32` (R113). -/
def CType.sraOk : CType → Bool
  | .s64 | .s32 => true
  | .n64 | .n32 => false

/-- Scope 1 to 5 when a flag is set, 0 otherwise (R162). -/
def CopyMods.wf (m : CopyMods) : Bool := (m.acq || m.rel) == (m.scope != .lane)

/-- The guard `?!m0` is no guard (R35). -/
def Head.wf (h : Head) : Bool := !(h.mask == 0 && h.neg)

/-- The immediate an operand names, if it names it. -/
def LSrc.immOf : LSrc → Option W32
  | .imm v => some v
  | _ => none

/-- Two operands that name the immediate share it (R19). -/
def immsAgree (os : List LSrc) : Bool :=
  (os.filterMap LSrc.immOf).all (· == (os.filterMap LSrc.immOf).headD 0)

/-- An operand that does not name imm32: asked where the op uses imm32 otherwise (R36). -/
def LSrc.notImm : LSrc → Bool
  | .imm _ => false
  | _ => true

/-- The registers that one thread's value fills: 1, a pair or a quad (R36). -/
def MType.regs : MType → Nat
  | .b64 => 2
  | .b128 => 4
  | .b32 | .n8 | .s8 | .n16 | .s16 => 1

/-- Bytes of one access (R153). -/
def MType.size : MType → Nat
  | .n8 | .s8 => 1
  | .n16 | .s16 => 2
  | .b32 => 4
  | .b64 => 8
  | .b128 => 16

/-- A load's destination: the latch for a one-register type, an aligned main-level group for a pair or quad (R36, R154). -/
def MType.dstOk (t : MType) : LDst → Bool
  | .main n => n.val % t.regs == 0
  | .opf _ | .lat => t.regs == 1

/-- A main-file register or the latch (R229). -/
def LDst.notOpf : LDst → Bool
  | .main _ | .lat => true
  | .opf _ => false

/-- A store's data: an aligned main-level group for a pair or quad (R36). -/
def MType.dataOk (t : MType) : LSrc → Bool
  | .main n _ => n.val % t.regs == 0
  | .imm _ => false
  | .opf _ | .lat | .uni _ => t.regs == 1

/-- The base of an access: in space G a scalar register or an even main-level pair (R284); never imm32 (R36). -/
def LSpace.baseOk : LSpace → LSrc → Bool
  | .g, .uni _ => true
  | .g, .main n _ => n.val % 2 == 0
  | .g, _ => false
  | _, o => o.notImm

/-- Spaces whose granules carry full/empty bits that LD and ST may name (R38). -/
def LSpace.granular : LSpace → Bool
  | .a | .peer _ => true
  | .g | .w => false

/-- A step qualifier needs space A, and `.step-0` has no encoding (R38). -/
def MemCtl.stepOk (m : MemCtl) : Bool :=
  match m.step with
  | none => true
  | some q => m.space == .a && !(q.neg && q.d == 0)

/-- The memory control of LD (R38). -/
def MemCtl.ldOk (m : MemCtl) : Bool :=
  m.stepOk && m.space != .w && (!m.wf || m.space.granular) && (!m.clr || m.wf) &&
    (!m.inv || (m.space == .g && !m.wf && !m.clr))

/-- The memory control of ST (R38). -/
def MemCtl.stOk (m : MemCtl) : Bool :=
  m.stepOk && m.space != .w && (!m.wf || m.space.granular) && !m.clr && !m.inv

/-- Source formats of CVTPK (R100). -/
def Fmt.packSrc : Fmt → Bool
  | .s32 | .n32 | .f32 => true
  | _ => false

/-- Destination formats of CVTPK (R100). -/
def Fmt.packDst : Fmt → Bool
  | .s32 | .n32 | .f32 => false
  | _ => true

/-- The block-scaled formats of QBLK and DQBLK (R101, R102). -/
def Fmt.block : Fmt → Bool
  | .e4m3 | .e5m2 | .e2m1 => true
  | _ => false

/-- The check of one term: what an encoding admits (R29 to R43). -/
def Instr.wf : Instr → Bool
  | .andReg _ _ _ t | .orReg _ _ _ t | .xorReg _ _ _ t | .andn _ _ _ t | .shlReg _ _ _ t | .shrReg _ _ _ t
  | .rotReg _ _ _ t => t.bitOk
  | .popcReg _ _ t | .clzReg _ _ t | .ctz _ _ t => t.bitOk
  | .sraReg _ _ _ t => t.sraOk
  | .cmpReg k _ _ _ _ => k != 0
  | .cmpImm k _ _ _ => k != 0
  | .br p n _ | .call p n _ => !(p == 0 && n)
  | .kand d _ _ | .kor d _ _ | .kxor d _ _ => d != 0
  | .knot d _ => d != 0
  | .movms m _ => m != 0
  | .cpy _ _ _ m | .cpyt _ _ _ m | .cpyg _ _ _ m | .cpym _ _ _ m => m.wf
  | .mgemm _ a _ _ _ => a.val % 4 == 0 && a != 0
  | .npenter a | .rinit a => a.val % 4 == 0 && a != 0
  | .xadm k _ _ => k != 0
  | .lAdd h _ _ _ a b | .lSub h _ _ _ a b | .lMul h _ _ _ a b => h.wf && immsAgree [a, b]
  | .lMulhi h _ _ a b | .lMin h _ _ a b | .lMax h _ _ a b => h.wf && immsAgree [a, b]
  | .lMad h _ _ _ a b c | .lSum3 h _ _ _ a b c | .lClamp h _ _ _ a b c => h.wf && immsAgree [a, b, c]
  | .lQdot h _ _ _ a b c | .lHdot h _ _ _ a b c => h.wf && immsAgree [a, b, c]
  | .lAbs h _ _ _ _ | .lNeg h _ _ _ _ => h.wf
  | .lMulfull h _ d a b => h.wf && d.val % 2 == 0 && immsAgree [a, b]
  | .lAnd h _ a b | .lOr h _ a b | .lXor h _ a b | .lShl h _ a b | .lShr h _ a b | .lRot h _ a b =>
    h.wf && immsAgree [a, b]
  | .lNot h _ _ | .lPopc h _ _ | .lClz h _ _ | .lBrev h _ _ => h.wf
  | .lSra h _ _ a b => h.wf && immsAgree [a, b]
  | .lBfx h _ _ a b c => h.wf && immsAgree [a, b, c]
  | .lBfi h _ a b c | .lBytesel h _ a b c => h.wf && immsAgree [a, b, c]
  | .lTruth h _ a b c _ => h.wf && a.notImm && b.notImm && c.notImm
  | .lScadd h _ a b _ => h.wf && immsAgree [a, b]
  | .lFunnel h _ _ a b c => h.wf && immsAgree [a, b, c]
  | .lFadd h _ _ _ a b | .lFsub h _ _ _ a b | .lFmul h _ _ _ a b => h.wf && immsAgree [a, b]
  | .lFma h _ _ _ a b c | .lFdot2 h _ _ _ a b c => h.wf && immsAgree [a, b, c]
  | .lFmin h _ _ a b | .lFmax h _ _ a b | .lFcpsgn h _ _ a b => h.wf && immsAgree [a, b]
  | .lFclamp h _ _ a b c => h.wf && immsAgree [a, b, c]
  | .lFabs h _ _ _ | .lFneg h _ _ _ => h.wf
  | .lFrnd h _ _ _ _ => h.wf
  | .lFdiv h _ a b => h.wf && immsAgree [a, b]
  | .lFsqrt h _ _ | .lFrcp h _ _ | .lFrsq h _ _ | .lFexp2 h _ _ | .lFlog2 h _ _ | .lFsin h _ _ | .lFcos h _ _
  | .lFclass h _ _ => h.wf
  | .lFldexp h _ _ a b => h.wf && immsAgree [a, b]
  | .lCvt h _ _ _ _ _ _ => h.wf
  | .lCvtpk h df sf _ _ _ a b => h.wf && df.packDst && sf.packSrc && immsAgree [a, b]
  | .lQblk h df _ _ _ a b => h.wf && df.block && immsAgree [a, b]
  | .lDqblk h sf _ a b => h.wf && sf.block && immsAgree [a, b]
  | .lIcmp h _ _ d a b => h.wf && d != 0 && immsAgree [a, b]
  | .lFcmp h _ _ d a b => h.wf && d != 0 && immsAgree [a, b]
  | .lSel h _ a b _ => h.wf && immsAgree [a, b]
  | .lMlogic h _ d _ _ => h.wf && d != 0
  | .lPass h _ _ a b => h.wf && immsAgree [a, b]
  | .lVote h _ _ _ => h.wf
  | .lRed h _ _ _ => h.wf
  | .lScan h _ _ _ _ => h.wf
  | .lMov h _ _ => h.wf
  | .lLtid h _ => h.wf
  | .lLd h t mc d a _ => h.wf && mc.ldOk && t.dstOk d && mc.space.baseOk a
  | .lSt h t mc a b _ => h.wf && mc.stOk && t.dataOk b && mc.space.baseOk a
  | .lLdw h t w c d a _ => h.wf && (!c || w) && t.dstOk d && a.notImm
  | .lLdg h wide d _ b _ => h.wf && (if wide then MType.b64 else MType.b32).dstOk d && b.notImm
  | .lBld h _ r b _ => h.wf && r.val % 4 == 0 && b.notImm
  | .lBst h r b c _ => h.wf && r.val % 4 == 0 && b.notImm && c.notImm
  | .lAmo h _ _ sp _ a b _ => h.wf && sp != .w && sp.baseOk a && b.notImm
  | .lAmo3 h _ _ sp _ _ a b c => h.wf && sp != .w && sp.baseOk a && b.notImm && c.notImm
  | .lRld h t d a b c _ => h.wf && t.dstOk d && d.notOpf && a.notImm && b.notImm && c.notImm
  | .lXform h _ _ a b c => h.wf && a.notImm && b.notImm && c.notImm
  | .lXeval h d _ _ a b => h.wf && d.val % 4 == 0 && a.notImm && b.notImm
  | .lXnear h a b _ => h.wf && a.notImm && b.notImm
  | _ => true

end Sys2Proof
end

