-- ==== Sys2Proof/Decode.lean ====
section
/-! DEFINITION. From words to instructions and back (R28 to R44). Decoding is total: a word that is no instruction is
rejected with the slot of Table 9, the lowest of its faults (R46). The encoder writes the words of a well-formed term. -/

namespace Sys2Proof

/-! ## Shared codes (R33, R37) -/

def CType.ofCode : Nat → CType
  | 0 => .s64 | 1 => .n64 | 2 => .s32 | _ => .n32
def CType.code : CType → Nat
  | .s64 => 0 | .n64 => 1 | .s32 => 2 | .n32 => 3

def Scope.ofCode : Nat → Scope
  | 0 => .lane | 1 => .core | 2 => .quad | 3 => .die | 4 => .pkg | _ => .pod
def Scope.code : Scope → Nat
  | .lane => 0 | .core => 1 | .quad => 2 | .die => 3 | .pkg => 4 | .pod => 5

def Rnd.ofCode : Nat → Rnd
  | 0 => .rne | 1 => .rtz | 2 => .rdn | 3 => .rup | _ => .rna
def Rnd.code : Rnd → Nat
  | .rne => 0 | .rtz => 1 | .rdn => 2 | .rup => 3 | .rna => 4

def ICond.ofCode : Nat → ICond
  | 0 => .eq | 1 => .ne | 2 => .lt | 3 => .le | 4 => .gt | _ => .ge
def ICond.code : ICond → Nat
  | .eq => 0 | .ne => 1 | .lt => 2 | .le => 3 | .gt => 4 | .ge => 5

def FCond.ofCode : Nat → FCond
  | 0 => .eq | 1 => .ne | 2 => .lt | 3 => .le | 4 => .gt | 5 => .ge | 6 => .ord | _ => .unord
def FCond.code : FCond → Nat
  | .eq => 0 | .ne => 1 | .lt => 2 | .le => 3 | .gt => 4 | .ge => 5 | .ord => 6 | .unord => 7

def Fmt.ofCode : Nat → Fmt
  | 0 => .s8 | 1 => .s16 | 2 => .s32 | 3 => .n8 | 4 => .n16 | 5 => .n32 | 6 => .f32 | 7 => .f16 | 8 => .bf16
  | 9 => .e4m3 | 10 => .e5m2 | _ => .e2m1
def Fmt.code : Fmt → Nat
  | .s8 => 0 | .s16 => 1 | .s32 => 2 | .n8 => 3 | .n16 => 4 | .n32 => 5 | .f32 => 6 | .f16 => 7 | .bf16 => 8
  | .e4m3 => 9 | .e5m2 => 10 | .e2m1 => 11

def ImmCond.ofCode : Nat → ImmCond
  | 0 => .eq | 1 => .ne | 2 => .ltS | _ => .ltN
def ImmCond.code : ImmCond → Nat
  | .eq => 0 | .ne => 1 | .ltS => 2 | .ltN => 3

def LdsU.ofCode : Nat → LdsU
  | 0 => .n8 | 1 => .n16 | 2 => .n32 | _ => .b64
def LdsU.code : LdsU → Nat
  | .n8 => 0 | .n16 => 1 | .n32 => 2 | .b64 => 3

def LdsS.ofCode : Nat → LdsS
  | 0 => .s8 | 1 => .s16 | _ => .s32
def LdsS.code : LdsS → Nat
  | .s8 => 0 | .s16 => 1 | .s32 => 2

def AmoFn.ofCode : Nat → AmoFn
  | 0 => .add | 1 => .min | 2 => .max | 3 => .and | 4 => .or | 5 => .xor | 6 => .xchg | _ => .incw
def AmoFn.code : AmoFn → Nat
  | .add => 0 | .min => 1 | .max => 2 | .and => 3 | .or => 4 | .xor => 5 | .xchg => 6 | .incw => 7

def Special.ofCode : Nat → Special
  | 0 => .tid | 1 => .shuttle | 2 => .blockX | 3 => .blockY | 4 => .blockZ | 5 => .gridX | 6 => .gridY | 7 => .gridZ
  | 8 => .core | 9 => .quad | 10 => .die | 11 => .step | _ => .gen
def Special.code : Special → Nat
  | .tid => 0 | .shuttle => 1 | .blockX => 2 | .blockY => 3 | .blockZ => 4 | .gridX => 5 | .gridY => 6 | .gridZ => 7
  | .core => 8 | .quad => 9 | .die => 10 | .step => 11 | .gen => 12

def MmaFmt.ofCode : Nat → MmaFmt
  | 0 => .e2m1 | 1 => .e4m3 | 2 => .e5m2 | 3 => .bf16 | 4 => .f16 | _ => .s8
def MmaFmt.code : MmaFmt → Nat
  | .e2m1 => 0 | .e4m3 => 1 | .e5m2 => 2 | .bf16 => 3 | .f16 => 4 | .s8 => 5

def IType.ofCode : Nat → IType
  | 0 => .s32 | 1 => .n32 | 2 => .s16x2 | 3 => .n16x2 | 4 => .s8x4 | _ => .n8x4
def IType.code : IType → Nat
  | .s32 => 0 | .n32 => 1 | .s16x2 => 2 | .n16x2 => 3 | .s8x4 => 4 | .n8x4 => 5

def FType.ofCode : Nat → FType
  | 0 => .f32 | 1 => .f16x2 | _ => .bf16x2
def FType.code : FType → Nat
  | .f32 => 0 | .f16x2 => 1 | .bf16x2 => 2

def MType.ofCode : Nat → MType
  | 0 => .b32 | 1 => .b64 | 2 => .n8 | 3 => .s8 | 4 => .n16 | 5 => .s16 | _ => .b128
def MType.code : MType → Nat
  | .b32 => 0 | .b64 => 1 | .n8 => 2 | .s8 => 3 | .n16 => 4 | .s16 => 5 | .b128 => 6

def MFn.ofCode : Nat → MFn
  | 0 => .and | 1 => .or | 2 => .xor | _ => .andn
def MFn.code : MFn → Nat
  | .and => 0 | .or => 1 | .xor => 2 | .andn => 3

def PassMode.ofCode : Nat → PassMode
  | 0 => .from | 1 => .back | 2 => .fwd | 3 => .mirror | _ => .rot
def PassMode.code : PassMode → Nat
  | .from => 0 | .back => 1 | .fwd => 2 | .mirror => 3 | .rot => 4

def VoteFn.ofCode : Nat → VoteFn
  | 0 => .any | 1 => .all | 2 => .ballot | _ => .count
def VoteFn.code : VoteFn → Nat
  | .any => 0 | .all => 1 | .ballot => 2 | .count => 3

/-- fn 35:32 and the type code of RED (R108). -/
def RedFn.ofCode (fn ty : Nat) : RedFn :=
  match fn with
  | 0 => .add (ty == 0) | 1 => .min (ty == 0) | 2 => .max (ty == 0) | 3 => .and (ty == 0) | 4 => .or (ty == 0)
  | 5 => .xor (ty == 0) | 6 => .fadd | 7 => .fmin | _ => .fmax
def RedFn.code : RedFn → Nat
  | .add _ => 0 | .min _ => 1 | .max _ => 2 | .and _ => 3 | .or _ => 4 | .xor _ => 5
  | .fadd => 6 | .fmin => 7 | .fmax => 8
def RedFn.tyCode : RedFn → Nat
  | .add s | .min s | .max s | .and s | .or s | .xor s => if s then 0 else 1
  | .fadd | .fmin | .fmax => 0

def LSpace.ofCode (space peer : Nat) : LSpace :=
  match space with
  | 0 => .g | 1 => .a | 2 => .w | _ => .peer (Fin.ofNat 4 peer)
def LSpace.code : LSpace → Nat
  | .g => 0 | .a => 1 | .w => 2 | .peer _ => 3
def LSpace.peerCode : LSpace → Nat
  | .peer n => n.val
  | .g | .a | .w => 0

def bit (b : Bool) : Nat := if b then 1 else 0

/-- The term, or the lowest slot among the faults found (R44, R46). -/
def judge (faults : List (Nat × Bool)) (i : Instr) : Except Nat Instr :=
  match (faults.filter (·.2)).map (·.1) with
  | [] => .ok i
  | s :: ss => .error (ss.foldl min s)

/-! ## Control words (R29 to R34, R41) -/

/-- The fields of a control word in its five layouts (R29). -/
structure CF where
  op : Nat
  sd : Nat
  sa : Nat
  sb : Nat
  fn : Nat
  sub : Nat
  imm12 : Nat
  imm20 : Nat
  off22 : Nat

def CF.of (w : Nat) : CF :=
  { op := bitsOf w 31 26, sd := bitsOf w 25 20, sa := bitsOf w 19 14, sb := bitsOf w 13 8, fn := bitsOf w 7 0,
    sub := bitsOf w 13 12, imm12 := bitsOf w 11 0, imm20 := bitsOf w 19 0, off22 := bitsOf w 21 0 }

def CF.d (f : CF) : SReg := Fin.ofNat 64 f.sd
def CF.a (f : CF) : SReg := Fin.ofNat 64 f.sa
def CF.b (f : CF) : SReg := Fin.ofNat 64 f.sb
def CF.k (f : CF) : KReg := Fin.ofNat 8 f.sd
def CF.ka (f : CF) : KReg := Fin.ofNat 8 f.sa
def CF.kb (f : CF) : KReg := Fin.ofNat 8 f.sb
def CF.c (f : CF) : TileReg := Fin.ofNat 32 f.sd
def CF.ea (f : CF) : EReg := Fin.ofNat 32 f.sa
def CF.ob (f : CF) : OReg := Fin.ofNat 4 f.sb
def CF.t (f : CF) : CType := CType.ofCode (f.fn / 64)
def CF.i12 (f : CF) : BitVec 12 := BitVec.ofNat 12 f.imm12
def CF.i20 (f : CF) : BitVec 20 := BitVec.ofNat 20 f.imm20
/-- The flags of a copy command (R162). -/
def CF.mods (f : CF) : CopyMods :=
  { acq := bitsOf f.fn 2 2 == 1, rel := bitsOf f.fn 3 3 == 1, scope := Scope.ofCode (bitsOf f.fn 6 4) }
/-- A copy command's fn is illegal (R162). -/
def CF.modsBad (f : CF) : Bool :=
  f.fn ≥ 128 || bitsOf f.fn 6 4 > 5 || !f.mods.wf

/-- Major 0x01 (R113): three registers, or two with sb zero. -/
def decodeScalar (f : CF) : Except Nat Instr :=
  match f.fn % 64 with
  | 0x00 => .ok (.addReg f.d f.a f.b f.t)
  | 0x01 => .ok (.subReg f.d f.a f.b f.t)
  | 0x02 => .ok (.mulReg f.d f.a f.b f.t)
  | 0x03 => .ok (.mulh f.d f.a f.b f.t)
  | 0x04 => .ok (.div f.d f.a f.b f.t)
  | 0x05 => .ok (.rem f.d f.a f.b f.t)
  | 0x06 => .ok (.minReg f.d f.a f.b f.t)
  | 0x07 => .ok (.maxReg f.d f.a f.b f.t)
  | 0x08 => judge [(0, !f.t.bitOk)] (.andReg f.d f.a f.b f.t)
  | 0x09 => judge [(0, !f.t.bitOk)] (.orReg f.d f.a f.b f.t)
  | 0x0A => judge [(0, !f.t.bitOk)] (.xorReg f.d f.a f.b f.t)
  | 0x0B => judge [(0, !f.t.bitOk)] (.andn f.d f.a f.b f.t)
  | 0x0C => judge [(0, !f.t.bitOk)] (.shlReg f.d f.a f.b f.t)
  | 0x0D => judge [(0, !f.t.bitOk)] (.shrReg f.d f.a f.b f.t)
  | 0x0E => judge [(0, !f.t.sraOk)] (.sraReg f.d f.a f.b f.t)
  | 0x0F => judge [(0, !f.t.bitOk)] (.rotReg f.d f.a f.b f.t)
  | 0x10 => judge [(0, !f.t.bitOk), (3, f.sb != 0)] (.popcReg f.d f.a f.t)
  | 0x11 => judge [(0, !f.t.bitOk), (3, f.sb != 0)] (.clzReg f.d f.a f.t)
  | 0x12 => judge [(0, !f.t.bitOk), (3, f.sb != 0)] (.ctz f.d f.a f.t)
  | _ => .error 0

/-- Majors 0x02 and 0x03 (R114). -/
def decodeScalarImm (f : CF) : Except Nat Instr :=
  if f.op == 0x02 then
    match f.sub with
    | 0 => .ok (.addImm f.d f.a f.i12)
    | 1 => .ok (.andImm f.d f.a f.i12)
    | 2 => .ok (.orImm f.d f.a f.i12)
    | _ => .ok (.xorImm f.d f.a f.i12)
  else
    match f.sub with
    | 0 => judge [(0, f.imm12 ≥ 64)] (.shlImm f.d f.a (Fin.ofNat 64 f.imm12))
    | 1 => judge [(0, f.imm12 ≥ 64)] (.shrImm f.d f.a (Fin.ofNat 64 f.imm12))
    | 2 => judge [(0, f.imm12 ≥ 64)] (.sraImm f.d f.a (Fin.ofNat 64 f.imm12))
    | _ => .ok (.mulImm f.d f.a f.i12)

/-- Major 0x0D (R130). -/
def decodeSystem (f : CF) : Except Nat Instr :=
  let none3 : List (Nat × Bool) := [(1, f.sd != 0), (2, f.sa != 0), (3, f.sb != 0)]
  match f.fn with
  | 0 => judge none3 .syncrun
  | 1 => judge none3 .yield
  | 2 => judge none3 .halt
  | 3 => judge none3 .eret
  | 4 => judge [(1, f.sd != 0), (3, f.sb != 0)] (.trap f.a)
  | 5 => judge [(2, f.sa != 0), (3, f.sb > 12)] (.mfs f.d (Special.ofCode f.sb))
  | 6 => judge [(1, f.sd != 0)] (.icinvPkg f.a f.b)
  | 7 => .ok (.launch f.d f.a f.b)
  | _ => .error 0

/-- Major 0x14 (R291, R292). -/
def decodeAtomic (f : CF) : Except Nat Instr :=
  match f.fn % 64 with
  | 0x00 => judge [(3, f.sb != 0)] (.lr f.d f.a f.t)
  | 0x01 => .ok (.sc f.d f.a f.b f.t)
  | n => if n / 8 == 1 then .ok (.amos f.d f.a f.b f.t (AmoFn.ofCode (n % 8))) else .error 0

/-- Major 0x18 (R155, R159). -/
def decodeBarrier (f : CF) : Except Nat Instr :=
  match f.fn with
  | 0 => .ok (.binit f.d f.a f.b)
  | 1 => judge [(1, f.sd != 0)] (.barrive f.a f.b)
  | 2 => judge [(1, f.sd != 0)] (.bexpect f.a f.b)
  | 3 => judge [(1, f.sd != 0)] (.bwait f.a f.b)
  | 4 => .ok (.btest f.d f.a f.b)
  | 5 => judge [(1, !(f.sd == 1 || f.sd == 2))] (.empty (f.sd == 2) f.a f.b)
  | _ => .error 0

/-- Major 0x1B (R162). -/
def decodeCopy (f : CF) : Except Nat Instr :=
  judge [(0, f.modsBad)]
    (match f.fn % 4 with
      | 0 => .cpy f.d f.a f.b f.mods
      | 1 => .cpyt f.d f.a f.b f.mods
      | 2 => .cpyg f.d f.a f.b f.mods
      | _ => .cpym f.d f.a f.b f.mods)

/-- Major 0x28 (R198, R199, R206, R207). -/
def decodeExpansion (f : CF) : Except Nat Instr :=
  match f.fn with
  | 0 => judge [(1, f.sd ≥ 32)] (.xclr f.c f.a f.b)
  | 1 => judge [(1, f.sd ≥ 32), (2, f.sa ≥ 32), (3, f.sb ≥ 4)] (.xshift f.c f.ea f.ob)
  | 2 => judge [(1, f.sd ≥ 32), (2, f.sa ≥ 32), (3, f.sb ≥ 4)] (.xm2l f.c f.ea f.ob)
  | 3 => judge [(1, f.sd ≥ 32), (2, f.sa ≥ 32), (3, f.sb ≥ 4)] (.xl2l f.c f.ea f.ob)
  | 4 => judge [(1, f.sd == 0 || f.sd ≥ 8)] (.xadm f.k f.a f.b)
  | 5 => judge [(1, f.sd ≥ 32), (3, f.sb ≥ 2)] (.xld f.c f.a (f.sb == 1))
  | 6 => judge [(1, f.sd ≥ 32), (3, f.sb ≥ 2)] (.xst f.c f.a (f.sb == 1))
  | 7 =>
    if f.sb == 1 then judge [(1, f.sd != 0), (2, f.sa ≥ 32)] (.xownRel f.ea)
    else judge [(1, f.sd ≥ 8), (2, f.sa ≥ 32), (3, f.sb ≥ 2)] (.xownTake f.k f.ea)
  | 8 => judge [(1, f.sd ≥ 4), (3, f.sb != 0)] (.ord (Fin.ofNat 4 f.sd) f.a)
  | _ => .error 0

/-- Majors 0x2C, 0x30, 0x31 and 0x34 (R219, R238, R248, R365). -/
def decodeShared (f : CF) : Except Nat Instr :=
  match f.op, f.fn with
  | 0x2C, 0 => judge [(1, f.sd ≥ 8), (3, f.sb != 0)] (.sgjoin f.k f.a)
  | 0x2C, 1 => judge [(1, f.sd != 0), (2, f.sa != 0), (3, f.sb != 0)] .sgleave
  | 0x2C, 2 => judge [(1, f.sd != 0), (2, f.sa % 4 != 0 || f.sa == 0), (3, f.sb != 0)] (.npenter f.a)
  | 0x2C, 3 => judge [(1, f.sd != 0), (2, f.sa != 0), (3, f.sb != 0)] .npexit
  | 0x2C, 4 => judge [(1, f.sd != 0), (2, f.sa != 0), (3, f.sb != 0)] .stepdone
  | 0x30, 0 => judge [(1, f.sd != 0)] (.send f.a f.b)
  | 0x30, 1 => judge [(1, f.sd ≥ 8)] (.recvpost f.k f.a f.b)
  | 0x31, 0 => judge [(1, f.sd != 0), (2, f.sa % 4 != 0 || f.sa == 0), (3, f.sb != 0)] (.rinit f.a)
  | 0x31, 1 => judge [(3, f.sb != 0)] (.rgrab f.d f.a)
  | 0x34, 0 => .ok (.cred f.d f.a f.b)
  | 0x34, 1 => .ok (.credExact f.d f.a f.b)
  | 0x34, 2 => .ok (.cmc f.d f.a f.b)
  | 0x34, 3 => .ok (.cag f.d f.a f.b)
  | _, _ => .error 0

/-- Majors 0x1C and 0x20 to 0x22 (R172, R177, R182, R185). -/
def decodeTile (f : CF) : Except Nat Instr :=
  let fmtBad : Bool := f.fn % 8 > 5 || f.fn ≥ 32
  match f.op, f.fn with
  | 0x1C, 0 => judge [(1, f.sd ≥ 32), (3, f.sb != 0)] (.cmovCToA f.c f.a)
  | 0x1C, 1 => judge [(1, f.sd ≥ 32), (3, f.sb != 0)] (.cmovNowait f.c f.a)
  | 0x1C, 2 => judge [(1, f.sd ≥ 32), (3, f.sb != 0)] (.cmovAToC f.c f.a)
  | 0x1C, 3 => judge [(1, f.sd ≥ 32), (2, f.sa != 0), (3, f.sb != 0)] (.czero f.c)
  | 0x20, n => judge [(0, fmtBad), (1, f.sd ≥ 32)]
      (.mma f.c f.a f.b (MmaFmt.ofCode (n % 8)) (bitsOf n 3 3 == 1) (bitsOf n 4 4 == 1))
  | 0x21, n => judge [(0, fmtBad), (1, f.sd ≥ 32), (2, f.sa % 4 != 0 || f.sa == 0), (3, f.sb != 0)]
      (.mgemm f.c f.a (MmaFmt.ofCode (n % 8)) (bitsOf n 3 3 == 1) (bitsOf n 4 4 == 1))
  | 0x22, n => judge [(0, n != 0), (1, f.sd ≥ 32), (2, f.sa != 0), (3, f.sb != 0)] (.mwait f.c)
  | _, _ => .error 0

/-- Majors 0x04 to 0x0C, 0x0F, 0x15 and 0x16 (R115 to R122, R125). -/
def decodeFlow (w : Nat) (f : CF) : Except Nat Instr :=
  let p : KReg := Fin.ofNat 8 (bitsOf w 25 23)
  let n : Bool := bitsOf w 22 22 == 1
  match f.op, f.fn with
  | 0x04, fn => judge [(0, bitsOf fn 5 3 != 0 || fn % 8 > 5), (1, f.sd == 0 || f.sd ≥ 8)]
      (.cmpReg f.k f.a f.b f.t (ICond.ofCode (fn % 8)))
  | 0x05, _ => judge [(1, f.sd == 0 || f.sd ≥ 8)] (.cmpImm f.k f.a (ImmCond.ofCode f.sub) f.i12)
  | 0x06, _ => .ok (.lui f.d f.i20)
  | 0x07, _ => .ok (.apc f.d f.i20)
  | 0x08, _ => judge [(0, p == 0 && n)] (.br p n (BitVec.ofNat 22 f.off22))
  | 0x09, _ => judge [(0, p == 0 && n)] (.call p n (BitVec.ofNat 22 f.off22))
  | 0x0A, _ => judge [(0, f.sub ≥ 2), (2, f.sa != 0)] (.loop f.d (f.sub == 1) f.i12)
  | 0x0B, 0 => judge [(1, f.sd != 0), (3, f.sb != 0)] (.jr f.a)
  | 0x0B, 1 => judge [(1, f.sd != 0), (3, f.sb != 0)] (.callr f.a)
  | 0x0B, 2 => judge [(1, f.sd != 0), (3, f.sb != 0)] (.ret f.a)
  | 0x0C, _ => judge [(0, f.sd != 0)] (.lrun (BitVec.ofNat 20 f.imm20))
  | 0x0F, 0 => judge [(1, f.sd == 0 || f.sd ≥ 8), (2, f.sa ≥ 8), (3, f.sb ≥ 8)] (.kand f.k f.ka f.kb)
  | 0x0F, 1 => judge [(1, f.sd == 0 || f.sd ≥ 8), (2, f.sa ≥ 8), (3, f.sb ≥ 8)] (.kor f.k f.ka f.kb)
  | 0x0F, 2 => judge [(1, f.sd == 0 || f.sd ≥ 8), (2, f.sa ≥ 8), (3, f.sb ≥ 8)] (.kxor f.k f.ka f.kb)
  | 0x0F, 3 => judge [(1, f.sd == 0 || f.sd ≥ 8), (2, f.sa ≥ 8), (3, f.sb != 0)] (.knot f.k f.ka)
  | 0x15, 0 => judge [(2, f.sa != 0), (3, f.sb != 0)] (.movsk f.d)
  | 0x15, 1 => judge [(1, f.sd != 0), (3, f.sb != 0)] (.movks f.a)
  | 0x15, 2 => judge [(2, f.sa ≥ 8), (3, f.sb != 0)] (.movsm f.d f.ka)
  | 0x15, 3 => judge [(1, f.sd == 0 || f.sd ≥ 8), (3, f.sb != 0)] (.movms f.k f.a)
  | 0x16, fn => judge [(0, fn ≥ 16)] (.csel f.d f.a f.b (Fin.ofNat 8 (fn % 8)) (bitsOf fn 3 3 == 1))
  | _, _ => .error 0

/-- Majors 0x0E, 0x10 to 0x13, 0x19 and 0x1A (R34, R127, R160, R161). -/
def decodeMemory (w : Nat) (f : CF) : Except Nat Instr :=
  match f.op with
  | 0x0E => judge [(0, bitsOf w 25 23 > 5 || bitsOf w 22 21 != 0 || bitsOf w 6 0 != 0)]
      (.fence (Scope.ofCode (bitsOf w 25 23)) (BitVec.ofNat 7 (bitsOf w 20 14)) (BitVec.ofNat 7 (bitsOf w 13 7)))
  | 0x10 => .ok (.ldsG f.d f.a (LdsU.ofCode f.sub) f.i12)
  | 0x11 => judge [(0, f.sub == 3)] (.ldsGSigned f.d f.a (LdsS.ofCode f.sub) f.i12)
  | 0x12 => .ok (.stsG f.d f.a (LdsU.ofCode f.sub) f.i12)
  | 0x13 =>
    if f.sub < 2 then .ok (.ldsA f.d f.a (f.sub == 1) f.i12) else .ok (.stsA f.d f.a (f.sub == 3) f.i12)
  | 0x19 => judge [(0, !(f.fn == 2 || f.fn == 3)), (1, f.sd != 0), (2, f.sa != 0), (3, f.sb ≥ 16)]
      (.gbar (f.fn == 3) (Fin.ofNat 16 f.sb))
  | 0x1A => judge [(0, f.sub != 0 || f.imm12 ≥ 1024), (1, f.sd != 0)] (.tdef (Fin.ofNat 1024 f.imm12) f.a)
  | _ => .error 0

/-- The instruction of a control word, or the slot of its illegal-instruction trap (R41, R44 to R46). -/
def decodeCtl (w : Nat) : Except Nat Instr :=
  let f := CF.of w
  match f.op with
  | 0x01 => decodeScalar f
  | 0x02 | 0x03 => decodeScalarImm f
  | 0x0D => decodeSystem f
  | 0x14 => decodeAtomic f
  | 0x18 => decodeBarrier f
  | 0x1B => decodeCopy f
  | 0x1C | 0x20 | 0x21 | 0x22 => decodeTile f
  | 0x28 => decodeExpansion f
  | 0x2C | 0x30 | 0x31 | 0x34 => decodeShared f
  | 0x0E | 0x10 | 0x11 | 0x12 | 0x13 | 0x19 | 0x1A => decodeMemory w f
  | _ => decodeFlow w f

/-! ## Lane words (R35 to R39, R42, R43) -/

/-- The fields of a lane word (R35). -/
structure LF where
  op : Nat
  bnd : Nat
  mask : Nat
  neg : Nat
  ty : Nat
  dst : Nat
  a : Nat
  b : Nat
  c : Nat
  la : Nat
  lb : Nat
  lc : Nat
  fn : Nat
  imm : Nat

def LF.of (w : Nat) : LF :=
  { op := bitsOf w 95 88, bnd := bitsOf w 87 87, mask := bitsOf w 86 84, neg := bitsOf w 83 83, ty := bitsOf w 82 80,
    dst := bitsOf w 79 70, a := bitsOf w 69 60, b := bitsOf w 59 50, c := bitsOf w 49 40, la := bitsOf w 39 39,
    lb := bitsOf w 38 38, lc := bitsOf w 37 37, fn := bitsOf w 36 32, imm := bitsOf w 31 0 }

/-- A source field as an operand (R36). -/
def LF.src (f : LF) (o last : Nat) : LSrc :=
  match o / 256 with
  | 0 => .main (Fin.ofNat 256 o) (last == 1)
  | 1 => .opf (Fin.ofNat 8 o)
  | 2 => .lat
  | _ => if o % 256 == 0x80 then .imm (BitVec.ofNat 32 f.imm) else .uni (Fin.ofNat 64 o)

def LF.sa (f : LF) : LSrc := f.src f.a f.la
def LF.sb (f : LF) : LSrc := f.src f.b f.lb
def LF.sc (f : LF) : LSrc := f.src f.c f.lc
def LF.d (f : LF) : LDst :=
  match f.dst / 256 with
  | 0 => .main (Fin.ofNat 256 f.dst)
  | 1 => .opf (Fin.ofNat 8 f.dst)
  | _ => .lat
def LF.h (f : LF) : Head := { bnd := f.bnd == 1, mask := Fin.ofNat 8 f.mask, neg := f.neg == 1 }
def LF.m (o : Nat) : MReg := Fin.ofNat 8 o
def LF.rnd (f : LF) : Rnd := Rnd.ofCode (f.fn % 8)

/-- A field that is no operand of Table 4, or whose last-read bit stands on another level (R36). -/
def srcBad (immOk : Bool) (o last : Nat) : Bool :=
  match o / 256 with
  | 0 => false
  | 1 => o % 256 ≥ 8 || last == 1
  | 2 => o % 256 != 0 || last == 1
  | _ => !(o % 256 < 64 || (immOk && o % 256 == 0x80)) || last == 1

/-- A field that names no mask (R43). DESIGN CHOICE (log 81): a last-read bit on it is illegal in the field's slot; R36 lets it
stand on main-level sources, and the manual does not say whether a mask field, written with main level, is one. -/
def maskBad (o last : Nat) : Bool := o ≥ 8 || last == 1

/-- A destination that is no register of Table 4 (R36, R89). -/
def dstBad (o : Nat) : Bool :=
  match o / 256 with
  | 0 => false
  | 1 => o % 256 ≥ 8
  | 2 => o % 256 != 0
  | _ => true

/-- A destination of a load, atomic or RLD of the class M type `t` (R36, R154). -/
def loadDstBad (t : MType) (o : Nat) : Bool :=
  if t.regs == 1 then dstBad o else o ≥ 256 || o % t.regs != 0

/-- The field names imm32 (R36). -/
def namesImm (o : Nat) : Bool := o == 0x380

/-- Faults that every guarded op shares: the guard, the type and fn codes (R35, R37, R43). -/
def LF.headFaults (f : LF) (tyOk fnOk : Bool) : List (Nat × Bool) :=
  [(0, f.neg == 1 && f.mask == 0), (0, !tyOk), (0, !fnOk)]

/-- Faults of the sources of an op that may name imm32: `n` sources, the rest zero, imm32 zero when unnamed (R36). -/
def LF.srcFaults (f : LF) (n : Nat) : List (Nat × Bool) :=
  [(2, if n ≥ 1 then srcBad true f.a f.la else f.a != 0 || f.la == 1),
   (3, if n ≥ 2 then srcBad true f.b f.lb else f.b != 0 || f.lb == 1),
   (4, if n ≥ 3 then srcBad true f.c f.lc else f.c != 0 || f.lc == 1),
   (0, f.imm != 0 && !((n ≥ 1 && namesImm f.a) || (n ≥ 2 && namesImm f.b) || (n ≥ 3 && namesImm f.c)))]

/-- An op of `n` sources into a register (R43 Table 8). -/
def LF.alu (f : LF) (n : Nat) (tyOk fnOk : Bool) (i : Instr) : Except Nat Instr :=
  judge (f.headFaults tyOk fnOk ++ [(1, dstBad f.dst)] ++ f.srcFaults n) i

/-- A conversion of `n` sources with format fields in c (R99 to R102). -/
def LF.conv (f : LF) (n : Nat) (fnOk fmtOk : Bool) (i : Instr) : Except Nat Instr :=
  judge (f.headFaults (f.ty == 0) fnOk ++
    [(1, dstBad f.dst), (2, srcBad true f.a f.la),
     (3, if n ≥ 2 then srcBad true f.b f.lb else f.b != 0 || f.lb == 1), (4, !fmtOk || f.lc == 1),
     (0, f.imm != 0 && !(namesImm f.a || (n ≥ 2 && namesImm f.b)))]) i

/-- A compare of two sources into a mask m1 to m7 (R103). -/
def LF.cmp (f : LF) (tyOk fnOk : Bool) (i : Instr) : Except Nat Instr :=
  judge (f.headFaults tyOk fnOk ++ [(1, f.dst == 0 || f.dst ≥ 8)] ++ f.srcFaults 2) i

/-- Rounding codes of fn 34:32 with the rest of fn zero (R33, R43). -/
def LF.rndOk (f : LF) : Bool := f.fn < 5
/-- Rounding in fn 34:32 and saturation in fn 35 (R99). -/
def LF.cvtFnOk (f : LF) : Bool := f.fn < 16 && f.fn % 8 < 5
def LF.sat (f : LF) : Bool := bitsOf f.fn 3 3 == 1
def LF.dfmt (f : LF) : Nat := f.c / 32
def LF.sfmt (f : LF) : Nat := f.c % 32

/-- Rows 0x0 and 0x1 of the lane map (R42, R93 to R95). -/
def decodeLaneInt (f : LF) : Except Nat Instr :=
  let i6 : Bool := f.ty < 6
  let i2 : Bool := f.ty < 2
  let z : Bool := f.ty == 0
  let fit : Bool := f.fn < 2
  let f0 : Bool := f.fn == 0
  let t := IType.ofCode f.ty
  let s := f.fn == 1
  match f.op with
  | 0x01 => f.alu 2 i6 fit (.lAdd f.h t s f.d f.sa f.sb)
  | 0x02 => f.alu 2 i6 fit (.lSub f.h t s f.d f.sa f.sb)
  | 0x03 => f.alu 2 i6 fit (.lMul f.h t s f.d f.sa f.sb)
  | 0x04 => f.alu 2 i6 f0 (.lMulhi f.h t f.d f.sa f.sb)
  | 0x05 => f.alu 3 i6 fit (.lMad f.h t s f.d f.sa f.sb f.sc)
  | 0x06 => f.alu 2 i6 f0 (.lMin f.h t f.d f.sa f.sb)
  | 0x07 => f.alu 2 i6 f0 (.lMax f.h t f.d f.sa f.sb)
  | 0x08 => f.alu 1 i6 fit (.lAbs f.h t s f.d f.sa)
  | 0x09 => f.alu 1 i6 fit (.lNeg f.h t s f.d f.sa)
  | 0x0A => f.alu 2 z f0 (.lAnd f.h f.d f.sa f.sb)
  | 0x0B => f.alu 2 z f0 (.lOr f.h f.d f.sa f.sb)
  | 0x0C => f.alu 2 z f0 (.lXor f.h f.d f.sa f.sb)
  | 0x0D => f.alu 1 z f0 (.lNot f.h f.d f.sa)
  | 0x0E => f.alu 2 z f0 (.lShl f.h f.d f.sa f.sb)
  | 0x0F => f.alu 2 z f0 (.lShr f.h f.d f.sa f.sb)
  | 0x10 => f.alu 2 i2 f0 (.lSra f.h (f.ty == 0) f.d f.sa f.sb)
  | 0x11 => f.alu 2 z f0 (.lRot f.h f.d f.sa f.sb)
  | 0x12 => f.alu 1 z f0 (.lPopc f.h f.d f.sa)
  | 0x13 => f.alu 1 z f0 (.lClz f.h f.d f.sa)
  | 0x14 => f.alu 1 z f0 (.lBrev f.h f.d f.sa)
  | 0x15 => f.alu 3 i2 f0 (.lBfx f.h (f.ty == 0) f.d f.sa f.sb f.sc)
  | 0x16 => f.alu 3 z f0 (.lBfi f.h f.d f.sa f.sb f.sc)
  | 0x17 => f.alu 3 z f0 (.lBytesel f.h f.d f.sa f.sb f.sc)
  | 0x18 => judge (f.headFaults z f0 ++
      [(0, decide (f.imm ≥ 256)), (1, dstBad f.dst), (2, srcBad false f.a f.la), (3, srcBad false f.b f.lb),
       (4, srcBad false f.c f.lc)]) (.lTruth f.h f.d f.sa f.sb f.sc (BitVec.ofNat 8 f.imm))
  | 0x19 => f.alu 3 (f.ty == 4 || f.ty == 5) fit (.lQdot f.h (f.ty == 4) s f.d f.sa f.sb f.sc)
  | 0x1A => f.alu 3 (f.ty == 2 || f.ty == 3) fit (.lHdot f.h (f.ty == 2) s f.d f.sa f.sb f.sc)
  | 0x1B => judge (f.headFaults i2 f0 ++ [(1, f.dst ≥ 256 || f.dst % 2 != 0)] ++ f.srcFaults 2)
      (.lMulfull f.h (f.ty == 0) (Fin.ofNat 256 f.dst) f.sa f.sb)
  | 0x1C => f.alu 3 i6 fit (.lSum3 f.h t s f.d f.sa f.sb f.sc)
  | 0x1D => f.alu 2 z true (.lScadd f.h f.d f.sa f.sb (Fin.ofNat 32 f.fn))
  | 0x1E => f.alu 3 z fit (.lFunnel f.h s f.d f.sa f.sb f.sc)
  | 0x1F => f.alu 3 i6 fit (.lClamp f.h t s f.d f.sa f.sb f.sc)
  | _ => .error 0

/-- Rows 0x2 and 0x3 of the lane map (R42, R96 to R102). -/
def decodeLaneFloat (f : LF) : Except Nat Instr :=
  let f3 : Bool := f.ty < 3
  let z : Bool := f.ty == 0
  let f0 : Bool := f.fn == 0
  let t := FType.ofCode f.ty
  match f.op with
  | 0x20 => f.alu 2 f3 f.rndOk (.lFadd f.h t f.rnd f.d f.sa f.sb)
  | 0x21 => f.alu 2 f3 f.rndOk (.lFsub f.h t f.rnd f.d f.sa f.sb)
  | 0x22 => f.alu 2 f3 f.rndOk (.lFmul f.h t f.rnd f.d f.sa f.sb)
  | 0x23 => f.alu 3 f3 f.rndOk (.lFma f.h t f.rnd f.d f.sa f.sb f.sc)
  | 0x24 => f.alu 2 f3 f0 (.lFmin f.h t f.d f.sa f.sb)
  | 0x25 => f.alu 2 f3 f0 (.lFmax f.h t f.d f.sa f.sb)
  | 0x26 => f.alu 1 f3 f0 (.lFabs f.h t f.d f.sa)
  | 0x27 => f.alu 1 f3 f0 (.lFneg f.h t f.d f.sa)
  | 0x28 => f.alu 2 z f0 (.lFdiv f.h f.d f.sa f.sb)
  | 0x29 => f.alu 1 z f0 (.lFsqrt f.h f.d f.sa)
  | 0x2A => f.alu 1 z f0 (.lFrcp f.h f.d f.sa)
  | 0x2B => f.alu 1 z f0 (.lFrsq f.h f.d f.sa)
  | 0x2C => f.alu 1 z f0 (.lFexp2 f.h f.d f.sa)
  | 0x2D => f.alu 1 z f0 (.lFlog2 f.h f.d f.sa)
  | 0x2E => f.alu 1 z f0 (.lFsin f.h f.d f.sa)
  | 0x2F => f.alu 1 z f0 (.lFcos f.h f.d f.sa)
  | 0x30 => f.alu 1 f3 f.rndOk (.lFrnd f.h t f.rnd f.d f.sa)
  | 0x31 => f.alu 1 z f0 (.lFclass f.h f.d f.sa)
  | 0x32 => f.alu 2 z f.rndOk (.lFldexp f.h f.rnd f.d f.sa f.sb)
  | 0x33 => f.alu 2 f3 f0 (.lFcpsgn f.h t f.d f.sa f.sb)
  | 0x34 => f.alu 3 f3 f0 (.lFclamp f.h t f.d f.sa f.sb f.sc)
  | 0x35 => f.alu 3 (f.ty == 1 || f.ty == 2) f.rndOk (.lFdot2 f.h (f.ty == 2) f.rnd f.d f.sa f.sb f.sc)
  | 0x38 => f.conv 1 f.cvtFnOk (f.dfmt < 12 && f.sfmt < 12)
      (.lCvt f.h (Fmt.ofCode f.dfmt) (Fmt.ofCode f.sfmt) f.rnd f.sat f.d f.sa)
  | 0x39 => f.conv 2 f.cvtFnOk
      (f.dfmt < 12 && f.sfmt < 12 && (Fmt.ofCode f.dfmt).packDst && (Fmt.ofCode f.sfmt).packSrc)
      (.lCvtpk f.h (Fmt.ofCode f.dfmt) (Fmt.ofCode f.sfmt) f.rnd f.sat f.d f.sa f.sb)
  | 0x3A => f.conv 2 f.cvtFnOk (f.dfmt < 12 && (Fmt.ofCode f.dfmt).block && f.sfmt == 0)
      (.lQblk f.h (Fmt.ofCode f.dfmt) f.rnd f.sat f.d f.sa f.sb)
  | 0x3B => f.conv 2 f0 (f.dfmt == 6 && f.sfmt < 12 && (Fmt.ofCode f.sfmt).block)
      (.lDqblk f.h (Fmt.ofCode f.sfmt) f.d f.sa f.sb)
  | _ => .error 0

/-- Rows 0x4 and 0x7 of the lane map (R42, R103 to R110). DESIGN CHOICE (log 82): a NOP word with a latch-level dst reports
slot 0, as R110 has it for any field that is not zero, and not slot 1, which R89 names. -/
def decodeLaneMask (w : Nat) (f : LF) : Except Nat Instr :=
  let z : Bool := f.ty == 0
  let f0 : Bool := f.fn == 0
  match f.op with
  | 0x40 => f.cmp (f.ty < 6) (f.fn < 6) (.lIcmp f.h (IType.ofCode f.ty) (ICond.ofCode f.fn) (LF.m f.dst) f.sa f.sb)
  | 0x41 => f.cmp (f.ty < 3) (f.fn < 8) (.lFcmp f.h (FType.ofCode f.ty) (FCond.ofCode f.fn) (LF.m f.dst) f.sa f.sb)
  | 0x42 => judge (f.headFaults z f0 ++
      [(1, dstBad f.dst), (2, srcBad true f.a f.la), (3, srcBad true f.b f.lb), (4, maskBad f.c f.lc),
       (0, f.imm != 0 && !(namesImm f.a || namesImm f.b))]) (.lSel f.h f.d f.sa f.sb (LF.m f.c))
  | 0x43 => judge (f.headFaults z (f.fn < 4) ++
      [(1, f.dst == 0 || f.dst ≥ 8), (2, maskBad f.a f.la), (3, maskBad f.b f.lb), (4, f.c != 0 || f.lc == 1),
       (0, f.imm != 0)]) (.lMlogic f.h (MFn.ofCode f.fn) (LF.m f.dst) (LF.m f.a) (LF.m f.b))
  | 0x48 => f.alu 2 z (f.fn < 5) (.lPass f.h (PassMode.ofCode f.fn) f.d f.sa f.sb)
  | 0x49 => judge (f.headFaults z (f.fn < 4) ++
      [(1, !(768 ≤ f.dst && f.dst < 832)), (2, maskBad f.a f.la), (3, f.b != 0 || f.lb == 1),
       (4, f.c != 0 || f.lc == 1), (0, f.imm != 0)])
      (.lVote f.h (VoteFn.ofCode f.fn) (Fin.ofNat 64 f.dst) (LF.m f.a))
  | 0x4A => judge (f.headFaults (f.ty < 2) (f.fn < 9 && (f.fn < 6 || f.ty == 0)) ++
      [(1, !(768 ≤ f.dst && f.dst < 832))] ++ f.srcFaults 1)
      (.lRed f.h (RedFn.ofCode f.fn f.ty) (Fin.ofNat 64 f.dst) f.sa)
  | 0x4B => f.alu 1 z f0 (.lMov f.h f.d f.sa)
  | 0x4C => f.alu 1 (f.ty < 2) (f.fn < 2) (.lScan f.h (f.ty == 0) (f.fn == 1) f.d f.sa)
  | 0x4D => f.alu 0 z f0 (.lLtid f.h f.d)
  | 0x70 => judge [(0, bitsOf w 86 0 != 0)] (.lNop (f.bnd == 1))
  | _ => .error 0

/-! ### Memory words (R38, R39) -/

def LF.space (f : LF) : Nat := f.c / 128
def LF.peer (f : LF) : Nat := f.c / 32 % 4
def LF.step (f : LF) : Nat := f.c / 16 % 2
def LF.disp (f : LF) : Nat := f.c % 16
def LF.dsign (f : LF) : Nat := f.fn / 16
def LF.wf (f : LF) : Nat := f.fn / 8 % 2
def LF.clr (f : LF) : Nat := f.fn / 4 % 2
def LF.inv (f : LF) : Nat := f.fn / 2 % 2
def LF.sp (f : LF) : LSpace := LSpace.ofCode f.space f.peer

/-- The memory control as a term (R38). -/
def LF.mc (f : LF) : MemCtl :=
  { space := f.sp, step := if f.step == 1 then some { neg := f.dsign == 1, d := Fin.ofNat 16 f.disp } else none,
    wf := f.wf == 1, clr := f.clr == 1, inv := f.inv == 1 }

/-- Faults of the layout that no term shows: codes without a meaning, parts that must be zero (R38). DEDUCED (log 112): a
reserved bit inside memory control belongs to slot 5, memory control, and not to slot 0 (R44). -/
def LF.mcBad (f : LF) : Bool :=
  f.space > 3 || (f.peer != 0 && f.space != 3) || (f.disp != 0 && f.step == 0) ||
    (f.dsign == 1 && (f.step == 0 || f.disp == 0)) || f.fn % 2 == 1

/-- A base that space G does not allow, or that is no operand (R36, R284). -/
def LF.baseBad (f : LF) (space : Nat) : Bool :=
  if space == 0 then !((768 ≤ f.a && f.a < 832 && f.la == 0) || (f.a < 256 && f.a % 2 == 0)) else srcBad false f.a f.la

/-- A store's data field (R36). -/
def dataBad (t : MType) (o last : Nat) : Bool :=
  if t.regs == 1 then srcBad false o last else o ≥ 256 || o % t.regs != 0

/-- A record of four scalar registers (R43, R287). -/
def LF.recBad (f : LF) : Bool := !(768 ≤ f.a && f.a < 832 && f.a % 4 == 0) || f.la == 1

/-- Row 0x5 of the lane map (R42, R38, R39, R152, R229, R284 to R290); reserved bits inside the memory control of AMO3 are its
slot 5 (DEDUCED, log 112). -/
def decodeLaneMem (f : LF) : Except Nat Instr :=
  let t := MType.ofCode f.ty
  let off := BitVec.ofNat 32 f.imm
  let noC : Nat × Bool := (4, f.c != 0 || f.lc == 1)
  match f.op with
  | 0x50 => judge (f.headFaults (f.ty < 7) true ++
      [(1, loadDstBad t f.dst), (2, f.baseBad f.space), (3, f.b != 0 || f.lb == 1), (4, f.lc == 1),
       (5, f.mcBad || !f.mc.ldOk)]) (.lLd f.h t f.mc f.d f.sa off)
  | 0x51 => judge (f.headFaults (f.ty < 7) true ++
      [(1, f.dst != 0), (2, f.baseBad f.space), (3, dataBad t f.b f.lb), (4, f.lc == 1), (5, f.mcBad || !f.mc.stOk)])
      (.lSt f.h t f.mc f.sa f.sb off)
  | 0x52 => judge (f.headFaults (f.ty < 2) true ++
      [(1, loadDstBad t f.dst), (2, !(768 ≤ f.a && f.a < 832) || f.la == 1), (3, srcBad false f.b f.lb), (4, f.lc == 1),
       (5, f.c != 0 || f.fn != 0)]) (.lLdg f.h (f.ty == 1) f.d (Fin.ofNat 64 f.a) f.sb off)
  | 0x53 => judge (f.headFaults (f.ty == 0) (f.fn == 0) ++
      [(1, dstBad f.dst), (2, f.recBad), (3, srcBad false f.b f.lb), noC])
      (.lBld f.h f.d (Fin.ofNat 64 f.a) f.sb off)
  | 0x54 => judge (f.headFaults (f.ty == 0) (f.fn == 0) ++
      [(1, f.dst != 0), (2, f.recBad), (3, srcBad false f.b f.lb), (4, srcBad false f.c f.lc)])
      (.lBst f.h (Fin.ofNat 64 f.a) f.sb f.sc off)
  | 0x55 => judge (f.headFaults (f.ty < 2) true ++
      [(1, dstBad f.dst), (2, f.baseBad f.space), (3, srcBad false f.b f.lb), (4, f.lc == 1),
       (5, f.space > 3 || f.space == 2 || (f.peer != 0 && f.space != 3) || f.c % 32 != 0 || f.fn ≥ 8)])
      (.lAmo f.h (AmoFn.ofCode (f.fn % 8)) (f.ty == 0) f.sp f.d f.sa f.sb off)
  | 0x56 =>
    let sp := f.imm / 2 ^ 29
    let peer := f.imm / 2 ^ 27 % 4
    judge (f.headFaults (f.ty < 2) (f.fn < 8) ++
      [(1, dstBad f.dst), (2, f.baseBad sp), (3, srcBad false f.b f.lb), (4, srcBad false f.c f.lc),
       (5, sp > 3 || sp == 2 || (peer != 0 && sp != 3) || f.imm % 2 ^ 26 != 0)])
      (.lAmo3 f.h (if f.imm / 2 ^ 26 % 2 == 1 then .addb else .cas) (f.ty == 0) (LSpace.ofCode sp peer)
        (LF.m f.fn) f.d f.sa f.sb f.sc)
  | 0x57 => judge (f.headFaults (f.ty < 7) true ++
      [(1, loadDstBad t f.dst), (2, srcBad false f.a f.la), (3, f.b != 0 || f.lb == 1), (4, f.lc == 1),
       (5, f.c != 256 || f.dsign == 1 || f.inv == 1 || f.fn % 2 == 1 || (f.clr == 1 && f.wf == 0))])
      (.lLdw f.h t (f.wf == 1) (f.clr == 1) f.d f.sa off)
  | 0x58 => judge (f.headFaults (f.ty < 7) (f.fn == 0) ++
      [(1, loadDstBad t f.dst || f.dst / 256 == 1), (2, srcBad false f.a f.la), (3, srcBad false f.b f.lb),
       (4, srcBad false f.c f.lc)])
      (.lRld f.h t f.d f.sa f.sb f.sc off)
  | _ => .error 0

/-- Row 0x6 of the lane map (R42, R208 to R211). -/
def decodeLaneExp (f : LF) : Except Nat Instr :=
  let e : EReg := Fin.ofNat 32 f.imm
  let o : OReg := Fin.ofNat 4 (f.imm / 256)
  let selBad : Nat × Bool := (0, f.imm ≥ 1024 || bitsOf f.imm 7 5 != 0)
  match f.op with
  | 0x60 => judge (f.headFaults (f.ty == 0) (f.fn == 0) ++
      [selBad, (1, f.dst != 0), (2, srcBad false f.a f.la), (3, srcBad false f.b f.lb), (4, srcBad false f.c f.lc)])
      (.lXform f.h e o f.sa f.sb f.sc)
  | 0x61 => judge (f.headFaults (f.ty == 0) (f.fn == 0) ++
      [selBad, (1, f.dst ≥ 256 || f.dst % 4 != 0), (2, srcBad false f.a f.la), (3, srcBad false f.b f.lb),
       (4, f.c != 0 || f.lc == 1)]) (.lXeval f.h (Fin.ofNat 256 f.dst) e o f.sa f.sb)
  | 0x62 => judge (f.headFaults (f.ty == 0) (f.fn == 0) ++
      [(1, f.dst != 0), (2, srcBad false f.a f.la), (3, srcBad false f.b f.lb), (4, f.c != 0 || f.lc == 1)])
      (.lXnear f.h f.sa f.sb (BitVec.ofNat 32 f.imm))
  | _ => .error 0

/-- The instruction of a lane word, or the slot of its fault (R42 to R46). -/
def decodeLane (w : Nat) : Except Nat Instr :=
  let f := LF.of w
  match f.op / 16 with
  | 0 | 1 => decodeLaneInt f
  | 2 | 3 => decodeLaneFloat f
  | 4 | 7 => decodeLaneMask w f
  | 5 => decodeLaneMem f
  | 6 => decodeLaneExp f
  | _ => .error 0

/-- The features a word requires, as FEAT bits (R47, R300). -/
def Instr.needs : Instr → Nat
  | .mma _ _ _ .e2m1 _ _ | .mgemm _ _ .e2m1 _ _ => 2
  | .xclr _ _ _ | .xshift _ _ _ | .xm2l _ _ _ | .xl2l _ _ _ | .xadm _ _ _ | .xld _ _ _ | .xst _ _ _ | .xownTake _ _
  | .xownRel _ | .ord _ _ => 4
  | .lXform _ _ _ _ _ _ | .lXeval _ _ _ _ _ _ | .lXnear _ _ _ _ => 4
  | .npenter _ | .npexit | .stepdone => 8
  | .lRld _ _ _ _ _ _ _ => 8
  | .lLd _ _ mc _ _ _ => if mc.step.isSome then 8 else 0
  | .lSt _ _ mc _ _ _ => if mc.step.isSome then 8 else 0
  | _ => 0

/-- The boundary bit of a lane word (R35, R40). -/
def bndOf (w : Nat) : Bool := bitsOf w 87 87 == 1

/-- The bytes of an instruction whose bits are `w`, in the order the hardware stores them: every word little-endian,
the lowest first (R28). -/
def wordBytes (nbits w : Nat) : List Byte := leBytes (nbits / 8) w

/-- What the decoder reads from the stored bytes of one instruction: four bytes a control word, twelve a lane word. -/
def decodeBytes (bs : List Byte) : Except Nat Instr :=
  if bs.length ≤ 4 then decodeCtl (leNat bs) else decodeLane (leNat bs)

/-- The host's reading of a table word (R28): up to 32 bits a control word, more a lane word. -/
def decodeTableWord (nbits w : Nat) : Option Instr :=
  match decodeBytes (wordBytes (if nbits ≤ 32 then 32 else 96) (w % 2 ^ nbits)) with
  | .ok i => some i
  | .error _ => none

/-! ## The encoder -/

/-- A CR word (R29). -/
def encCR (op sd sa sb fn : Nat) : Nat := op * 2 ^ 26 + sd * 2 ^ 20 + sa * 2 ^ 14 + sb * 2 ^ 8 + fn
/-- A CI word (R29). -/
def encCI (op sd sa sub imm : Nat) : Nat := op * 2 ^ 26 + sd * 2 ^ 20 + sa * 2 ^ 14 + sub * 2 ^ 12 + imm
/-- A CU word (R29). -/
def encCU (op sd imm : Nat) : Nat := op * 2 ^ 26 + sd * 2 ^ 20 + imm
/-- A CB word (R29). -/
def encCB (op pred : Nat) (neg : Bool) (off : Nat) : Nat := op * 2 ^ 26 + pred * 2 ^ 23 + bit neg * 2 ^ 22 + off
/-- Major 0x01 (R113). -/
def encInt (fn : Nat) (d a b : SReg) (t : CType) : Nat := encCR 0x01 d a b (t.code * 64 + fn)
/-- Major 0x1B (R162). -/
def encCopy (kind : Nat) (d a b : SReg) (m : CopyMods) : Nat :=
  encCR 0x1B d a b (m.scope.code * 16 + bit m.rel * 8 + bit m.acq * 4 + kind)
/-- fn of MMA and MGEMM (R177). -/
def encMma (f : MmaFmt) (aten bten : Bool) : Nat := bit bten * 16 + bit aten * 8 + f.code

/-- The word of a control instruction (R41); none for a lane word or a step of another agent. -/
def encodeCtl : Instr → Option Nat
  | .addReg d a b t => some (encInt 0x00 d a b t)
  | .subReg d a b t => some (encInt 0x01 d a b t)
  | .mulReg d a b t => some (encInt 0x02 d a b t)
  | .mulh d a b t => some (encInt 0x03 d a b t)
  | .div d a b t => some (encInt 0x04 d a b t)
  | .rem d a b t => some (encInt 0x05 d a b t)
  | .minReg d a b t => some (encInt 0x06 d a b t)
  | .maxReg d a b t => some (encInt 0x07 d a b t)
  | .andReg d a b t => some (encInt 0x08 d a b t)
  | .orReg d a b t => some (encInt 0x09 d a b t)
  | .xorReg d a b t => some (encInt 0x0A d a b t)
  | .andn d a b t => some (encInt 0x0B d a b t)
  | .shlReg d a b t => some (encInt 0x0C d a b t)
  | .shrReg d a b t => some (encInt 0x0D d a b t)
  | .sraReg d a b t => some (encInt 0x0E d a b t)
  | .rotReg d a b t => some (encInt 0x0F d a b t)
  | .popcReg d a t => some (encInt 0x10 d a 0 t)
  | .clzReg d a t => some (encInt 0x11 d a 0 t)
  | .ctz d a t => some (encInt 0x12 d a 0 t)
  | .addImm d a i => some (encCI 0x02 d a 0 i.toNat)
  | .andImm d a i => some (encCI 0x02 d a 1 i.toNat)
  | .orImm d a i => some (encCI 0x02 d a 2 i.toNat)
  | .xorImm d a i => some (encCI 0x02 d a 3 i.toNat)
  | .shlImm d a n => some (encCI 0x03 d a 0 n)
  | .shrImm d a n => some (encCI 0x03 d a 1 n)
  | .sraImm d a n => some (encCI 0x03 d a 2 n)
  | .mulImm d a i => some (encCI 0x03 d a 3 i.toNat)
  | .cmpReg k a b t c => some (encCR 0x04 k a b (t.code * 64 + c.code))
  | .cmpImm k a c i => some (encCI 0x05 k a c.code i.toNat)
  | .lui d i => some (encCU 0x06 d i.toNat)
  | .apc d i => some (encCU 0x07 d i.toNat)
  | .br p n o => some (encCB 0x08 p n o.toNat)
  | .call p n o => some (encCB 0x09 p n o.toNat)
  | .loop d gt i => some (encCI 0x0A d 0 (bit gt) i.toNat)
  | .jr a => some (encCR 0x0B 0 a 0 0)
  | .callr a => some (encCR 0x0B 0 a 0 1)
  | .ret a => some (encCR 0x0B 0 a 0 2)
  | .lrun l => some (encCU 0x0C 0 l.toNat)
  | .syncrun => some (encCR 0x0D 0 0 0 0)
  | .yield => some (encCR 0x0D 0 0 0 1)
  | .halt => some (encCR 0x0D 0 0 0 2)
  | .eret => some (encCR 0x0D 0 0 0 3)
  | .trap a => some (encCR 0x0D 0 a 0 4)
  | .mfs d v => some (encCR 0x0D d 0 v.code 5)
  | .icinvPkg a b => some (encCR 0x0D 0 a b 6)
  | .launch d a b => some (encCR 0x0D d a b 7)
  | .fence s p q => some (0x0E * 2 ^ 26 + s.code * 2 ^ 23 + p.toNat * 2 ^ 14 + q.toNat * 2 ^ 7)
  | .kand d a b => some (encCR 0x0F d a b 0)
  | .kor d a b => some (encCR 0x0F d a b 1)
  | .kxor d a b => some (encCR 0x0F d a b 2)
  | .knot d a => some (encCR 0x0F d a 0 3)
  | .ldsG d a s i => some (encCI 0x10 d a s.code i.toNat)
  | .ldsGSigned d a s i => some (encCI 0x11 d a s.code i.toNat)
  | .stsG d a s i => some (encCI 0x12 d a s.code i.toNat)
  | .ldsA d a wide i => some (encCI 0x13 d a (bit wide) i.toNat)
  | .stsA d a wide i => some (encCI 0x13 d a (2 + bit wide) i.toNat)
  | .lr d a t => some (encCR 0x14 d a 0 (t.code * 64))
  | .sc d a b t => some (encCR 0x14 d a b (t.code * 64 + 1))
  | .amos d a b t f => some (encCR 0x14 d a b (t.code * 64 + 8 + f.code))
  | .movsk d => some (encCR 0x15 d 0 0 0)
  | .movks a => some (encCR 0x15 0 a 0 1)
  | .movsm d m => some (encCR 0x15 d m 0 2)
  | .movms m a => some (encCR 0x15 m a 0 3)
  | .csel d a b p n => some (encCR 0x16 d a b (bit n * 8 + p))
  | .binit d a b => some (encCR 0x18 d a b 0)
  | .barrive a b => some (encCR 0x18 0 a b 1)
  | .bexpect a b => some (encCR 0x18 0 a b 2)
  | .bwait a b => some (encCR 0x18 0 a b 3)
  | .btest d a b => some (encCR 0x18 d a b 4)
  | .empty w a b => some (encCR 0x18 (1 + bit w) a b 5)
  | .gbar die id => some (encCR 0x19 0 0 id (2 + bit die))
  | .tdef n a => some (encCI 0x1A 0 a 0 n)
  | .cpy d a b m => some (encCopy 0 d a b m)
  | .cpyt d a b m => some (encCopy 1 d a b m)
  | .cpyg d a b m => some (encCopy 2 d a b m)
  | .cpym d a b m => some (encCopy 3 d a b m)
  | .cmovCToA c a => some (encCR 0x1C c a 0 0)
  | .cmovNowait c a => some (encCR 0x1C c a 0 1)
  | .cmovAToC c a => some (encCR 0x1C c a 0 2)
  | .czero c => some (encCR 0x1C c 0 0 3)
  | .mma c a b f x y => some (encCR 0x20 c a b (encMma f x y))
  | .mgemm c a f x y => some (encCR 0x21 c a 0 (encMma f x y))
  | .mwait c => some (encCR 0x22 c 0 0 0)
  | .xclr e a b => some (encCR 0x28 e a b 0)
  | .xshift d s o => some (encCR 0x28 d s o 1)
  | .xm2l d s o => some (encCR 0x28 d s o 2)
  | .xl2l d s o => some (encCR 0x28 d s o 3)
  | .xadm k a b => some (encCR 0x28 k a b 4)
  | .xld e a l => some (encCR 0x28 e a (bit l) 5)
  | .xst e a l => some (encCR 0x28 e a (bit l) 6)
  | .xownTake k e => some (encCR 0x28 k e 0 7)
  | .xownRel e => some (encCR 0x28 0 e 1 7)
  | .ord o a => some (encCR 0x28 o a 0 8)
  | .sgjoin k a => some (encCR 0x2C k a 0 0)
  | .sgleave => some (encCR 0x2C 0 0 0 1)
  | .npenter a => some (encCR 0x2C 0 a 0 2)
  | .npexit => some (encCR 0x2C 0 0 0 3)
  | .stepdone => some (encCR 0x2C 0 0 0 4)
  | .send a b => some (encCR 0x30 0 a b 0)
  | .recvpost k a b => some (encCR 0x30 k a b 1)
  | .rinit a => some (encCR 0x31 0 a 0 0)
  | .rgrab d a => some (encCR 0x31 d a 0 1)
  | .cred d a b => some (encCR 0x34 d a b 0)
  | .credExact d a b => some (encCR 0x34 d a b 1)
  | .cmc d a b => some (encCR 0x34 d a b 2)
  | .cag d a b => some (encCR 0x34 d a b 3)
  | _ => none

/-- A source's field (R36). -/
def LSrc.field : LSrc → Nat
  | .main n _ => n.val
  | .opf n => 256 + n.val
  | .lat => 512
  | .uni n => 768 + n.val
  | .imm _ => 0x380

/-- A source's last-read bit (R36). -/
def LSrc.lastBit : LSrc → Nat
  | .main _ l => bit l
  | .opf _ | .lat | .uni _ | .imm _ => 0

/-- A destination's field (R36). -/
def LDst.field : LDst → Nat
  | .main n => n.val
  | .opf n => 256 + n.val
  | .lat => 512

/-- A lane word from its fields (R35). -/
def encLane (op : Nat) (h : Head) (ty dst a b c la lb lc fn imm : Nat) : Nat :=
  op * 2 ^ 88 + bit h.bnd * 2 ^ 87 + h.mask.val * 2 ^ 84 + bit h.neg * 2 ^ 83 + ty * 2 ^ 80 + dst * 2 ^ 70 + a * 2 ^ 60 +
    b * 2 ^ 50 + c * 2 ^ 40 + la * 2 ^ 39 + lb * 2 ^ 38 + lc * 2 ^ 37 + fn * 2 ^ 32 + imm

/-- The shared immediate of the sources (R19). -/
def immOfAll (os : List LSrc) : Nat := ((os.filterMap LSrc.immOf).headD 0).toNat

def enc1 (op : Nat) (h : Head) (ty fn : Nat) (d : LDst) (a : LSrc) : Nat :=
  encLane op h ty d.field a.field 0 0 a.lastBit 0 0 fn (immOfAll [a])
def enc2 (op : Nat) (h : Head) (ty fn dst : Nat) (a b : LSrc) : Nat :=
  encLane op h ty dst a.field b.field 0 a.lastBit b.lastBit 0 fn (immOfAll [a, b])
def enc3 (op : Nat) (h : Head) (ty fn : Nat) (d : LDst) (a b c : LSrc) : Nat :=
  encLane op h ty d.field a.field b.field c.field a.lastBit b.lastBit c.lastBit fn (immOfAll [a, b, c])
/-- A conversion: the formats stand in c (R99). -/
def encConv (op : Nat) (h : Head) (fn : Nat) (d : LDst) (a : LSrc) (b : Option LSrc) (df sf : Nat) : Nat :=
  encLane op h 0 d.field a.field (match b with | some o => o.field | none => 0) (df * 32 + sf) a.lastBit
    (match b with | some o => o.lastBit | none => 0) 0 fn
    (immOfAll (a :: (match b with | some o => [o] | none => [])))
/-- The memory control's part in c (R38). -/
def MemCtl.cField (m : MemCtl) : Nat :=
  m.space.code * 128 + m.space.peerCode * 32 + (match m.step with | some q => 16 + q.d.val | none => 0)
/-- The memory control's part in fn (R38). -/
def MemCtl.fnField (m : MemCtl) : Nat :=
  (match m.step with | some q => bit q.neg * 16 | none => 0) + bit m.wf * 8 + bit m.clr * 4 + bit m.inv * 2
def cvtFn (r : Rnd) (sat : Bool) : Nat := bit sat * 8 + r.code

/-- The word of a lane instruction (R42, R43); none for a control word or a step of another agent. -/
def encodeLane : Instr → Option Nat
  | .lAdd h t s d a b => some (enc2 0x01 h t.code (bit s) d.field a b)
  | .lSub h t s d a b => some (enc2 0x02 h t.code (bit s) d.field a b)
  | .lMul h t s d a b => some (enc2 0x03 h t.code (bit s) d.field a b)
  | .lMulhi h t d a b => some (enc2 0x04 h t.code 0 d.field a b)
  | .lMad h t s d a b c => some (enc3 0x05 h t.code (bit s) d a b c)
  | .lMin h t d a b => some (enc2 0x06 h t.code 0 d.field a b)
  | .lMax h t d a b => some (enc2 0x07 h t.code 0 d.field a b)
  | .lAbs h t s d a => some (enc1 0x08 h t.code (bit s) d a)
  | .lNeg h t s d a => some (enc1 0x09 h t.code (bit s) d a)
  | .lSum3 h t s d a b c => some (enc3 0x1C h t.code (bit s) d a b c)
  | .lClamp h t s d a b c => some (enc3 0x1F h t.code (bit s) d a b c)
  | .lQdot h sg s d a b c => some (enc3 0x19 h (if sg then 4 else 5) (bit s) d a b c)
  | .lHdot h sg s d a b c => some (enc3 0x1A h (if sg then 2 else 3) (bit s) d a b c)
  | .lMulfull h sg d a b => some (enc2 0x1B h (if sg then 0 else 1) 0 d.val a b)
  | .lAnd h d a b => some (enc2 0x0A h 0 0 d.field a b)
  | .lOr h d a b => some (enc2 0x0B h 0 0 d.field a b)
  | .lXor h d a b => some (enc2 0x0C h 0 0 d.field a b)
  | .lNot h d a => some (enc1 0x0D h 0 0 d a)
  | .lShl h d a b => some (enc2 0x0E h 0 0 d.field a b)
  | .lShr h d a b => some (enc2 0x0F h 0 0 d.field a b)
  | .lSra h sg d a b => some (enc2 0x10 h (if sg then 0 else 1) 0 d.field a b)
  | .lRot h d a b => some (enc2 0x11 h 0 0 d.field a b)
  | .lPopc h d a => some (enc1 0x12 h 0 0 d a)
  | .lClz h d a => some (enc1 0x13 h 0 0 d a)
  | .lBrev h d a => some (enc1 0x14 h 0 0 d a)
  | .lBfx h sg d a b c => some (enc3 0x15 h (if sg then 0 else 1) 0 d a b c)
  | .lBfi h d a b c => some (enc3 0x16 h 0 0 d a b c)
  | .lBytesel h d a b c => some (enc3 0x17 h 0 0 d a b c)
  | .lTruth h d a b c tb =>
    some (encLane 0x18 h 0 d.field a.field b.field c.field a.lastBit b.lastBit c.lastBit 0 tb.toNat)
  | .lScadd h d a b n => some (enc2 0x1D h 0 n.val d.field a b)
  | .lFunnel h lo d a b c => some (enc3 0x1E h 0 (bit lo) d a b c)
  | .lFadd h t r d a b => some (enc2 0x20 h t.code r.code d.field a b)
  | .lFsub h t r d a b => some (enc2 0x21 h t.code r.code d.field a b)
  | .lFmul h t r d a b => some (enc2 0x22 h t.code r.code d.field a b)
  | .lFma h t r d a b c => some (enc3 0x23 h t.code r.code d a b c)
  | .lFdot2 h bf r d a b c => some (enc3 0x35 h (if bf then 2 else 1) r.code d a b c)
  | .lFmin h t d a b => some (enc2 0x24 h t.code 0 d.field a b)
  | .lFmax h t d a b => some (enc2 0x25 h t.code 0 d.field a b)
  | .lFclamp h t d a b c => some (enc3 0x34 h t.code 0 d a b c)
  | .lFabs h t d a => some (enc1 0x26 h t.code 0 d a)
  | .lFneg h t d a => some (enc1 0x27 h t.code 0 d a)
  | .lFcpsgn h t d a b => some (enc2 0x33 h t.code 0 d.field a b)
  | .lFrnd h t r d a => some (enc1 0x30 h t.code r.code d a)
  | .lFdiv h d a b => some (enc2 0x28 h 0 0 d.field a b)
  | .lFsqrt h d a => some (enc1 0x29 h 0 0 d a)
  | .lFrcp h d a => some (enc1 0x2A h 0 0 d a)
  | .lFrsq h d a => some (enc1 0x2B h 0 0 d a)
  | .lFexp2 h d a => some (enc1 0x2C h 0 0 d a)
  | .lFlog2 h d a => some (enc1 0x2D h 0 0 d a)
  | .lFsin h d a => some (enc1 0x2E h 0 0 d a)
  | .lFcos h d a => some (enc1 0x2F h 0 0 d a)
  | .lFldexp h r d a b => some (enc2 0x32 h 0 r.code d.field a b)
  | .lFclass h d a => some (enc1 0x31 h 0 0 d a)
  | .lCvt h df sf r s d a => some (encConv 0x38 h (cvtFn r s) d a none df.code sf.code)
  | .lCvtpk h df sf r s d a b => some (encConv 0x39 h (cvtFn r s) d a (some b) df.code sf.code)
  | .lQblk h df r s d a b => some (encConv 0x3A h (cvtFn r s) d a (some b) df.code 0)
  | .lDqblk h sf d a b => some (encConv 0x3B h 0 d a (some b) 6 sf.code)
  | .lIcmp h t c d a b => some (enc2 0x40 h t.code c.code d.val a b)
  | .lFcmp h t c d a b => some (enc2 0x41 h t.code c.code d.val a b)
  | .lSel h d a b m =>
    some (encLane 0x42 h 0 d.field a.field b.field m.val a.lastBit b.lastBit 0 0 (immOfAll [a, b]))
  | .lMlogic h f d a b => some (encLane 0x43 h 0 d.val a.val b.val 0 0 0 0 f.code 0)
  | .lPass h m d a b => some (enc2 0x48 h 0 m.code d.field a b)
  | .lVote h f d a => some (encLane 0x49 h 0 (768 + d.val) a.val 0 0 0 0 0 f.code 0)
  | .lRed h f d a =>
    some (encLane 0x4A h f.tyCode (768 + d.val) a.field 0 0 a.lastBit 0 0 f.code (immOfAll [a]))
  | .lScan h sg x d a => some (enc1 0x4C h (if sg then 0 else 1) (bit x) d a)
  | .lMov h d a => some (enc1 0x4B h 0 0 d a)
  | .lLtid h d => some (encLane 0x4D h 0 d.field 0 0 0 0 0 0 0 0)
  | .lNop b => some (encLane 0x70 { bnd := b, mask := 0, neg := false } 0 0 0 0 0 0 0 0 0 0)
  | .lLd h t mc d a o => some (encLane 0x50 h t.code d.field a.field 0 mc.cField a.lastBit 0 0 mc.fnField o.toNat)
  | .lSt h t mc a b o =>
    some (encLane 0x51 h t.code 0 a.field b.field mc.cField a.lastBit b.lastBit 0 mc.fnField o.toNat)
  | .lLdw h t w c d a o =>
    some (encLane 0x57 h t.code d.field a.field 0 256 a.lastBit 0 0 (bit w * 8 + bit c * 4) o.toNat)
  | .lLdg h wide d a b o => some (encLane 0x52 h (bit wide) d.field (768 + a.val) b.field 0 0 b.lastBit 0 0 o.toNat)
  | .lBld h d r b o => some (encLane 0x53 h 0 d.field (768 + r.val) b.field 0 0 b.lastBit 0 0 o.toNat)
  | .lBst h r b c o => some (encLane 0x54 h 0 0 (768 + r.val) b.field c.field 0 b.lastBit c.lastBit 0 o.toNat)
  | .lAmo h f sg sp d a b o =>
    some (encLane 0x55 h (if sg then 0 else 1) d.field a.field b.field (sp.code * 128 + sp.peerCode * 32) a.lastBit
      b.lastBit 0 f.code o.toNat)
  | .lAmo3 h f sg sp res d a b c =>
    some (encLane 0x56 h (if sg then 0 else 1) d.field a.field b.field c.field a.lastBit b.lastBit c.lastBit res.val
      (sp.code * 2 ^ 29 + sp.peerCode * 2 ^ 27 + (match f with | .cas => 0 | .addb => 2 ^ 26)))
  | .lRld h t d a b c o =>
    some (encLane 0x58 h t.code d.field a.field b.field c.field a.lastBit b.lastBit c.lastBit 0 o.toNat)
  | .lXform h e o a b c =>
    some (encLane 0x60 h 0 0 a.field b.field c.field a.lastBit b.lastBit c.lastBit 0 (o.val * 256 + e.val))
  | .lXeval h d e o a b =>
    some (encLane 0x61 h 0 d.val a.field b.field 0 a.lastBit b.lastBit 0 0 (o.val * 256 + e.val))
  | .lXnear h a b o => some (encLane 0x62 h 0 0 a.field b.field 0 a.lastBit b.lastBit 0 0 o.toNat)
  | _ => none

/-- The words of a term that has an encoding, as the number its stored bytes are: a control word's 32 bits or a lane
word's 96 (R28). -/
def encode (i : Instr) : Option (List Byte) :=
  match encodeCtl i with
  | some w => some (wordBytes 32 w)
  | none => (encodeLane i).map (wordBytes 96)

end Sys2Proof
end

