-- ==== Sys2Proof/Machine/Memory.lean ====
section
/-! DEFINITION. Global memory: translation (R280 to R283), the views of a core and of a die (R256, R258), posted writes
and their way to the home slice (R256, R294, R348), and reads of poisoned lines (R295). -/

namespace Sys2Proof.Machine

/-! ## Translation -/

/-- The physical addresses that exist (R280). -/
def physical (pa : Nat) : Bool := pa < 0xC000000000 || (0x10000000000 ≤ pa && pa < 0x90000000000)
/-- The far tier (R280). -/
def farTier (pa : Nat) : Bool := 0x10000000000 ≤ pa

/-- What a walk finds: a page, an entry that is absent but serviceable, or no translation (R281, R282). -/
inductive Found
  | page (pa : Nat) (writable comp : Bool)
  | serv (entry back addr : Nat) (big : Bool)
  | none
  deriving DecidableEq, Repr

/-- The 8 bytes at a physical address as a number. -/
def Memory.dword (m : Memory) (pa : Nat) : Nat := leNat (m.readN pa 8)

/-- One entry judged (R281 Table 2): the next table of a non-leaf, or the leaf. `lo` is the lowest VA bit of the level,
`leafOk` and `tableOk` say what the level allows, `align` is the alignment of the next table. -/
def judgeEntry (e : Nat) (at_ lo : Nat) (leafOk tableOk : Bool) (align va : Nat) : Found ⊕ Nat :=
  let bitAt (n : Nat) : Bool := e / 2 ^ n % 2 == 1
  let addr := bitsOf e 47 8 * 256
  if bitsOf e 63 48 != 0 || bitAt 3 then .inl .none
  else if bitAt 5 && !(lo == 21 && bitAt 1) then .inl .none
  else if bitAt 4 then
    if bitAt 0 || bitsOf e 7 6 == 3 || !(bitAt 1 && leafOk) || addr % 2 ^ lo != 0 then .inl .none
    else .inl (.serv at_ (bitsOf e 7 6) addr (lo == 21))
  else if !bitAt 0 then .inl .none
  else if bitAt 1 then
    if !leafOk || addr % 2 ^ lo != 0 then .inl .none
    else if physical addr then .inl (.page (addr + va % 2 ^ lo) (bitAt 2) (bitAt 5)) else .inl .none
  else if !tableOk || addr % align != 0 || !physical addr then .inl .none
  else .inr addr

/-- The levels of the walk: the VA bits indexed, leaf and table allowed, the next table's alignment (R281 Table 1). -/
def levels : List (Nat × Nat × Bool × Bool × Nat) :=
  [(56, 48, false, true, 4096), (47, 39, false, true, 4096), (38, 30, false, true, 4096), (29, 21, true, true, 256),
   (20, 16, true, false, 1)]

/-- The walk from a table down the levels that are left. -/
def walk (m : Memory) (va : Nat) : List (Nat × Nat × Bool × Bool × Nat) → Nat → Found
  | [], _ => .none
  | (hi, lo, leafOk, tableOk, align) :: ls, table =>
    let at_ := table + 8 * bitsOf va hi lo
    match judgeEntry (m.dword at_) at_ lo leafOk tableOk align va with
    | .inl f => f
    | .inr t => walk m va ls t

/-- Reserved bits of a context-table entry, by highest and lowest (R317). -/
def ctxRz : List (Nat × Nat) := [(319, 304), (271, 256), (255, 224), (191, 185), (127, 121), (63, 48), (11, 1)]

/-- A context-table entry from its bytes, and the bytes of one. An entry with a reserved bit set is malformed and names no
context (R11, R317; log 75). -/
def ctxEntryOf (n : Nat) : CtxEntry :=
  { valid := n % 2 == 1 && ctxRz.all fun (hi, lo) => bitsOf n hi lo == 0, root := bitsOf n 47 12 * 4096, handler := bitsOf n 120 64, stackBase := bitsOf n 184 128,
    stackSize := bitsOf n 223 192, ttab := bitsOf n 303 272 * 65536 }
def ctxImage (e : CtxEntry) : Nat :=
  (if e.valid then 1 else 0) + 4096 * (e.root / 4096 % 2 ^ 36) + 2 ^ 64 * (e.handler % 2 ^ 57) +
    2 ^ 128 * (e.stackBase % 2 ^ 57) + 2 ^ 192 * (e.stackSize % 2 ^ 32) + 2 ^ 272 * (e.ttab / 65536 % 2 ^ 32)

/-- The physical address of an entry of a partition's context table (log 75). -/
def Part.entryAt (p : Part) (idx : Nat) : Nat := p.table + 64 * idx

/-- The entry of a context's table as the hub reads it (R317). -/
def State.ctx? (s : State) (ctx : Nat) : Option CtxEntry :=
  match s.part? (ctx / 256) with
  | some p =>
    let e := ctxEntryOf (leNat (s.mem.readN (p.entryAt (ctx % 256)) 40))
    if e.valid then some e else none
  | none => none

/-- The walk of a context's tables for an address. DESIGN CHOICE (log 113): the hub takes what it reads of a table, of a context
entry or of an event object on a poisoned or lost line as good; the manual gives it no trap (R295). -/
def State.walkOf (s : State) (ctx va : Nat) : Found :=
  match s.ctx? ctx with
  | none => .none
  | some e => walk s.mem va levels e.root

/-- What cached translations give an address. -/
def tlbFind (tlb : List TlbEntry) (ctx va : Nat) : Option Found :=
  (tlb.find? fun e => e.ctx == ctx && e.page == va / 65536).map fun e => .page (e.pa + va % 65536) e.writable e.comp

/-- What an address translates to for a die: its cached translation, or a walk (R282). -/
def State.translate (s : State) (site ctx va : Nat) : Found :=
  (tlbFind (s.die site).tlb ctx va).getD (s.walkOf ctx va)

/-- What an address translates to for an engine's command: its pinned translations come first (R163). -/
def State.translateFor (s : State) (pins : List TlbEntry) (site ctx va : Nat) : Found :=
  (tlbFind pins ctx va).getD (s.translate site ctx va)

/-- The pinned translation of a page that is found (R163). -/
def pinOf (ctx page : Nat) : Found → List TlbEntry
  | .page pa w c => [{ ctx := ctx, page := page, pa := pa / 65536 * 65536, writable := w, comp := c }]
  | .serv .. | .none => []

/-- The outcome of the checks of R284: threads with their physical addresses, a trap, or serviceable pages to wait for. -/
inductive Checked
  | go (pas : List (Nat × Nat))
  | trap (cause tmask addr : Nat)
  | wait (pages : List Nat)
  deriving DecidableEq, Repr

/-- The mask of a list of threads. -/
def maskOf : List Nat → Nat
  | [] => 0
  | t :: ts => (2 ^ t) ||| maskOf ts

/-- A trap for those who fail a check, the lowest first (R338). -/
def failing (cause : Nat) : List (Nat × Nat) → Option Checked
  | [] => none
  | (t, a) :: r => some (.trap cause (maskOf (t :: r.map (·.1))) a)

/-- Every check over every selected thread before the next check (R284, R338): range, alignment, translation, write
protection. `find` translates, `fatal` lists pages declared fatal (R282); `slot` is 5, 6 or 7 (R280, R298). -/
def checkWith (find : Nat → Found) (fatal : List Nat) (write : Bool) (slot size : Nat) (ts : List (Nat × Nat)) : Checked :=
  let found := ts.map fun (t, a) => (t, a, find a)
  let pick (p : Found → Bool) : List (Nat × Nat) := (found.filter fun (_, _, f) => p f).map fun (t, a, _) => (t, a)
  let missing := (found.filter fun (_, a, f) =>
    match f with
    | .none => true
    | .serv .. => fatal.contains (a / 65536)
    | .page .. => false).map fun (t, a, _) => (t, a)
  let waiting := pick fun f => match f with | .serv .. => true | _ => false
  let guarded := pick fun f => match f with | .page _ w _ => write && !w | _ => false
  match failing (0x058 + slot) (ts.filter fun (_, a) => a ≥ 2 ^ 57) with
  | some c => c
  | none =>
    match failing 0x04D (ts.filter fun (_, a) => a % size != 0) with
    | some c => c
    | none =>
      match failing (0x040 + slot) missing with
      | some c => c
      | none =>
        if !waiting.isEmpty then .wait (waiting.map fun (_, a) => a / 65536)
        else
          match failing (0x050 + slot) guarded with
          | some c => c
          | none => .go (found.filterMap fun (t, _, f) => match f with | .page pa _ _ => some (t, pa) | _ => none)

/-- The checks of an access of a die's core, in the order of R284. XLD and XST make the alignment check before these (R207):
DESIGN CHOICE (log 90), since no rule places bits 63:57 of their address before or after it. -/
def State.check (s : State) (site ctx : Nat) (fatal : List Nat) (write : Bool) (slot size : Nat)
    (ts : List (Nat × Nat)) : Checked := checkWith (s.translate site ctx) fatal write slot size ts

/-- Fault requests enter the hub's queue: one per page, at most 8 of a die (R282). -/
def State.request (s : State) (site ctx : Nat) : List Nat → State
  | [] => s
  | p :: ps =>
    let known := s.faults.any fun f => f.ctx == ctx && f.page == p
    let mine := (s.faults.filter fun f => f.site == site).length
    State.request (if known || mine ≥ 8 then s
      else { s with faults := s.faults ++ [{ site := site, ctx := ctx, page := p }] }) site ctx ps

/-! ## Views -/

/-- The last byte that a list of cells gives an address. -/
def lastCell : List Host.Cell → Nat → Option Byte
  | [], _ => none
  | (a, b) :: t, k =>
    match lastCell t k with
    | some c => some c
    | none => if a = k then some b else none

/-- The newest byte that the selected posted writes give an address. -/
def overlay (sel : Posted → Bool) : List Posted → Nat → Option Byte
  | [], _ => none
  | p :: t, pa =>
    match overlay sel t pa with
    | some b => some b
    | none => if sel p then lastCell p.cells pa else none

/-- The key of a line in a die's table of core data caches. -/
def coreLine (core line : Nat) : Nat := core * 2 ^ 48 + line

/-- The byte that a cached copy gives, unless its invalidation was sent more than 4096 cycles ago (R258, R348). -/
def cachedByte (t : Tab CacheLine) (key now pa : Nat) : Option Byte :=
  match Tab.get? t key with
  | none => none
  | some c =>
    let live := match c.inval with | none => true | some at_ => now ≤ at_ + 4096
    if live then c.bytes[pa % 64]? else none

/-- The byte that a die's cores share: its posted writes, its cache's copy, or the home slice (R256). -/
def State.dieByte (s : State) (site pa : Nat) : Byte :=
  match overlay (fun p => p.site == site && p.die) s.posted pa with
  | some b => b
  | none =>
    match cachedByte (s.die site).cache (pa / 64) s.now pa with
    | some b => b
    | none => s.mem.read pa

/-- The byte that a core reads: its own write buffer, its data cache's copy, or what its die shares (R256, R258). -/
def State.viewByte (s : State) (site core pa : Nat) : Byte :=
  match overlay (fun p => p.site == site && p.core == core && !p.die) s.posted pa with
  | some b => b
  | none =>
    match cachedByte (s.die site).coreCache (coreLine core (pa / 64)) s.now pa with
    | some b => b
    | none => s.dieByte site pa

/-- Of a shuttle's own writes to a line that stand in its core's buffer, the newest ones that an engine's read without an
acquire does not see: which, is not given; none that `bound` ties to the read, and none that entered the buffer more than 4096
cycles ago (R167, R183, R258). -/
def State.missed (s : State) (h : Nat) (bound : Posted → Bool) (pa : Nat) : List Posted :=
  let own := s.posted.filter fun p =>
    p.h == h && !p.die && p.engine.isNone && p.line == pa / 64 && !bound p && s.now ≤ p.since + 4096
  own.drop (Config.freeChoice s.tick (2 ^ 50 + pa / 16) % (own.length + 1))

/-- A write in a core's buffer that an engine's read sees. -/
def State.engineSees (s : State) (site core h : Nat) (bound : Posted → Bool) (pa : Nat) (p : Posted) : Bool :=
  p.site == site && p.core == core && !p.die && !(s.missed h bound pa).contains p

/-- The byte that an engine's read for a shuttle finds (R167, R183): a write in its core's buffer, or what the core reads
otherwise. -/
def State.engineByte (s : State) (site core h : Nat) (bound : Posted → Bool) (pa : Nat) : Byte :=
  match overlay (s.engineSees site core h bound pa) s.posted pa with
  | some b => b
  | none =>
    match cachedByte (s.die site).coreCache (coreLine core (pa / 64)) s.now pa with
    | some b => b
    | none => s.dieByte site pa

/-- The bytes a core reads from an address on. -/
def State.view (s : State) (site core : Nat) : Nat → Nat → List Byte
  | _, 0 => []
  | pa, n + 1 => s.viewByte site core pa :: State.view s site core (pa + 1) n

/-- A list without its repeats. -/
def distinct {α : Type} [BEq α] (l : List α) : List α := l.foldl (fun acc x => if acc.contains x then acc else acc ++ [x]) []

/-- A posted write has a byte. -/
def Posted.writes (p : Posted) (pa : Nat) : Bool := p.cells.any (·.1 == pa)
/-- A core sees a posted write: it stands in the core's write buffer or has reached its die (R256). -/
def Posted.seenBy (p : Posted) (site core : Nat) : Bool := p.site == site && (p.die || p.core == core)

/-- What a context's invariant loads have read. -/
def State.invUse (s : State) (ctx : Nat) : InvUse := Tab.getD s.inv ctx { loaded := [], broken := [] }

/-- A byte that a core's invariant load reads was written while the context loads it so (R266): since it was first loaded, or
by a write under way that the core does not see yet (log 114). -/
def State.invBroken (s : State) (ctx site core pa : Nat) : Bool :=
  let u := s.invUse ctx
  u.broken.contains pa || s.posted.any fun p => p.writes pa && (u.loaded.contains pa || !p.seenBy site core)

/-- When a context began (R145, R266). -/
def State.begun (s : State) (ctx : Nat) : Nat :=
  match s.part? (ctx / 256) with
  | some p => Tab.getD p.live (ctx % 256) 0
  | none => 0

/-- What the `n` bytes at an address have held since a context began, oldest first (R266). -/
def State.heldSince (s : State) (ctx pa n : Nat) : List (List Byte) :=
  ((Tab.getD s.past (pa / 64) []).filter fun e => s.begun ctx ≤ e.1).map (fun e => (e.2.drop (pa % 64)).take n) ++
    [s.mem.readN pa n]

/-- The bytes an invariant load returns (R285, R266): what the core reads; once the rule of R266 is broken for a byte of it,
that or any value that the location has held since the context began. -/
def State.invView (s : State) (ctx site core pa n : Nat) : List Byte :=
  if (range pa n).any (s.invBroken ctx site core) then
    let vals := s.view site core pa n :: s.heldSince ctx pa n
    vals.getD (Config.freeChoice s.tick (2 ^ 48 + pa) % vals.length) []
  else s.view site core pa n

/-- An invariant load of a context has read the `n` bytes at each of some addresses (R266). -/
def State.invTake (s : State) (ctx site core n : Nat) (pas : List Nat) : State :=
  let bytes := pas.flatMap fun pa => range pa n
  let u := s.invUse ctx
  let use : InvUse :=
    { loaded := bytes.foldl insertNat u.loaded, broken := (bytes.filter (s.invBroken ctx site core)).foldl insertNat u.broken }
  { s with inv := Tab.set s.inv ctx use }

/-- A line is poisoned, or has an error that is not found yet (R294, R295). -/
def State.lineBad (s : State) (line : Nat) : Bool := s.poison.contains line || s.bad.contains line

/-- The threads whose reads hit a line that is poisoned or uncorrectable (R295). -/
def State.poisoned (s : State) (pas : List (Nat × Nat)) : List Nat :=
  (pas.filter fun (_, pa) => s.lineBad (pa / 64)).map (·.1)

/-- A core's read of `n` bytes hits a failing line in memory: some byte does not come from a write that the core sees on its
way (R256, R295). -/
def State.hitsBad (s : State) (site core pa n : Nat) : Bool :=
  s.lineBad (pa / 64) && (range pa n).any fun a => !s.posted.any fun p => p.seenBy site core && p.writes a

/-- An engine's read of a byte for a shuttle hits a failing line in memory (R256, R295). -/
def State.engineHits (s : State) (site core h : Nat) (bound : Posted → Bool) (pa : Nat) : Bool :=
  s.lineBad (pa / 64) && !s.posted.any fun p =>
    (s.engineSees site core h bound pa p || (p.site == site && p.die)) && p.writes pa

/-- Picoseconds since bring-up at the clocks that ran (R379, log 5). -/
def State.picos (s : State) : Nat := s.mgmt.clockPs + (s.now - s.mgmt.clockFrom) * 1000000 / s.mgmt.mhz
/-- Nanoseconds since bring-up (R379). -/
def State.nanos (s : State) : Nat := s.picos / 1000

/-- An entry joins the error log of 4096, which keeps the oldest; a replacement request raises MSI-X vector 1 (R379). -/
def State.logEvent (s : State) (repl : Bool) (site quad core cause : Nat) : State :=
  s.updMgmt fun m =>
    { m with log := if m.log.length < 4096 then
               m.log ++ [{ time := s.nanos, repl := repl, site := site, quad := quad, core := core, cause := cause }] else m.log
             msix := if repl then m.msix ++ [1] else m.msix }

/-- A cause that the manual does not name. -/
def State.openCause (s : State) : Nat := (Config.freeWord s.tick 5).toNat % 512

/-- The HBM4E frame of a line. -/
def frameOf (l : Nat) : Nat := l / 1024 * 65536

/-- An uncorrectable line that an access or the patrol finds is poisoned and counted at its hub (log 76), and its HBM4E frame is fenced
off: it returns to no pool (R294, R347, R378). -/
def State.poisonLine (s : State) (l : Nat) : State :=
  let f := frameOf l
  let h := l / 64 % 2
  let s1 := State.updHub { s with bad := s.bad.filter (· != l), poison := insertNat s.poison l } h fun u =>
    { u with uncorrected := u.uncorrected + 1 }
  if farTier f || s.retired.contains f then s1
  else State.logEvent { s1 with
    retired := insertNat s.retired f
    parts := s.parts.map fun (p, x) => (p, { x with frames := x.frames.filter (· != f) }) }
    true (12 + h) 0xFF 0x7F s.openCause

/-- A read poisons the uncorrectable lines that it finds (R295). -/
def State.findBad (s : State) : List Nat → State
  | [] => s
  | l :: ls => State.findBad (if s.bad.contains l then s.poisonLine l else s) ls

/-! ## Deferred traps (R342) -/

/-- A trap joins the pending ones, or is merged into the newest when 8 are pending. -/
def deferTo (sh : Shuttle) (r : TrapRec) : Shuttle :=
  if sh.deferred.length < 8 then { sh with deferred := sh.deferred ++ [{ r with defer := true }] }
  else
    match sh.deferred.getLast? with
    | some l => { sh with deferred := sh.deferred.dropLast ++ [{ l with lost := min 255 (l.lost + 1) }] }
    | none => sh

/-- A deferred trap arises for a shuttle (R335). -/
def State.defer (s : State) (h : Nat) (r : TrapRec) : State := s.updSh h (deferTo · r)

/-! ## Writes on their way -/

/-- All 64 bytes of a line are among the cells (R294). -/
def coversLine (line : Nat) (cells : List Host.Cell) : Bool :=
  (range (64 * line) 64).all fun a => (lastCell cells a).isSome

/-! ## Reserved fields of what the device keeps (R11) -/

/-- The stack region of a shuttle (R352). -/
def stackBase (e : CtxEntry) (blk : Block) (idx : Nat) : Nat :=
  e.stackBase + e.stackSize * (64 * blk.linear + idx)

/-- The frame's address: the last 256 bytes of the shuttle's stack region (R339, R352). -/
def frameAddr (e : CtxEntry) (blk : Block) (idx : Nat) : Nat := stackBase e blk idx + e.stackSize - 256

/-- Reserved bits of a trap record, by highest and lowest (R339 Table 2). -/
def recordRz : List (Nat × Nat) :=
  [(1023, 697), (511, 464), (383, 383), (375, 373), (367, 364), (343, 342), (159, 153), (127, 122), (63, 60), (31, 26),
   (23, 19), (15, 9)]

/-- The reserved bits of byte `i` of a map. -/
def rzByte (rz : List (Nat × Nat)) (i : Nat) : Byte :=
  BitVec.ofNat 8 (((range 0 8).map fun j =>
    if rz.any fun (hi, lo) => decide (lo ≤ 8 * i + j) && decide (8 * i + j ≤ hi) then 2 ^ j else 0).foldl (· + ·) 0)

/-- The 64-byte halves of the records of traps in service: physical address, and which byte of the record it is. -/
def State.openRecords (s : State) : List (Nat × Nat) :=
  s.shuttles.flatMap fun (h, sh) =>
    if !sh.handler then []
    else
      match s.blk? (blockOf h) with
      | none => []
      | some blk =>
        match s.ctx? blk.ctx with
        | none => []
        | some e => [0, 64].filterMap fun i => match s.walkOf blk.ctx (frameAddr e blk sh.idx + i) with
          | .page pa _ _ => some (pa, i)
          | .serv .. | .none => none

/-- Stretches of device memory whose bytes are reserved: the rest of a command window's and of a fatal log's header (R318,
R344). -/
def State.headerRz (s : State) : List (Nat × Nat) :=
  s.parts.flatMap fun (_, p) => [(p.window + 8, p.window + 256), (p.log + 12, p.log + 128)]

/-- A write to reserved bits of a trap record or of a header is ignored: they read zero (R11). -/
def State.keepRz (s : State) (cells : List Host.Cell) : List Host.Cell :=
  let heads := s.headerRz
  let recs := s.openRecords
  if recs.isEmpty && heads.isEmpty then cells
  else cells.map fun (a, b) =>
    if heads.any fun (lo, hi) => decide (lo ≤ a) && decide (a < hi) then (a, 0)
    else
      match recs.find? fun (pa, _) => decide (pa ≤ a) && decide (a < pa + 64) with
      | some (pa, i) => (a, b &&& ~~~ rzByte recordRz (i + (a - pa)))
      | none => (a, b)

/-- A write is accepted into the core's write buffer; writes of one engine command to one line merge (R294). Only a copy,
a collective and a lane ST make full writes. -/
def State.post (s : State) (w : Posted) : State :=
  let p := { w with cells := s.keepRz w.cells }
  let merges (q : Posted) : Bool :=
    p.engine.isSome && q.engine == p.engine && q.line == p.line && q.core == p.core && q.site == p.site && !q.die
  let join (q : Posted) : Posted := { q with cells := q.cells ++ p.cells, full := q.may && coversLine p.line (q.cells ++ p.cells) }
  match s.posted.findIdx? merges with
  | some i => { s with posted := s.posted.take i ++ ((s.posted.drop i).take 1).map join ++ s.posted.drop (i + 1) }
  | none => { s with posted := s.posted ++ [{ p with full := p.may && coversLine p.line p.cells, since := s.now }] }

/-- The bytes of one atomic piece of a write: 16 of an engine's, 8 of another's (R255). -/
def Posted.grain (p : Posted) : Nat := if p.engine.isSome then 16 else 8

/-- A posted write of several atomic pieces lets one go on ahead of the others: what a reader finds may be torn between them
(R255). A full write reaches memory whole (R294; log 98). -/
def State.split (s : State) (i : Nat) : State :=
  match s.posted[i]? with
  | none => s
  | some p =>
    let pieces := distinct (p.cells.map fun c => c.1 / p.grain)
    if p.full || pieces.length ≤ 1 then s
    else
      let k := pieces.getD (Config.freeChoice s.tick 12 % pieces.length) 0
      let some_ (q : Bool) : Posted := { p with cells := p.cells.filter fun c => (c.1 / p.grain == k) == q }
      { s with posted := s.posted.take i ++ [some_ true, some_ false] ++ s.posted.drop (i + 1) }

/-- Bytes written over a 64-byte copy of a line. -/
def patch (bytes : List Byte) : List Host.Cell → List Byte
  | [] => bytes
  | (a, b) :: t => patch (setAt bytes (a % 64) b) t

/-- Copies of a line after a write that reaches the level: the writer's copies take the bytes, every other copy's
invalidation is sent (R256, R348). -/
def touchCopies (keep : Nat → Bool) (hit : Nat → Bool) (now : Nat) (cells : List Host.Cell) (t : Tab CacheLine) :
    Tab CacheLine :=
  t.map fun (k, c) =>
    if !hit k then (k, c)
    else if keep k then (k, { c with bytes := patch c.bytes cells })
    else (k, { c with inval := match c.inval with | none => some now | some n => some n })

/-- Two writes to one line keep their order: they are one shuttle's, or have a byte in common (R257, R271; log 70). -/
def Posted.meets (p q : Posted) : Bool := p.line == q.line && p.site == q.site && (p.h == q.h || p.cells.any fun c => q.writes c.1)

/-- An older write that it must follow stands before this one at the home slice (R257, R271): one at the same level before it,
or, for a write still in its core's buffer, any that has reached its die. -/
def State.blockedWrite (s : State) (i : Nat) : Bool :=
  match s.posted[i]? with
  | none => true
  | some p =>
    ((s.posted.take i).any fun q => q.meets p && q.die == p.die && (p.die || q.core == p.core)) ||
      (!p.die && s.posted.any fun q => q.meets p && q.die)

/-- An older write of the core that it must follow is still in the write buffer (R271). -/
def State.bufferedBefore (s : State) (i : Nat) (p : Posted) : Bool :=
  (s.posted.take i).any fun q => q.meets p && q.core == p.core && !q.die

/-- A posted write reaches its die cache: from now on every core of the die may read it (R256). -/
def State.toDie (s : State) (i : Nat) : State :=
  match s.posted[i]? with
  | none => s
  | some p =>
    if p.die || s.bufferedBefore i p then s
    else
      let key (k : Nat) : Bool := k % 2 ^ 48 == p.line
      State.updDie { s with posted := dropAt s.posted i ++ [{ p with die := true }] } p.site fun d =>
        { d with coreCache := touchCopies (fun k => k / 2 ^ 48 == p.core) key s.now p.cells d.coreCache }

/-- Every reservation on a line is cleared by a write to it (R264, R292). -/
def State.clearResv (s : State) (line : Nat) : State :=
  { s with shuttles := s.shuttles.map fun (h, sh) =>
      (h, if sh.resv == some line then { sh with resv := none } else sh) }

/-- Every die's copies of a line after a write at the home slice by core `core` of die `site` (R348). -/
def State.invalidateLine (s : State) (line site core : Nat) (cells : List Host.Cell) : State :=
  { s with dies := s.dies.map fun (d, die) =>
      (d, { die with
        cache := touchCopies (fun _ => d == site) (· == line) s.now cells die.cache,
        coreCache := touchCopies (fun k => d == site && k / 2 ^ 48 == core) (fun k => k % 2 ^ 48 == line) s.now cells
          die.coreCache }) }

/-- A core has read a line at its home slice: its copies of the line become the line as it stands there, whole, so that its
later loads find nothing older and nothing torn (R255, R257). -/
def State.readHome (s : State) (site core line : Nat) : State :=
  let fresh (hit : Nat → Bool) (t : Tab CacheLine) : Tab CacheLine :=
    t.map fun (k, c) => (k, if hit k then { bytes := s.mem.readN (64 * line) 64, inval := none } else c)
  s.updDie site fun d =>
    { d with cache := fresh (· == line) d.cache, coreCache := fresh (· == coreLine core line) d.coreCache }

/-- The hub whose free-space manager serves a 4 KiB block: blocks alternate as far memory does (log 76). -/
def blockHub (blk : Nat) : Nat := blk % 2
/-- A hub's space. -/
def Compress.pool (c : Compress) (h : Nat) : Pool := Tab.getD c.pools h Pool.initial
/-- Steps of a store given back to a pool, or taken from it. -/
def Pool.give (p : Pool) (n : Nat) : Store512 → Pool
  | .free => { p with free := p.free + n }
  | .far => { p with far := p.far + n }
  | .reserve => { p with reserve := p.reserve - n }
def Pool.take (p : Pool) (n : Nat) : Store512 → Pool
  | .free => { p with free := p.free - n }
  | .far => { p with far := p.far - n }
  | .reserve => { p with reserve := p.reserve + n }
/-- Where a block of `n` steps finds room: free space, the far tier, the reserve (R296). -/
def Pool.room (p : Pool) (n : Nat) : Store512 := if n ≤ p.free then .free else if n ≤ p.far then .far else .reserve

/-- Space for a written block of a compressed region: what it held goes back, and what it needs comes from the free space,
the far tier, or the reserve, whose first grant raises 0x1D0 and holds dispatch (R296). A block that does not grow stays
where it is. -/
def State.growBlock (s : State) (line : Nat) : State :=
  let blk := line / 64
  let need := (Config.compressedSteps (s.mem.readN (blk * 4096) 4096)).val + 1
  let pool := s.compress.pool (blockHub blk)
  let old := Tab.getD s.compress.blocks blk (0, .free)
  let back := pool.give old.1 old.2
  let place := if need ≤ old.1 then old.2 else back.room need
  let next := back.take need place
  let c := { s.compress with
    blocks := Tab.set s.compress.blocks blk (need, place), pools := Tab.set s.compress.pools (blockHub blk) next }
  if place == .reserve && pool.reserve == 0 then
    State.logEvent { s with compress := { c with hold := true } } false (12 + blockHub blk) 0xFF 0x7F 0x1D0
  else { s with compress := c }

/-- A frame no longer holds compressed blocks: their space returns (R296). -/
def State.freeBlocks (s : State) (frame size : Nat) : State :=
  { s with compress := (range (frame / 4096) (size / 4096)).foldl (fun c blk =>
      match Tab.get? c.blocks blk with
      | some (n, st) => { c with blocks := Tab.del c.blocks blk, pools := Tab.set c.pools (blockHub blk) ((c.pool (blockHub blk)).give n st) }
      | none => c) s.compress }

/-- The tables that entries of a table name, and whether some leaf of its level is compressed; entries that no cell of
memory makes non-zero name nothing (R281, R296). -/
def tablesBelow (m : Memory) (lo : Nat) (leafOk tableOk : Bool) (align table : Nat) : List Nat × Bool :=
  let at_ := distinct ((m.filter fun c => table ≤ c.1 && c.1 < table + 4096).map fun c => c.1 / 8 * 8)
  at_.foldl (fun acc a =>
    match judgeEntry (m.dword a) a lo leafOk tableOk align 0 with
    | .inr t => (acc.1 ++ [t], acc.2)
    | .inl (.page _ _ c) => (acc.1, acc.2 || c)
    | .inl (.serv _ _ _ big) => (acc.1, acc.2 || (big && m.dword a / 32 % 2 == 1))
    | .inl .none => acc) ([], false)

/-- Some leaf below the tables of a level has COMP = 1 (R296). -/
def someComp (m : Memory) : List (Nat × Nat × Bool × Bool × Nat) → List Nat → Bool
  | [], _ => false
  | (_, lo, leafOk, tableOk, align) :: ls, tables =>
    let found := tables.map (tablesBelow m lo leafOk tableOk align)
    found.any (·.2) || someComp m ls (distinct (found.flatMap (·.1)))

/-- A partition has a compressed region (R296). -/
def State.compressedPart (s : State) (p : Nat) : Bool :=
  match s.part? p with
  | some x => x.live.any fun (i, _) => match s.ctx? (256 * p + i) with | some e => someComp s.mem levels [e.root] | none => false
  | none => false

/-- A line is about to be written: what it holds is kept, and bytes of it that invariant loads have read count as written
(R266). -/
def State.invWrite (s : State) (line : Nat) (cells : List Host.Cell) : State :=
  let old := s.mem.readN (64 * line) 64
  { s with
    past := if patch old cells == old then s.past else Tab.set s.past line (Tab.getD s.past line [] ++ [(s.now, old)])
    inv := s.inv.map fun (k, u) =>
      (k, { u with broken := ((cells.map (·.1)).filter u.loaded.contains).foldl insertNat u.broken }) }

/-- What fetches may find in a line takes its new contents (R313). -/
def State.codeWrite (s : State) (line : Nat) : State :=
  if (Tab.get? s.code line).isSome then
    { s with code := Tab.upd s.code line fun k => { k with held := k.held ++ [(s.tick, s.mem.readN (64 * line) 64)] } }
  else s

/-- The virtual lines of a range that an ICINV.pkg covers: fetches find what memory holds (R132, R313). -/
def State.codeFresh (s : State) (ctx lo hi : Nat) : State :=
  { s with code := s.code.map fun (l, k) =>
      (l, if k.ctx == ctx && lo ≤ 64 * k.va && 64 * k.va < hi then { k with held := [(0, s.mem.readN (64 * l) 64)] } else k) }

/-- The code bytes from `pa` on as they stood from a step on. -/
def State.codeAt (s : State) (pa n tick : Nat) : List Byte :=
  (range pa n).map fun a =>
    match Tab.get? s.code (a / 64) with
    | some k =>
      (match (k.held.filter fun v => v.1 ≤ tick).getLast? with
      | some v => v.2.getD (a % 64) 0
      | none => s.mem.read a)
    | none => s.mem.read a

/-- A word that a fetch gets, from one stretch of memory or two: memory's, or, where the program has stored into a line of it
without an ICINV.pkg since, the word as it stood at some time since then, whole, chosen anew for each fetch (R313). -/
def State.codeWord (s : State) (parts : List (Nat × Nat)) : List Byte :=
  let old := (parts.flatMap fun (pa, n) => [pa / 64, (pa + n - 1) / 64]).flatMap fun l => match Tab.get? s.code l with
    | some k => if k.held.length > 1 then k.held.map (·.1) else []
    | none => []
  if old.isEmpty then parts.flatMap fun (pa, n) => s.mem.readN pa n
  else
    let t := old.getD (Config.freeChoice s.tick (2 ^ 49 + (parts.headD (0, 0)).1) % old.length) s.tick
    parts.flatMap fun (pa, n) => s.codeAt pa n t

/-- Cells written at the home slice of their line by a core: memory, copies and reservations (R256, R292, R348). -/
def State.homeWrite (s : State) (line site core : Nat) (cells : List Host.Cell) : State :=
  let s1 := s.invWrite line cells
  ((State.invalidateLine { s1 with mem := s1.mem.writeCells cells } line site core cells).clearResv line).codeWrite line

/-! ## Contexts come and go (R145, R317) -/

/-- A frame filled at its home slices: no copy, no error and no reservation of its lines remains (R292), nor what the lines
held for invariant loads and fetches; the space of compressed blocks returns (R296). -/
def State.fillFrame (s : State) (frame size : Nat) (f : Nat → Byte) : State :=
  let inside (l : Nat) : Bool := frame / 64 ≤ l && l < (frame + size) / 64
  let keep (as : List Nat) : List Nat := as.filter fun a => !inside (a / 64)
  { s with
    mem := s.mem.writeCells ((range 0 size).map fun i => (frame + i, f i))
    poison := s.poison.filter (!inside ·)
    bad := s.bad.filter (!inside ·)
    dies := s.dies.map fun (d, die) =>
      (d, { die with cache := die.cache.filter fun e => !inside e.1,
                     coreCache := die.coreCache.filter fun e => !inside (e.1 % 2 ^ 48) })
    shuttles := s.shuttles.map fun (h, sh) =>
      (h, if (sh.resv.map inside).getD false then { sh with resv := none } else sh)
    inv := s.inv.map fun (k, u) => (k, { loaded := keep u.loaded, broken := keep u.broken })
    past := s.past.filter fun e => !inside e.1
    code := s.code.filter fun e => !inside e.1
    compress := (s.freeBlocks frame size).compress }

/-- A context ends: its overflow entries are freed (R242), its ranges unallotted (R247), its receives and what its invariant
loads returned dropped; its blocks were the tenants of their regions (R137). -/
def State.endContext (s : State) (ctx : Nat) : State :=
  { s with
    cores := s.cores.map fun (c, k) =>
      (c, { k with overflow := k.overflow.filter (·.ctx != ctx), raised := k.raised.filter (· != ctx),
                   recvs := k.recvs.filter (·.ctx != ctx)
                   tenants := k.tenants.map fun t => if t.ctx == some ctx then { t with ctx := none } else t })
    dies := s.dies.map fun (d, x) =>
      (d, { x with ranges := x.ranges.map fun (r, y) => (r, if y.ctx == some ctx then { y with ctx := none } else y) })
    inv := Tab.del s.inv ctx }

/-- The hub looks at an entry of a partition's context table: one that has become valid has its tensor identifier table zeroed
(R145), and with one that is valid no longer the context ends. -/
def State.contextTurn (s : State) (p idx : Nat) : State :=
  match s.part? p with
  | none => s
  | some pt =>
    if idx ≥ 256 then s
    else
      match s.ctx? (256 * p + idx), (Tab.get? pt.live idx).isSome with
      | some e, false => (s.updPart p fun x => { x with live := Tab.set x.live idx s.now }).fillFrame e.ttab 65536 fun _ => 0
      | none, true => (s.updPart p fun x => { x with live := Tab.del x.live idx }).endContext (256 * p + idx)
      | _, _ => s

/-- The entries of context tables in a line that was written: the hub looks at them at once, before any launch (R145). -/
def State.entryLook (s : State) (line : Nat) : State :=
  s.parts.foldl (fun x (p, pt) =>
    if pt.table < 64 * line + 64 && 64 * line < pt.table + 16384 then
      (x.contextTurn p ((64 * line - pt.table) / 64)).contextTurn p ((64 * line + 63 - pt.table) / 64)
    else x) s

/-- A write at the home slice with what follows from it: a block of a compressed region takes its space (R296), and a context
entry is looked at. -/
def State.settleWrite (s : State) (line site core : Nat) (cells : List Host.Cell) (comp : Bool) : State :=
  let s1 := s.homeWrite line site core cells
  (if comp then s1.growBlock line else s1).entryLook line

/-- A partial write of the hub or of another agent that is no shuttle's: on a failing line it is abandoned, and the line is
poisoned (R294, R295). -/
def State.agentWrite (s : State) (line : Nat) (cells : List Host.Cell) (comp : Bool) : State :=
  if s.lineBad line then s.findBad [line] else s.settleWrite line 15 0 cells comp

/-- The physical address of an event object of a launch, as the hub finds it (R322). -/
def State.eventPa (s : State) (ctx va : Nat) : Option Nat :=
  match s.walkOf ctx va with
  | .page pa _ _ => some pa
  | .serv .. | .none => none

/-- The event objects that queued and running launches name, by physical address (R322). -/
def State.eventObjects (s : State) : List Nat :=
  s.launches.flatMap fun (_, l) =>
    if l.complete then [] else ((l.waits.map (·.1)) ++ (if l.arrive == 0 then [] else [l.arrive])).filterMap (s.eventPa l.ctx)

/-- A program's write at the home slice: an event object that it touches while a launch names it holds unpredictable fields
from then on (R322); a block of a compressed region takes its space (R296). -/
def State.programWrite (s : State) (line site core : Nat) (cells : List Host.Cell) (comp : Bool) : State :=
  let hit := if s.launches.isEmpty then []
    else (distinct s.eventObjects).filter fun o => cells.any fun c => o ≤ c.1 && c.1 < o + 16
  let spoilt := hit.flatMap fun o => cellsFrom o ((range o 16).map (Config.freeByte s.tick))
  s.settleWrite line site core (s.keepRz cells ++ spoilt) comp

/-- An engine's command whose write failed stops without a landing report, and its follow-on is not issued (R170, R171). -/
def State.dropCopy (s : State) (c id : Nat) : State :=
  s.updCore c fun k => { k with copyQ := k.copyQ.filter (·.id != id) }

/-- Fatal (R344): the block's shuttles stop; the record waits for the end of the block. -/
def State.fatalTrap (s : State) (h cause : Nat) (r : TrapRec) : State :=
  let s1 := s.updBlk (blockOf h) fun b =>
    { b with fatal := match b.fatal with | some f => some f | none => some (h, { r with cause := cause }) }
  { s1 with shuttles := s1.shuttles.map fun (j, sh) =>
      (j, if blockOf j == blockOf h && sh.status != .exited then { sh with status := .fatal } else sh) }

/-- The frame of a trap in service cannot be written: its delivery fails finally (R340). -/
def State.frameFails (s : State) (h : Nat) : State :=
  match (s.sh? h).bind (·.trap) with
  | some r => s.fatalTrap h 0x1A5 r
  | none => s

/-- A partial write is abandoned and its line poisoned; the writer receives 0x06D, or 0x06F for an engine, whose command
stops (R294, R295); the write of a trap frame is impossible, which ends the block (R340). -/
def State.abandon (s : State) (p : Posted) : State :=
  let s1 := s.findBad [p.line]
  if p.frame then s1.frameFails p.h
  else match p.engine with
  | some id => (s1.dropCopy (128 * p.site + p.core) id).defer p.h { cause := 0x06F, addr := p.va / 64 * 64, ipc := p.ipc }
  | none =>
    s1.defer p.h
      { cause := 0x06D, tmask := p.tmask, addr := p.va / 64 * 64, ipc := p.ipc, lane := p.lane.isSome,
        lword := (p.lane.getD (0, 0)).1, roff := (p.lane.getD (0, 0)).2 }

/-- A posted write that has left the queue is performed at its home slice (R256). A partial write to a failing line is
abandoned; a full write clears the poison (R294, R295). -/
def State.performOne (s : State) (p : Posted) : State :=
  if !p.full && s.lineBad p.line then s.abandon p
  else
    let s2 := if p.full then
        { s with bad := s.bad.filter (· != p.line), poison := s.poison.filter (· != p.line) } else s
    s2.programWrite p.line p.site p.core p.cells p.comp

/-- A posted write reaches its home slice, unless an older one must come first. -/
def State.performWrite (s : State) (i : Nat) : State :=
  match s.posted[i]? with
  | none => s
  | some p => if s.blockedWrite i then s else State.performOne { s with posted := dropAt s.posted i } p

/-- Of a list of writes in their order, those that are wanted and those that these must follow. -/
def needed (want : Posted → Bool) : List Posted → List Posted
  | [] => []
  | p :: ps =>
    let later := needed want ps
    if want p || later.any p.meets then p :: later else later

/-- Certain writes to a line that a core sees are performed, with those that they must follow, at the die first and each level
oldest first; of the `n` bytes at an address: an atomic of the core comes after them (R257, R263). -/
def State.flushBy (s : State) (site core line : Nat) (want : Posted → Bool) : State :=
  let mine := s.posted.filter fun p => p.line == line && p.seenBy site core
  let due := needed want (mine.filter (·.die) ++ mine.filter (!·.die))
  due.foldl State.performOne { s with posted := due.foldl List.erase s.posted }
def State.flushFor (s : State) (site core pa n : Nat) : State := s.flushBy site core (pa / 64) fun p => (range pa n).any p.writes

/-- Posted writes of a shuttle that are not yet performed at a scope: at .core all are; at .quad and .die those at the
die are; at .pkg and .pod none is (R256). -/
def Posted.notAt (p : Posted) (sc : Scope) : Bool :=
  match sc with
  | .lane | .core => false
  | .quad | .die => !p.die
  | .pkg | .pod => true

/-- A scope reaches past the core, or past the die. -/
def beyondCore : Scope → Bool
  | .lane | .core => false
  | .quad | .die | .pkg | .pod => true
def beyondDie : Scope → Bool
  | .lane | .core | .quad | .die => false
  | .pkg | .pod => true

/-- The line of a page is compressed. -/
def State.compressedAt (s : State) (site ctx va : Nat) : Bool :=
  match s.translate site ctx va with
  | .page _ _ c => c
  | .serv .. | .none => false

/-- A byte stands on a far tier whose link or device is lost (R297): a far address, interleaved over the hubs at 4 KiB, or a
compressed block whose space is the far tier's (R296). -/
def State.farGone (s : State) (pa : Nat) : Bool :=
  (farTier pa && (s.hub (pa / 4096 % 2)).farLost) ||
    match Tab.get? s.compress.blocks (pa / 4096) with
    | some (_, .far) => (s.hub (blockHub (pa / 4096))).farLost
    | some (_, .free) | some (_, .reserve) | none => false

end Sys2Proof.Machine
end

