-- ==== Sys2Proof/Machine/Local.lean ====
section
/-! DEFINITION. The local stores with their full/empty granules (R136, R139, R140, R153), barrier objects (R142 to R144)
and sharing groups (R218, R222). -/

namespace Sys2Proof.Machine

/-! ## Local stores -/

/-- The byte at an offset. -/
def LStore.read (st : LStore) (a : Nat) : Byte :=
  match Tab.get? st.cells a with
  | some b => b
  | none => match st.free with
    | some n => Config.freeByte n a
    | none => 0

/-- The store with a byte written: where unlisted bytes are zero, a zero is not listed. -/
def LStore.write (st : LStore) (a : Nat) (b : Byte) : LStore :=
  if st.free.isNone && b == 0 then { st with cells := Tab.del st.cells a } else { st with cells := Tab.set st.cells a b }

def LStore.readN (st : LStore) : Nat → Nat → List Byte
  | _, 0 => []
  | a, n + 1 => st.read a :: LStore.readN st (a + 1) n

def LStore.writeN (st : LStore) : Nat → List Byte → LStore
  | _, [] => st
  | a, b :: bs => LStore.writeN (st.write a b) (a + 1) bs

/-- The granules that a range touches (R139). -/
def granules (off len : Nat) : List Nat :=
  if len = 0 then [] else range (off / 16) ((off + len - 1) / 16 - off / 16 + 1)

def LStore.isFull (st : LStore) (g : Nat) : Bool := st.full.contains g
def LStore.fill (st : LStore) (gs : List Nat) : LStore := { st with full := gs.foldl insertNat st.full }
def LStore.empty (st : LStore) (gs : List Nat) : LStore := { st with full := st.full.filter fun g => !gs.contains g }

/-- A block's A or W store. -/
def Block.store (b : Block) (w : Bool) : LStore := if w then b.w else b.a
def Block.setStore (b : Block) (w : Bool) (st : LStore) : Block := if w then { b with w := st } else { b with a := st }

/-- The operand size of a format with or without scales (R174). -/
def opBytes (f : MmaFmt) (scaled : Bool) : Nat :=
  12288 + (if !scaled then 0 else match f with | .e2m1 => 3072 | .e4m3 | .e5m2 => 1536 | .bf16 | .f16 | .s8 => 0)

/-- SCALE of a tensor entry (R145). -/
def entryScale (e : Nat) : Bool := bitsOf e 458 458 == 1

/-- The two buffers that an MGEMM owns in a store: offset and length (R185). -/
def MatOp.buffers (o : MatOp) (w : Bool) : Option (Nat × Nat) :=
  match o.gemm with
  | none => none
  | some g =>
    let opnd := if w then o.b else o.a
    if opnd.tensor then some (if w then g.wbuf else g.abuf, 2 * opBytes o.fmt (entryScale opnd.entry)) else none

/-- Another agent wrote to a range: every MGEMM of the block with a buffer there is spoilt (R187). -/
def spoil (b : Nat) (w : Bool) (off len : Nat) (o : MatOp) : MatOp :=
  match o.gemm, o.buffers w with
  | some g, some (lo, n) =>
    if o.block == b && off < lo + n && lo < off + len then { o with gemm := some { g with dirty := true } } else o
  | _, _ => o

/-- A write to a store whose block is out spoils an MGEMM in its image in the same way (R187, R191). -/
def Block.spoilImage (b : Nat) (w : Bool) (off len : Nat) (k : Block) : Block :=
  { k with image := k.image.map fun i => { i with mats := i.mats.map (spoil b w off len) } }

/-- What a stream's store replaces stays readable for 4096 cycles by the shuttle's copies without `.acq` (R167, log 77). -/
def State.keepOld (s : State) (b : Nat) (blk : Block) (w : Bool) (off n : Nat) : State :=
  match s.cur with
  | some h =>
    { s with older := (s.older.filter fun o => s.now ≤ o.at_ + 4096) ++
        [{ h := h, block := b, ws := w, off := off, bytes := (blk.store w).readN off n, at_ := s.now, forCpy := none }] }
  | none => s

/-- Bytes written to a block's store by an agent other than an MGEMM's sequencer. -/
def State.writeStore (s : State) (b : Nat) (w : Bool) (off : Nat) (bytes : List Byte) : State :=
  match s.blk? b with
  | none => s
  | some blk =>
    ((s.keepOld b blk w off bytes.length).updBlk b fun k => k.setStore w ((k.store w).writeN off bytes)).updCore blk.coreKey fun c =>
      if c.matQ.any fun o => o.gemm.isSome then { c with matQ := c.matQ.map (spoil b w off bytes.length) } else c

/-- Full bits of a block's store set or cleared. -/
def State.markFull (s : State) (b : Nat) (w : Bool) (gs : List Nat) : State :=
  s.updBlk b fun k => k.setStore w ((k.store w).fill gs)
def State.markEmpty (s : State) (b : Nat) (w : Bool) (gs : List Nat) : State :=
  s.updBlk b fun k => k.setStore w ((k.store w).empty gs)

/-! ## Barrier objects -/

/-- Check of R143: whether a phase completes, and the object after it. -/
def Barrier.check (o : Barrier) : Barrier × Bool :=
  if o.arrived = o.expArr ∧ o.expBytes ≤ o.landed then
    ({ o with landed := o.landed - o.expBytes, arrived := 0, phase := !o.phase }, true)
  else (o, false)

/-- Land of R143: the object, whether a phase completed, and whether the byte count saturated. -/
def Barrier.land (o : Barrier) (n : Nat) : Barrier × Bool × Bool :=
  let past : Bool := o.landed + n > 0xFFFFFF
  let o1 := if past then { o with landed := 0xFFFFFF, ovb := true } else { o with landed := o.landed + n }
  (o1.check.1, o1.check.2, past)

/-- Arrive of R143: the object with OVA set when the arrivals pass EXPARR, else the object counted. -/
def Barrier.arrive (o : Barrier) (k : Nat) : Except Barrier (Barrier × Bool) :=
  if o.arrived + k > o.expArr then .error { o with ova := true } else .ok ({ o with arrived := o.arrived + k }.check)

/-- The object of a block. -/
def Block.bar (b : Block) (n : Nat) : Barrier := Tab.getD b.bars n (Barrier.zero b.tenancy)

/-- Every waiter on an object is woken by a completion (R144). -/
def State.wake (s : State) (b n : Nat) : State :=
  { s with shuttles := s.shuttles.map fun (h, sh) =>
      (h, if blockOf h == b && sh.wait == .barrier n then { sh with wait := .woken } else sh) }

/-- An object replaced; its waiters wake when a phase completed. -/
def State.setBar (s : State) (b n : Nat) (o : Barrier) (done : Bool) : State :=
  let s1 := s.updBlk b fun k => { k with bars := Tab.set k.bars n o }
  if done then s1.wake b n else s1

/-- A landing report on a block's object (R143, R166); a saturated count is deferred to the issuer. -/
def State.land (s : State) (b n bytes : Nat) (h : Nat) (r : TrapRec) : State :=
  match s.blk? b with
  | none => s
  | some blk =>
    let (o, done, past) := (blk.bar n).land bytes
    let s1 := s.setBar b n o done
    if past then s1.defer h { r with cause := 0x0A7 } else s1

/-! ## Sharing groups -/

/-- The group of a block in its quad (R218). -/
def State.groupOf (s : State) (q b : Nat) : Option Group :=
  (s.quad q).groups.find? fun g => g.members.any fun e => e.2.block == b

/-- The windows of a block's group (R222). -/
def State.window (s : State) (blk : Block) (b n : Nat) : Option Member :=
  match s.groupOf blk.quadKey b with
  | some g => Tab.get? g.members n
  | none => none

/-- The peer checks of R222 for offsets and a size: the cause of the first that fails, or the member. -/
def State.peerCheck (s : State) (blk : Block) (b n : Nat) : Except Nat Member :=
  match s.window blk b n with
  | none => .error 0x105
  | some m => if m.lost then .error 0x10D else .ok m

/-- A packet's number is that of the block whose region it addresses (R222). -/
def State.tenant (s : State) (b tenancy : Nat) : Bool :=
  match s.blk? b with
  | some blk => blk.status == .resident && blk.tenancy == tenancy
  | none => false

/-- A packet is dropped by the tenancy check (R222). -/
def State.countStale (s : State) (c : Nat) : State := s.updCore c fun k => { k with stale := min 0xFFFFFFFF (k.stale + 1) }

/-- The key of the quad of a core's key (R131). -/
def quadOf (c : Nat) : Nat := 32 * (c / 128) + c % 128 / 4

/-- A block has a window onto a block at a core: both are members of one group, and no SGLEAVE of the second waits
(R221, R222). -/
def State.reaches (s : State) (from_ to_ c : Nat) : Bool :=
  match s.groupOf (quadOf c) to_ with
  | some g => (g.members.any fun e => e.2.block == from_) && g.members.any fun e => e.2.block == to_ && !e.2.leaving
  | none => false

/-- A peer packet leaves its core; one that names a block which has left, or whose SGLEAVE waits, is refused and dropped
(R221, R222). -/
def State.sendPeer (s : State) (p : PeerPacket) : State :=
  if s.reaches (blockOf p.h) p.block p.core then { s with peers := s.peers ++ [p] } else s.countStale p.core

/-- A packet whose number is the target's is applied: the bytes, then the full bits, in one step (R153). -/
def State.applyPeer (s : State) (p : PeerPacket) (blk : Block) : State :=
  match p.req with
  | .write parts fill =>
    let s1 := parts.foldl (fun x (off, bs) => x.writeStore p.block false off bs) s
    if fill then s1.markFull p.block false (parts.flatMap fun (off, bs) => granules off bs.length) else s1
  | .land n len =>
    if n ≥ blk.nbars then s.defer p.h { cause := 0x09F, ipc := p.ipc }
    else if !(blk.bar n).init then s.defer p.h { cause := 0x097, ipc := p.ipc }
    else if (blk.bar n).tenancy != p.tenancy then s.countStale p.core
    else s.land p.block n len p.h { cause := 0, ipc := p.ipc }

/-- Two packets write a byte in common. -/
def PeerReq.meets : PeerReq → PeerReq → Bool
  | .write ps _, .write qs _ =>
    ps.any fun (a, x) => qs.any fun (b, y) => decide (a < b + y.length) && decide (b < a + x.length)
  | .land .., _ => false
  | .write .., .land .. => false

/-- A packet that has left the network reaches its target, which applies it or drops it (R222). -/
def State.arrive (s : State) (p : PeerPacket) : State :=
  match s.blk? p.block with
  | some blk => if s.tenant p.block p.tenancy then s.applyPeer p blk else s.countStale p.core
  | none => s.countStale p.core

/-- A packet arrives; of one shuttle's packets to one block, those that write a common byte arrive in order (R257); others
in any order (R224). -/
def State.peerArrival (s : State) (i : Nat) : State :=
  match s.peers[i]? with
  | none => s
  | some p =>
    if (s.peers.take i).any fun q => q.h == p.h && q.block == p.block && q.req.meets p.req then s
    else State.arrive { s with peers := dropAt s.peers i } p

/-- Of packets in their order, those that are wanted and those that these must follow. -/
def neededPeers (want : PeerReq → Bool) : List PeerPacket → List PeerPacket
  | [] => []
  | p :: ps =>
    let later := neededPeers want ps
    if want p.req || later.any (fun q => p.req.meets q.req) then p :: later else later

/-- A packet writes one of the `n` bytes at some offsets. -/
def PeerReq.touches (n : Nat) (offs : List Nat) : PeerReq → Bool
  | .write ps _ => ps.any fun (a, x) => offs.any fun o => decide (a < o + n) && decide (o < a + x.length)
  | .land .. => false

/-- A shuttle's packets that write one of the `n` bytes at some offsets of a block are applied, oldest first, with those that
they must follow: its later reads and atomics there come after them (R257). -/
def State.flushPeers (s : State) (h b n : Nat) (offs : List Nat) : State :=
  let due := neededPeers (·.touches n offs) (s.peers.filter fun p => p.h == h && p.block == b)
  due.foldl State.arrive { s with peers := due.foldl List.erase s.peers }

/-- The key of the core at a position of a block's quad. -/
def Block.coreAt (b : Block) (n : Nat) : Nat := 128 * b.site + b.core / 4 * 4 + n

/-! ## Reserved slots (R150) -/

/-- Every reserved slot of the stopped shuttles is emptied (R150, R331); a sequencer's copy is none of the shuttle's own
instructions and stays (R187). -/
def State.emptySlots (s : State) (hit : Nat → Bool) : State :=
  { s with
    cores := s.cores.map fun (k, c) =>
      (k, { c with copySlots := c.copySlots.filter (fun k => k.seq.isSome || !hit k.h), matSlots := c.matSlots.filter (!hit ·.h),
                   sendSlots := c.sendSlots.filter (!hit ·.h) })
    dies := s.dies.map fun (k, d) => (k, { d with rangeSlots := d.rangeSlots.filter fun e => !hit e.1 })
    hubs := s.hubs.map fun (k, u) => (k, { u with collSlots := u.collSlots.filter (!hit ·.h) }) }

/-! ## Quad and die barriers (R160) -/

/-- Where a hardware barrier is kept: the quad's or the die's table. -/
def State.gbarOf (s : State) (die : Bool) (key id : Nat) : Option GInst :=
  Tab.get? (if die then (s.die key).bars else (s.quad key).bars) id
def State.setGbar (s : State) (die : Bool) (key id : Nat) (i : Option GInst) : State :=
  let put (t : Tab GInst) : Tab GInst := match i with | some x => Tab.set t id x | none => Tab.del t id
  if die then s.updDie key fun d => { d with bars := put d.bars } else s.updQuad key fun q => { q with bars := put q.bars }

/-- A participant that is still awaited: its shuttle runs, neither draining nor stopped for good (R160, log 16), and its block
has not resumed on another quad or die (log 87). -/
def State.awaited (s : State) (die : Bool) (key h : Nat) : Bool :=
  match s.sh? h, s.blk? (blockOf h) with
  | some x, some b => x.status == .running && (if die then b.site == key else b.quadKey == key)
  | _, _ => false

/-- The GBAR of an arrived shuttle completes, if it still stands there. -/
def Shuttle.passGbar (sh : Shuttle) : Shuttle := if sh.wait == .gbar then sh.advance else sh

/-- An instance completes when every participant still present has arrived: every arrived GBAR completes (R160). -/
def State.gbarCheck (s : State) (die : Bool) (key id : Nat) : State :=
  match s.gbarOf die key id with
  | none => s
  | some i =>
    if i.parts.all fun h => i.arrived.contains h || !s.awaited die key h then
      let s1 := s.setGbar die key id none
      { s1 with shuttles := s1.shuttles.map fun (h, sh) => (h, if i.arrived.contains h then sh.passGbar else sh) }
    else s

/-- An arrival of a shuttle at a barrier number is kept, at whatever quad or die it was made (R112, R334). -/
def State.arrivedAt (s : State) (die : Bool) (id h : Nat) : Bool :=
  let at_ (t : Tab GInst) : Bool := match Tab.get? t id with | some i => i.arrived.contains h | none => false
  if die then s.dies.any fun e => at_ e.2.bars else s.quads.any fun e => at_ e.2.bars

/-- Every open instance looked at again. -/
def State.gbarCheckAll (s : State) : State :=
  let s1 := s.quads.foldl (fun x q => q.2.bars.foldl (fun y e => y.gbarCheck false q.1 e.1) x) s
  s1.dies.foldl (fun x d => d.2.bars.foldl (fun y e => y.gbarCheck true d.1 e.1) x) s1

/-- Arrivals withdrawn (R160): of stopped shuttles, which are no longer awaited when their blocks leave. -/
def GInst.without (i : GInst) (leave : Bool) (hit : Nat → Bool) : GInst :=
  { i with arrived := i.arrived.filter (!hit ·), parts := if leave then i.parts.filter (!hit ·) else i.parts }
def State.withdraw (s : State) (leave : Bool) (hit : Nat → Bool) : State :=
  let go (t : Tab GInst) : Tab GInst := t.map fun (k, i) => (k, i.without leave hit)
  { s with
    quads := s.quads.map fun (k, q) => (k, { q with bars := go q.bars })
    dies := s.dies.map fun (k, d) => (k, { d with bars := go d.bars }) }

end Sys2Proof.Machine
end

