-- ==== Sys2Proof/Machine/Fetch.lean ====
section
/-! DEFINITION. Fetching words (R28, R282, R308, R333) and validating a run (R40). -/

namespace Sys2Proof.Machine

/-- What a fetch gives: the word's bytes, a trap at the position, a serviceable fault on a page, or the wait for the
translator. -/
inductive Fetched
  | bytes (w : Nat)
  | trap (cause : Nat)
  | swap (page : Nat)
  | wait
  deriving DecidableEq, Repr

/-- Fetch of `n` bytes of memory as a number. Fetch uses the data tables and ignores W (R281); no translation is 0x15D
(R333, log 10) and a poisoned line 0x165 (R337). Words come from memory as it stands at .pkg (R132), or as R313 lets them,
not through the data caches. -/
def State.fetchMem (s : State) (w : Who) (va n : Nat) : Fetched :=
  let last := va + n - 1
  match s.translate w.blk.site w.blk.ctx va, s.translate w.blk.site w.blk.ctx last with
  | .page pa _ _, .page pb _ _ =>
    if s.farGone pa || s.farGone pb then .trap 0x1CD
    else if !(s.poisoned [(0, pa), (0, pb)]).isEmpty then .trap 0x165
    else
      let k := min n (65536 - va % 65536)
      .bytes (leNat (s.codeWord ((pa, k) :: if k = n then [] else [(pb + 1 - (n - k), n - k)])))
  | .serv .., _ => if w.sh.fatalPages.contains (va / 65536) then .trap 0x15D else .swap (va / 65536)
  | _, .serv .. => if w.sh.fatalPages.contains (last / 65536) then .trap 0x15D else .swap (last / 65536)
  | _, _ => .trap 0x15D

/-- Bytes of a word of a translation. -/
def Translation.wordBytes (t : Translation) : Nat := if t.run then 12 else 4
/-- The byte after a translation's range. -/
def Translation.hi (t : Translation) : Nat := t.lo + t.wordBytes * t.words.length

/-- The translation that a shuttle executes at an address: one that it is already inside, else the current one of its
die's native set (R308, R310). -/
def State.translationAt (s : State) (w : Who) (va : Nat) : Option Nat :=
  let covers (t : Translation) : Bool :=
    !t.run && t.reed == Config.isReed w.blk.site && t.ctx == w.blk.ctx && t.lo ≤ va && va < t.hi
  match s.trans.findIdx? fun t => covers t && t.inside.contains w.h with
  | some i => some i
  | none => s.trans.findIdx? fun t => covers t && t.current

/-- Code of a context has been stored into since an ICINV.pkg covered it (R313). -/
def State.codeStored (s : State) (w : Who) (va n : Nat) : Bool :=
  (range (va / 64) ((va + n + 63) / 64 - va / 64)).any fun v =>
    match s.translate w.blk.site w.blk.ctx (64 * v) with
    | .page pa _ _ => (match Tab.get? s.code (pa / 64) with | some k => decide (k.held.length > 1) | none => false)
    | .serv .. | .none => false

/-- The control word at the shuttle's pc: from the translation it executes; where the program has stored into the code,
that word or another that R313 allows; the fetch waits while there is no translation (R308). -/
def State.fetchControl (s : State) (w : Who) : Fetched :=
  let va := w.sh.pc.toNat
  match (s.translationAt w va).bind fun i => s.trans[i]? with
  | some t =>
    let own := Fetched.bytes (t.words.getD ((va - t.lo) / 4) 0)
    if s.codeStored w va 4 then (if Config.freeChoice s.tick 5 % 2 = 0 then own else s.fetchMem w va 4) else own
  | none =>
    match s.fetchMem w va 4 with
    | .bytes _ => .wait
    | x => x

/-- The control word at the shuttle's pc, when it can be fetched. -/
def State.codeHere (s : State) (w : Who) : Option Nat :=
  match s.fetchControl w with
  | .bytes x => some x
  | .trap _ | .swap _ | .wait => none

/-- The shuttle stands inside the translation it executes and no other; an old one that nobody is inside is retired
(R310). -/
def State.enterTranslation (s : State) (w : Who) : State :=
  let at_ := s.translationAt w w.sh.pc.toNat
  let go (i : Nat) (t : Translation) : Translation :=
    if some i == at_ then { t with inside := insertNat t.inside w.h } else { t with inside := t.inside.filter (· != w.h) }
  { s with trans := ((s.trans.zipIdx.map fun (t, i) => go i t)).filter fun t => t.current || !t.inside.isEmpty }

/-- The outcome of validating a run (R40): its words, a trap with the run offset at fault, a fetch to wait for, or the wait
for the translator (R308). -/
inductive Validated
  | run (ws : List Nat)
  | trap (cause off : Nat)
  | swap (page : Nat)
  | wait
  deriving DecidableEq, Repr

/-- The words of a run from its first to its boundary word, `n` words at most. -/
def State.runWords (s : State) (w : Who) (l off : Nat) (acc : List Nat) : Nat → Validated
  | 0 => .trap 0x140 23
  | n + 1 =>
    if l + off ≥ w.blk.kern.laneLen then (if off = 0 then .trap 0x145 0 else .trap 0x140 (off - 1))
    else
      match s.fetchMem w (w.blk.kern.laneAddr + 12 * (l + off)) 12 with
      | .trap c => .trap c off
      | .swap p => .swap p
      | .wait => .wait
      | .bytes x =>
        if bndOf x then .run (acc ++ [x]) else State.runWords s w l (off + 1) (acc ++ [x]) n

/-- An expansion or order name of a lane word, and the feature that the word needs (R46, R47). -/
def laneFault (feat : Nat) (x : Nat) : Option Nat :=
  match decodeLane x with
  | .error slot => some (0x140 + slot)
  | .ok i => if i.needs &&& feat == i.needs then none else some 0x148

/-- The first word of a run that is at fault. -/
def firstFault (feat : Nat) : Nat → List Nat → Option (Nat × Nat)
  | _, [] => none
  | off, x :: xs =>
    match laneFault feat x with
    | some c => some (c, off)
    | none => firstFault feat (off + 1) xs

/-- The current translation of a run at an address for a shuttle's native set (R308). -/
def State.runTranslation (s : State) (w : Who) (va : Nat) : Option Translation :=
  s.trans.find? fun t => t.run && t.current && t.reed == Config.isReed w.blk.site && t.ctx == w.blk.ctx && t.lo == va

/-- Words are those of one run: the last one, and no other, is its boundary (R40). -/
def runShaped : List Nat → Bool
  | [] => false
  | [x] => bndOf x
  | x :: y :: t => !bndOf x && runShaped (y :: t)

/-- The words of a run as memory gives them now, or, where the program has stored into them, as its translation holds them
(R313). -/
def State.chosenRun (s : State) (w : Who) (t : Translation) (ws : List Nat) : List Nat :=
  if t.words == ws || !(s.codeStored w t.lo (12 * max t.words.length ws.length)) || Config.freeChoice s.tick 6 % 2 = 1 then ws
  else t.words

/-- Validation of the run that LRUN names (R40); it waits while the run has no translation (R308). -/
def State.validate (s : State) (w : Who) (l : Nat) : Validated :=
  match s.runWords w l 0 [] 24 with
  | .run ws =>
    match s.runTranslation w (w.blk.kern.laneAddr + 12 * l) with
    | none => .wait
    | some t =>
      let ws' := s.chosenRun w t ws
      match firstFault w.blk.kern.feat 0 ws' with
      | some (c, off) => .trap c off
      | none => .run ws'
  | v => v

end Sys2Proof.Machine
end

