-- ==== Sys2Proof/Machine/Ops.lean ====
section
/-! DEFINITION. Taking an exception: the record (R339), its delivery (R340), pending traps (R336, R342), Fatal (R344),
and raising a trap from either stream (R77, R335). Reads and writes of global memory by a stream, over the checks. -/

namespace Sys2Proof.Machine

/-! ## The trap frame -/

/-- A Boolean as a bit. -/
def bitNat (b : Bool) : Nat := if b then 1 else 0

/-- The 128-byte record of R339 Table 2 as a number. -/
def TrapRec.word (r : TrapRec) (s : State) (blk : Block) (sh : Shuttle) : Nat :=
  let tid := r.tid.getD (0, 0)
  let seq := match s.launch? blk.launch with | some l => l.seq | none => 0
  r.cause + 2 ^ 16 * bitNat r.lane + 2 ^ 17 * bitNat r.defer + 2 ^ 18 * bitNat r.drain + 2 ^ 32 * (r.tmask % 256) +
    2 ^ 40 * ((r.opslot.getD (r.cause % 8)) % 8) + 2 ^ 43 * (r.tile.getD 0 % 32) + 2 ^ 48 * bitNat r.tile.isSome +
    2 ^ 49 * bitNat r.tid.isSome + 2 ^ 50 * (tid.1 % 1024) + 2 ^ 64 * (r.cpc % 2 ^ 57) + 2 ^ 121 * bitNat r.lrunv +
    2 ^ 128 * (r.lword % 2 ^ 20) + 2 ^ 148 * (r.roff % 32) + 2 ^ 160 * (tid.2 % 2 ^ 64) + 2 ^ 224 * (r.addr % 2 ^ 64) +
    2 ^ 288 * (blk.x % 2 ^ 16) + 2 ^ 304 * (blk.y % 2 ^ 16) + 2 ^ 320 * (blk.z % 2 ^ 16) + 2 ^ 336 * (sh.idx % 64) +
    2 ^ 344 * (blk.ctx % 256) + 2 ^ 352 * (s.pkg % 256) + 2 ^ 360 * (r.lostSite.getD blk.site % 16) +
    2 ^ 368 * ((if r.lostSite.isSome then 31 else blk.core / 4) % 32) +
    2 ^ 376 * ((if r.lostSite.isSome then 127 else blk.core) % 128) + 2 ^ 384 * (seq % 2 ^ 64) + 2 ^ 448 * (r.pending % 256) + 2 ^ 456 * (r.lost % 256) +
    2 ^ 512 * (sh.s.get 60).toNat + 2 ^ 576 * (sh.s.get 61).toNat + 2 ^ 640 * (r.ipc % 2 ^ 57)

/-- Cells with their virtual addresses put into lines, each under the line's number with its first virtual address. -/
def intoLines (cells : List (Nat × Host.Cell)) : Tab (Nat × List Host.Cell) :=
  cells.foldl (fun t (va, c) =>
    let old := Tab.getD t (c.1 / 64) (va, [])
    Tab.set t (c.1 / 64) (old.1, old.2 ++ [c])) []

/-- Bytes that the hub or a loader writes to device memory, line by line at their home slices (R294). -/
def State.hubWrite (s : State) (pa : Nat) (bs : List Byte) : State :=
  (intoLines ((cellsFrom pa bs).map fun c => (c.1, c))).foldl (fun x e => x.agentWrite e.1 e.2.2 false) s

/-- Cells posted by a shuttle's stream, one write for each line (R256). -/
def State.postLines (s : State) (p : Posted) : Tab (Nat × List Host.Cell) → State
  | [] => s
  | (line, va, cells) :: t => State.postLines (s.post { p with line := line, va := va, cells := cells }) p t

/-- A posted write without its line. -/
def mkPosted (h : Nat) (blk : Block) (ipc va tmask : Nat) (lane : Option (Nat × Nat)) (comp : Bool) : Posted :=
  { h := h, ipc := ipc, site := blk.site, core := blk.core, line := 0, cells := [], die := false, tmask := tmask,
    va := va, lane := lane, engine := none, may := false, full := false, since := 0, forCpy := none,
    forMma := none, comp := comp, frame := false }

/-- The bytes of a frame with a record: the record and a replacement block of zeros (R340). -/
def frameBytes (word : Nat) : List Byte := leBytes 128 word ++ List.replicate 128 0

/-- Shuttles stopped while they wait in NPENTER stand there no longer: they execute it again (R112, R226). -/
def State.leaveEntry (s : State) (c : Nat) (hit : Nat → Bool) : State :=
  s.updCore c fun k => { k with np := { k.np with entering := k.np.entering.filter fun j => !hit j } }

/-- A frame write is impossible: a line of the frame is poisoned, uncorrectable, or on a lost far tier (R294, R295, R297,
R340). -/
def State.frameLost (s : State) (pas : List Nat) : Bool :=
  pas.any fun pa => s.farGone pa || s.lineBad (pa / 64)

/-- Shuttles leave the translations that they are inside; an old one that nobody is inside is retired (R310). -/
def State.leaveCode (s : State) (hit : Nat → Bool) : State :=
  { s with trans := (s.trans.map fun t => { t with inside := t.inside.filter (!hit ·) }).filter fun t =>
      t.current || !t.inside.isEmpty }

/-- A shuttle's wait ends without effect: what it has entered of the wait is withdrawn, and the instruction executes again
(R112, R150, R160, R226). -/
def State.unwait (s : State) (h c : Nat) (sh : Shuttle) : State :=
  (match sh.wait with
  | .gbar => s.withdraw false (· == h)
  | .slot => s.emptySlots (· == h)
  | .paced => s.leaveEntry c (· == h)
  | .none | .barrier _ | .woken | .memory | .newUse _ | .other => s).updSh h fun x =>
    { x with wait := .none, record := none, waitPages := [] }

/-- Delivery of R340 to a shuttle not in handler mode. A held 0x108, which its instruction would not find again, outlasts the
delivery of a deferred trap (R223, R342). `clear` takes the trap from where it was pending. A frame write
that meets a serviceable fault waits, and the trap stays pending. -/
def State.deliver (s : State) (h : Nat) (r : TrapRec) (clear : Shuttle → Shuttle) : State :=
  match s.sh? h, s.blk? (blockOf h) with
  | some sh, some blk =>
    let r1 := { r with cpc := sh.pc.toNat, drain := sh.status == .draining, pending := (clear sh).deferred.length }
    match s.ctx? blk.ctx with
    | none => (s.updSh h clear).fatalTrap h 0x1A0 r1
    | some e =>
      if e.handler = 0 then (s.updSh h clear).fatalTrap h 0x1A0 r1
      else
        let fa := frameAddr e blk sh.idx
        match s.check blk.site blk.ctx sh.fatalPages true 5 1 [(0, fa), (1, fa + 255)] with
        | .trap .. => (s.updSh h clear).fatalTrap h 0x1A5 r1
        | .wait ps => (s.request blk.site blk.ctx ps).updSh h (·.standOn ps)
        | .go pas =>
          let lo := (pas.headD (0, 0)).2
          let hi := (pas.getLastD (0, 0)).2
          let at_ (i : Nat) : Nat := if fa / 65536 == (fa + i) / 65536 then lo + i else hi + i - 255
          let cells := (range 0 256).zip (frameBytes (r1.word s blk sh)) |>.map fun (i, b) => (fa + i, at_ i, b)
          if s.frameLost (cells.map fun e => e.2.1) then
            ((s.findBad (cells.map fun e => e.2.1 / 64)).updSh h clear).fatalTrap h 0x1A5 r1
          else
          let s1 := s.postLines { mkPosted h blk sh.pc.toNat fa 0 none (s.compressedAt blk.site blk.ctx fa) with frame := true }
            (intoLines cells)
          ((s1.unwait h blk.coreKey sh).leaveCode (· == h)).updSh h fun x =>
            let x := { clear x with held := if r.defer then x.held.filter (·.cause == 0x108) else none }
            { x with s := (x.s.set 60 (BitVec.ofNat 64 fa)).set 61 (BitVec.ofNat 64 r.cause), handler := true,
                     trap := some r1, fatalPages := [], pc := BitVec.ofNat 64 e.handler }
  | _, _ => s

/-! ## Raising -/

/-- A precise trap of a control instruction, with the word that raised it: Fatal in handler mode (R341); with no run queued it
is delivered at once, and stays held where its frame's page is waited for (R340); otherwise it is held until the queued
runs end (R77), and until pending deferred traps are delivered (R342). -/
def State.raise (s : State) (w : Who) (r : TrapRec) : State :=
  let r1 := { r with code := s.codeHere w }
  if w.sh.handler then s.fatalTrap w.h 0x198 { r1 with cpc := w.sh.pc.toNat, drain := w.sh.status == .draining }
  else if w.sh.queue.isEmpty && w.sh.deferred.isEmpty then
    (s.updSh w.h fun x => { x with held := some r1 }).deliver w.h r1 fun x => { x with held := none }
  else s.updSh w.h fun x => { x with held := some r1, wait := .other, waitPages := [], fatalPages := [] }

/-- A precise control trap with nothing but its cause. -/
def State.trap (s : State) (w : Who) (cause : Nat) : State := s.raise w { cause := cause }

/-- A trap of the instruction at the head run's offset: the run stops there (R336). -/
def State.laneTrap (s : State) (h : Nat) (cause tmask addr : Nat) : State :=
  s.updSh h fun sh =>
    match sh.queue with
    | [] => sh
    | r :: rs =>
      { sh with
        queue := { r with phase := .stopped, since := none, pages := [], fatal := [], repl := none, half := none } :: rs,
        laneTrap := some { cause := cause, lane := true, tmask := tmask, addr := addr, lword := r.lword, roff := r.off } }

/-- What a shuttle does at a control-instruction boundary before its next word. While a control trap is held, the queued
runs end, or one of them traps, before anything is delivered (R77). Then come a pending deferred trap (R342), a lane trap,
and the held control trap; a delivery abandons a control trap that it does not deliver: its instruction executes again
(R77, R336). -/
def State.boundary (s : State) (h : Nat) (sh : Shuttle) : Option State :=
  if sh.handler then none
  else if sh.held.isSome && sh.laneTrap.isNone && !sh.queue.isEmpty then some s
  else
    match sh.deferred, sh.laneTrap, sh.held with
    | d :: ds, _, _ => some (s.deliver h d fun x => { x with deferred := ds })
    | [], some r, _ => some (s.deliver h r fun x => { x with laneTrap := none })
    | [], none, some r => some (s.deliver h r id)
    | [], none, none => none

/-! ## Global accesses of the control stream -/

/-- The instruction waits for serviceable pages, which are requested (R282). -/
def State.waitsOn (s : State) (w : Who) (ps : List Nat) : State :=
  (s.request w.blk.site w.blk.ctx ps).updSh w.h (·.standOn ps)

/-- A fetch fault that the hub services while the block is out (R333): the page is requested and the block leaves at
the next FETCH_FAULT_SWAP; the instruction executes again on resume. -/
def State.fetchSwap (s : State) (w : Who) (page : Nat) : State :=
  (s.waitsOn w [page]).updBlk w.b fun b => { b with onFault := some page }

/-- Runs a control instruction's global access: the trap, the wait for the fault queue, or what follows with the
physical address (R282 to R284). -/
def State.access (s : State) (w : Who) (write : Bool) (size va : Nat) (k : Nat → State) : State :=
  match s.check w.blk.site w.blk.ctx w.sh.fatalPages write 5 size [(0, va)] with
  | .trap c _ a => s.raise w { cause := c, tmask := 1, addr := a }
  | .wait ps => s.waitsOn w ps
  | .go pas => k (pas.headD (0, 0)).2

/-- A control read of global memory: the poison and far-tier checks, then the bytes (R295, R297). -/
def State.accessRead (s : State) (w : Who) (write : Bool) (size va : Nat) (k : Nat → List Byte → State) : State :=
  s.access w write size va fun pa =>
    if s.farGone pa then s.raise w { cause := 0x1CD, tmask := 1, addr := va }
    else if s.hitsBad w.blk.site w.blk.core pa size then (s.findBad [pa / 64]).raise w { cause := 0x075, tmask := 1, addr := va }
    else k pa (s.view w.blk.site w.blk.core pa size)

/-- A control atomic's access at the home slice: the core's own writes to its bytes come first, then the poison check, then
what follows with the state and the physical address (R263, R295, R297). -/
def State.accessHome (s : State) (w : Who) (write : Bool) (size va : Nat) (k : State → Nat → State) : State :=
  s.access w write size va fun pa =>
    if s.farGone pa then s.raise w { cause := 0x1CD, tmask := 1, addr := va }
    else
      let s1 := s.flushFor w.blk.site w.blk.core pa size
      if s1.lineBad (pa / 64) then (s1.findBad [pa / 64]).raise w { cause := 0x075, tmask := 1, addr := va }
      else k s1 pa

/-- A write of consecutive bytes of one line by the control stream (R127, R256). -/
def State.postStore (s : State) (w : Who) (va pa : Nat) (bytes : List Byte) : State :=
  s.post { mkPosted w.h w.blk w.sh.pc.toNat va 1 none (s.compressedAt w.blk.site w.blk.ctx va) with
    line := pa / 64, cells := cellsFrom pa bytes }

/-- The instruction waits for the shuttle's queued runs (R75). -/
def State.whenDrained (s : State) (w : Who) (k : State) : State := if w.sh.drained then k else s.waits w .other

end Sys2Proof.Machine
end

