-- ==== Sys2Proof/Machine/BarrierSet.lean ====
section
/-! DEFINITION. The barrier instructions (R155 to R159) and GBAR (R160). -/

namespace Sys2Proof.Machine

/-- The object that a register names, checked (R155): beyond the allotment 0x09A, not initialised 0x092. -/
def State.onBar (s : State) (w : Who) (a : SReg) (needInit : Bool) (k : Nat → Barrier → State) : State :=
  let n := (w.sh.readS a).toNat
  if n ≥ w.blk.nbars then s.trap w 0x09A
  else if needInit && !(w.blk.bar n).init then s.trap w 0x092
  else k n (w.blk.bar n)

/-- The expectation word's fields (R156). -/
def expectBad (v : Nat) : Bool :=
  bitsOf v 63 48 != 0 || bitsOf v 23 10 != 0 || (bitsOf v 9 0 == 0 && bitsOf v 47 24 == 0)

/-- The object as BINIT leaves it; PHASE keeps its value (R142, R156). -/
def Barrier.expect (o : Barrier) (v : Nat) : Barrier :=
  { o with landed := 0, arrived := 0, ova := false, ovb := false, init := true, expBytes := bitsOf v 47 24,
           expArr := bitsOf v 9 0 }

/-- BINIT (R156): object, word and range are checked before any effect; a range of length 0 lies within any store (DEDUCED,
log 19). -/
def execBinit (d a b : SReg) (s : State) : Host.Outcome State Fault Refusal :=
  onCur s fun w => s.onBar w a false fun n o =>
    let v := (w.sh.readS b).toNat
    let r := (w.sh.readS d).toNat
    let off := r % 2 ^ 32
    let len := r / 2 ^ 32
    if expectBad v then s.trap w 0x0B3
    else if d != 0 && len != 0 && off + len > w.blk.a.bytes then s.raise w { cause := 0x085, tmask := 1, addr := off }
    else
      let s1 := if d != 0 then s.markEmpty w.b false (granules off len) else s
      (s1.setBar w.b n (o.expect v).check.1 (o.expect v).check.2).complete w id

/-- BEXPECT (R156). -/
def execBexpect (a b : SReg) (s : State) : Host.Outcome State Fault Refusal :=
  onCur s fun w => s.onBar w a true fun n o =>
    let v := (w.sh.readS b).toNat
    let o1 := { o with expBytes := bitsOf v 47 24, expArr := bitsOf v 9 0 }
    if expectBad v || bitsOf v 9 0 < o.arrived then s.trap w 0x0B3
    else (s.setBar w.b n o1.check.1 o1.check.2).complete w id

/-- Peer packets of a shuttle's streams that are not yet applied (R224). -/
def State.streamPeers (s : State) (h : Nat) : Bool := s.peers.any fun p => p.h == h && p.copy.isNone

/-- BARRIVE (R157, R143): it waits until the shuttle's peer stores are applied; its other accesses are performed at .core
when they are made (R256). An overflow sets OVA and counts nothing, a count above 1023 too, which passes every EXPARR (log
80). -/
def execBarrive (a b : SReg) (s : State) : Host.Outcome State Fault Refusal :=
  onCur s fun w => s.onBar w a true fun n o =>
    let k := if b = 0 then 8 else (w.sh.readS b).toNat
    if s.streamPeers w.h then s.waits w .memory
    else
      match o.arrive k with
      | .error o1 => (s.setBar w.b n o1 false).trap w 0x0A3
      | .ok (o1, done) => (s.setBar w.b n o1 done).complete w id

/-- BWAIT (R158, R144): completes when PHASE differs from the parity, or when a phase that it stood at has completed. -/
def execBwait (a b : SReg) (s : State) : Host.Outcome State Fault Refusal :=
  onCur s fun w => s.onBar w a true fun n o =>
    if o.phase != (w.sh.readS b).getLsbD 0 || w.sh.wait == .woken then s.complete w id else s.waits w (.barrier n)

/-- The result word of BTEST (R158). -/
def Barrier.result (o : Barrier) (p : Bool) : Nat :=
  o.landed * 2 ^ 32 + bitNat o.init * 2 ^ 22 + bitNat o.ovb * 2 ^ 21 + bitNat o.ova * 2 ^ 20 + o.arrived * 2 ^ 10 +
    bitNat o.phase * 2 + bitNat (o.phase != p)

/-- BTEST never waits (R158). -/
def execBtest (d a b : SReg) (s : State) : Host.Outcome State Fault Refusal :=
  onCur s fun w => s.onBar w a true fun _ o =>
    s.complete w (·.writeS d (BitVec.ofNat 64 (o.result ((w.sh.readS b).getLsbD 0))))

/-- EMPTY (R159): offset and length are whole .n64 values. -/
def execEmpty (ws : Bool) (a b : SReg) (s : State) : Host.Outcome State Fault Refusal :=
  onCur s fun w =>
    let off := (w.sh.readS a).toNat
    let len := (w.sh.readS b).toNat
    if len = 0 then s.complete w id
    else if off + len > (w.blk.store ws).bytes then s.raise w { cause := 0x085, tmask := 1, addr := off }
    else (s.markEmpty w.b ws (granules off len)).complete w id

/-! ## GBAR -/

/-- The participants of an instance that opens: the shuttles that are not draining in the grid's resident blocks of the
quad or die (R160). -/
def State.participants (s : State) (blk : Block) (die : Bool) : List Nat :=
  (s.shuttles.filter fun e =>
    e.2.status == .running &&
      match s.blk? (blockOf e.1) with
      | some k => k.status == .resident && k.launch == blk.launch && k.supervisor == blk.supervisor &&
          (if die then k.site == blk.site else k.quadKey == blk.quadKey)
      | none => false).map (·.1)

/-- GBAR (R160): the first arrival opens an instance; a participant arrives once; others wait for the next instance. One whose
arrival a capture kept does not arrive again (R112). -/
def execGbar (die : Bool) (id : Fin 16) (s : State) : Host.Outcome State Fault Refusal :=
  onCur s fun w =>
    let key := if die then w.blk.site else w.blk.quadKey
    if s.arrivedAt die id w.h then s.waits w .gbar
    else match s.gbarOf die key id with
    | none =>
      ((s.setGbar die key id (some { grid := w.blk.launch, parts := s.participants w.blk die, arrived := [w.h] })).waits
        w .gbar).gbarCheck die key id
    | some i =>
      if i.parts.contains w.h then
        ((s.setGbar die key id (some { i with arrived := i.arrived ++ [w.h] })).waits w .gbar).gbarCheck die key id
      else s.waits w .gbar

end Sys2Proof.Machine
end

