-- ==== Sys2Proof/Machine/Tensor.lean ====
section
/-! DEFINITION. Tensor identifier entries (R145 to R148, R380), their elements in memory, and TDEF (R161). -/

namespace Sys2Proof.Machine

/-- An entry is a 512-bit number (R145 Table 7). -/
abbrev Entry := Nat

def Entry.valid (e : Entry) : Bool := bitsOf e 463 463 == 1
def Entry.t0 (e : Entry) : Nat := bitsOf e 479 464
def Entry.t1 (e : Entry) : Nat := bitsOf e 495 480
def Entry.scale (e : Entry) : Bool := bitsOf e 458 458 == 1
def Entry.bounds (e : Entry) : Nat := bitsOf e 457 456
def Entry.spec (e : Entry) : Bool := bitsOf e 455 455 == 1
def Entry.ndim (e : Entry) : Nat := bitsOf e 454 453
def Entry.fmt (e : Entry) : Nat := bitsOf e 452 448
/-- Byte stride of dimension 1 to 3, as .s64. -/
def Entry.stride (e : Entry) (k : Nat) : Int := toSigned 64 (e / 2 ^ (192 + 64 * k))
def Entry.size (e : Entry) (k : Nat) : Nat := e / 2 ^ (128 + 32 * k) % 2 ^ 32
def Entry.scaleBase (e : Entry) : Nat := bitsOf e 120 64
def Entry.base (e : Entry) : Nat := bitsOf e 56 0

/-- Width in bits of format code 0 to 11 (R33, R52). -/
def fmtWidth : Nat → Nat
  | 0 => 8 | 1 => 16 | 2 => 32 | 3 => 8 | 4 => 16 | 5 => 32 | 6 => 32 | 7 => 16 | 8 => 16 | 9 => 8 | 10 => 8 | 11 => 4
  | _ => 0
def Entry.width (e : Entry) : Nat := fmtWidth e.fmt

/-- Least and greatest contribution of dimension `k` to an address. -/
def Entry.reach (e : Entry) (k : Nat) : Int × Int :=
  let far := e.stride k * ((e.size k - 1 : Nat) : Int)
  if k > e.ndim then (0, 0) else if far < 0 then (far, 0) else (0, far)

/-- The entry's checks of R146; a tile extent of zero is no extent (R145). -/
def Entry.ok (e : Entry) : Bool :=
  let used (k : Nat) : Bool := k ≤ e.ndim
  let isE2m1 := e.fmt == 11
  let lo := (e.base : Int) + (e.reach 1).1 + (e.reach 2).1 + (e.reach 3).1
  let hi := (e.base : Int) + ((e.size 0 - 1) * e.width / 8 : Nat) + (e.reach 1).2 + (e.reach 2).2 + (e.reach 3).2
  let rows := ((range 1 3).map fun k => if used k then e.size k else 1).foldl (· * ·) 1
  bitsOf e 511 496 == 0 && bitsOf e 127 121 == 0 && bitsOf e 63 57 == 0 && e.fmt ≤ 11 && bitsOf e 462 459 == 5 &&
    e.bounds != 3 &&
    ((range 0 4).all fun k => if used k then e.size k ≥ 1 else e.size k == 0 && (k == 0 || e.stride k == 0)) &&
    e.base % 16 == 0 && ((range 1 3).all fun k => !used k || (e.stride k != 0 && e.stride k % 16 == 0)) &&
    (!isE2m1 || (e.size 0 % 2 == 0 && e.t0 % 2 == 0)) && e.t0 ≥ 1 && e.t1 ≥ 1 && e.t0 * e.width % 128 == 0 &&
    (!e.scale || ((isE2m1 || e.fmt == 9 || e.fmt == 10) && e.size 0 % 32 == 0 && e.scaleBase % 4 == 0)) &&
    (!isE2m1 || e.scale) && (!e.spec || isE2m1) && decide (0 ≤ lo) && decide (hi < 2 ^ 57) &&
    (!e.scale || e.scaleBase + 4 * (e.size 0 / 32 * rows) ≤ 2 ^ 57)

/-- The coordinate `k` of a tile: 16 bits each from the lowest (R168). -/
def coord (c k : Nat) : Nat := c / 2 ^ (16 * k) % 65536

/-- The extent of a dimension for the bounds test, the clamp and the scale plane (R147). DESIGN CHOICE (log 89): a dimension
above NDIM, whose SIZEk is 0 (R146), counts as one of extent 1. -/
def Entry.extent (e : Entry) (k : Nat) : Nat := if k ≤ e.ndim then e.size k else 1

/-- An index under BOUNDS: itself, the clamped one, or none (R147). DESIGN CHOICE (log 89) for a dimension above NDIM. -/
def Entry.index (e : Entry) (k i : Nat) : Option Nat :=
  if i < e.extent k then some i else if e.bounds == 2 then some (e.extent k - 1) else none

/-- The byte address of an element; .e2m1 elements share a byte by R55 (R147). -/
def Entry.addr (e : Entry) (i0 i1 i2 i3 : Nat) : Nat :=
  ((e.base : Int) + (i0 * e.width / 8 : Nat) + i1 * e.stride 1 + i2 * e.stride 2 + i3 * e.stride 3).toNat

/-- The address of a scale entry (R147). -/
def Entry.scaleAddr (e : Entry) (i0 i1 i2 i3 : Nat) : Nat :=
  e.scaleBase + 4 * (i0 / 32 + (e.extent 0 / 32) * (i1 + e.extent 1 * (i2 + e.extent 2 * i3)))

/-- Some element of a tile of `n0` by `n1` elements at these first indices is out of bounds (R147). -/
def Entry.outside (e : Entry) (i0 i1 i2 i3 n0 n1 : Nat) : Bool :=
  i0 + n0 > e.extent 0 || i1 + n1 > e.extent 1 || i2 ≥ e.extent 2 || i3 ≥ e.extent 3

/-- What one byte of a tensor's row means to a copy or a fetch: the address to read or write, or out of bounds. A byte
of .e2m1 holds two elements, which lie together (R55, R146). `r` is the row's dimension-1 index. -/
def Entry.byteAt (e : Entry) (i0byte i1 i2 i3 : Nat) : Option Nat :=
  let w := e.width
  let el := i0byte * 8 / w
  match e.index 0 el, e.index 1 i1, e.index 2 i2, e.index 3 i3 with
  | some j0, some j1, some j2, some j3 => some (e.addr j0 j1 j2 j3 + (if w > 8 then i0byte % (w / 8) else 0))
  | _, _, _, _ => none

/-- A byte of a tensor's row as a reader gets it: code 0 where it is out of bounds under BOUNDS 1; a clamped byte of
.e2m1 holds the last element twice (R147, R55). -/
def Entry.rowByte (e : Entry) (rd : Nat → Byte) (i0byte i1 i2 i3 : Nat) : Byte :=
  match e.byteAt i0byte i1 i2 i3 with
  | none => 0
  | some a =>
    if e.width == 4 && i0byte * 2 ≥ e.size 0 then (rd a >>> 4) ||| (rd a &&& 0xF0) else rd a

/-- Where a writer puts a byte of a tensor's row: nowhere when it is out of bounds (R147). -/
def Entry.writeAt (e : Entry) (i0byte i1 i2 i3 : Nat) : Option Nat :=
  if e.outside (i0byte * 8 / e.width) i1 i2 i3 1 1 then none else e.byteAt i0byte i1 i2 i3

/-- The address of the scale entry of the block at `i0`, or none where it reads as scale 1 (R380). A block lies wholly
in bounds or wholly out. -/
def Entry.scaleAt (e : Entry) (i0 i1 i2 i3 : Nat) : Option Nat :=
  match e.index 0 i0, e.index 1 i1, e.index 2 i2, e.index 3 i3 with
  | some j0, some j1, some j2, some j3 => some (e.scaleAddr j0 j1 j2 j3)
  | _, _, _, _ => none

/-- The scale entry that a block out of bounds reads as under BOUNDS 1 (R380). -/
def unitScale : Nat := 0x3F800000

/-- The physical address of a context's entry `n` (R145, R317). -/
def State.entryPa (s : State) (ctx n : Nat) : Option Nat := (s.ctx? ctx).map fun c => c.ttab + 64 * n

/-- The entry of an identifier as an engine command of a core reads it at issue (R148). -/
def State.readEntry (s : State) (blk : Block) (n : Nat) : Entry :=
  match s.entryPa blk.ctx n with
  | some pa => leNat (s.view blk.site blk.core pa 64)
  | none => 0

/-- Why the entry of an identifier cannot be read at issue, if it cannot: its far tier is lost, or its line is poisoned or
uncorrectable (R295, R297). -/
def State.entryBad (s : State) (blk : Block) (n : Nat) : Option Nat :=
  match s.entryPa blk.ctx n with
  | some pa => if s.farGone pa then some 0x1CD else if s.hitsBad blk.site blk.core pa 64 then some 0x075 else none
  | none => none

/-- Uncorrectable lines of entries that are found are poisoned (R295). -/
def State.findEntries (s : State) (ctx : Nat) (ns : List Nat) : State :=
  s.findBad (ns.filterMap fun n => (s.entryPa ctx n).map (· / 64))

/-- TDEF (R161): an accepted entry is written through with VALID = 1; a rejected one leaves tn invalid. -/
def execTdef (n : Fin 1024) (a : SReg) (s : State) : Host.Outcome State Fault Refusal :=
  onCur s fun w =>
    let va := (w.sh.readS a).toNat
    s.accessRead w false 64 va fun _ bs =>
      let e := leNat bs
      match s.entryPa w.blk.ctx n with
      | none => s.raise w { cause := 0x045, tmask := 1, addr := va }
      | some pa =>
        if s.farGone pa then s.raise w { cause := 0x1CD, tmask := 1, addr := va } else
        let put (cells : List Host.Cell) : State :=
          s.post { mkPosted w.h w.blk w.sh.pc.toNat va 1 none false with line := pa / 64, cells := cells }
        if Entry.ok e then
          (put (cellsFrom pa (leBytes 64 (e - bitNat (Entry.valid e) * 2 ^ 463 + 2 ^ 463)))).complete w id
        else
          (put [(pa + 57, (s.viewByte w.blk.site w.blk.core (pa + 57)) &&& 0x7F)]).raise w { cause := 0x0C6 }

end Sys2Proof.Machine
end

