-- ==== Sys2Proof/Machine/CopyCmd.lean ====
section
/-! DEFINITION. Copy commands at issue (R162 to R170), the matrix operands that CPYM and MMA check (R175 to R178), and
the moves between a store and the accumulators (R172). -/

namespace Sys2Proof.Machine

/-- The outcome of checks at issue: a value, the first failing check's trap, or pages to wait for. -/
inductive Judged (α : Type)
  | ok (x : α)
  | trap (r : TrapRec)
  | wait (pages : List Nat)

def Judged.bind {α β : Type} (j : Judged α) (k : α → Judged β) : Judged β :=
  match j with
  | .ok x => k x
  | .trap r => .trap r
  | .wait p => .wait p

/-- TMASK of a trap at issue (R339): bit 0 for the check of an address that the instruction names, by its cause of class 1
or 2 with slot 5 (DEDUCED, log 29). -/
def accessMask (cause : Nat) : Nat := bitNat ((cause / 64 == 1 || cause / 64 == 2) && cause % 8 == 5)

/-- A check: the trap when it fails. -/
def need (good : Bool) (cause : Nat) (addr : Nat := 0) : Judged Unit :=
  if good then .ok () else .trap { cause := cause, tmask := accessMask cause, addr := addr }

/-- An instruction with checks at issue: traps, waits on the fault queue, or goes on. -/
def State.judged {α : Type} (s : State) (w : Who) (j : Judged α) (k : α → State) : State :=
  match j with
  | .ok x => k x
  | .trap r => s.raise w r
  | .wait ps => s.waitsOn w ps

/-- The same for one whose checks read tensor entries: those found uncorrectable are poisoned (R295). -/
def State.judgedEntries {α : Type} (s : State) (w : Who) (tids : List Nat) (j : Judged α) (k : α → State) : State :=
  match j with
  | .trap r => (if r.cause = 0x075 then s.findEntries w.blk.ctx tids else s).raise w r
  | .ok x => k x
  | .wait ps => s.waitsOn w ps

/-- The check that an entry can be read: `bad` gives the cause where it cannot (R295, R297). -/
def readable (bad : Nat → Option Nat) (n : Nat) : Judged Unit :=
  match bad n with
  | some c => .trap { cause := c, tmask := 1 }
  | none => .ok ()

/-- The pages of a range, by number. -/
def pagesOf (va len : Nat) : List Nat :=
  if len = 0 then [] else range (va / 65536) ((va + len - 1) / 65536 - va / 65536 + 1)

/-- The translations of pages (R163). -/
def State.pinsOf (s : State) (site ctx : Nat) (ps : List Nat) : List TlbEntry :=
  ps.flatMap fun p => pinOf ctx p (s.translate site ctx (65536 * p))

/-- The page probe of a range (R163): the translation faults with slot 5, then the translations to pin. -/
def State.probe (s : State) (w : Who) (write : Bool) (va len : Nat) : Judged (List TlbEntry) :=
  let ps := pagesOf va len
  match s.check w.blk.site w.blk.ctx w.sh.fatalPages write 5 1 (ps.map fun p => (0, max va (65536 * p))) with
  | .trap c _ a => .trap { cause := c, tmask := accessMask c, addr := a }
  | .wait q => .wait q
  | .go _ => .ok (s.pinsOf w.blk.site w.blk.ctx ps)

/-- The probes of several ranges, in order. -/
def State.probeAll (s : State) (w : Who) (write : Bool) : List (Nat × Nat) → Judged (List TlbEntry)
  | [] => .ok []
  | (va, n) :: t => (s.probe w write va n).bind fun ps => (State.probeAll s w write t).bind fun qs => .ok (distinct (ps ++ qs))

/-- A barrier named by a command, unless NOBAR: beyond the allotment, then not initialised (R163, R241, R366). -/
def checkBar (blk : Block) (nobar : Bool) (bar slot : Nat) : Judged (Option Nat) :=
  if nobar then .ok none
  else (need (bar < blk.nbars) (0x098 + slot)).bind fun _ =>
    (need (blk.bar bar).init (0x090 + slot)).bind fun _ => .ok (some bar)

/-- A copy address word (R164). -/
def addrWordBad (isLocal : Bool) (v : Nat) : Bool := if isLocal then v ≥ 2 ^ 32 else v ≥ 2 ^ 57

/-- A command without its particulars. -/
def mkCopy (s : State) (w : Who) (m : CopyMods) (kind : CopyKind) : Copy :=
  { id := s.nextId, h := w.h, block := w.b, ipc := w.sh.pc.toNat, kind := kind, acq := if m.acq then some m.scope else none,
    rel := if m.rel then some m.scope else none, src := .g, srcAddr := 0, dst := .a, dstAddr := 0, len := 0, bar := none,
    entry := 0, coords := 0, scl := false, out := false, rows := [], rowb := 0, inFlight := false, done := 0, ahead := [],
    written := false, follow := none, seq := none, pins := [], pages := [], fatal := [] }

/-! ## CPY -/

/-- The legal pairs of source and destination space codes (R165). -/
def pairOk (ss ds : Nat) : Bool :=
  (ss == 0 && (ds == 1 || ds == 2)) || (ss == 1 && (ds == 0 || ds == 1 || ds == 3)) || (ss == 3 && ds == 1)

/-- One end of a CPY: alignment (check 7), then the region (check 8). -/
def endAligned (sp addr : Nat) : Judged Unit := need (addr % 16 == 0) (if sp == 0 then 0x04D else 0x08D) addr
def endInside (blk : Block) (sp addr len : Nat) : Judged Unit :=
  match sp with
  | 1 => need (addr + len ≤ blk.a.bytes) 0x085 addr
  | 2 => need (addr + len ≤ blk.w.bytes) 0x085 addr
  | _ => .ok ()

/-- A peer end (check 9): the window checks of R222, then the member's region. -/
def State.endSpace (s : State) (w : Who) (sp peer addr len : Nat) : Judged CSpace :=
  match sp with
  | 0 => .ok .g
  | 1 => .ok .a
  | 2 => .ok .w
  | _ =>
    match s.peerCheck w.blk w.b peer with
    | .error c => .trap { cause := c, addr := addr }
    | .ok m => (need (addr + len ≤ m.size) 0x085 addr).bind fun _ => .ok (.peer m.block m.tenancy)

/-- The checks of CPY (R163, R165). -/
def State.judgeCpy (s : State) (w : Who) (d a b : Nat) (m : CopyMods) : Judged Copy :=
  let ss := bitsOf b 40 38
  let ds := bitsOf b 35 33
  let len := bitsOf b 23 0
  let bad : Bool := bitsOf b 63 43 != 0 || !pairOk ss ds || (ss != 3 && bitsOf b 42 41 != 0) ||
    (ds != 3 && bitsOf b 37 36 != 0) || len == 0 || len % 16 != 0
  (need (!bad) 0x0BB).bind fun _ =>
  (need (!addrWordBad (ds != 0) d) 0x0B9).bind fun _ =>
  (need (!addrWordBad (ss != 0) a) 0x0BA).bind fun _ =>
  (if ds == 3 then .ok (if bitsOf b 32 32 == 1 then none else some (bitsOf b 31 24))
    else checkBar w.blk (bitsOf b 32 32 == 1) (bitsOf b 31 24) 3).bind fun bar =>
  (endAligned ds d).bind fun _ =>
  (endAligned ss a).bind fun _ =>
  (endInside w.blk ds d len).bind fun _ =>
  (endInside w.blk ss a len).bind fun _ =>
  (s.endSpace w ds (bitsOf b 37 36) d len).bind fun dst =>
  (s.endSpace w ss (bitsOf b 42 41) a len).bind fun src =>
  (if ss == 0 then s.probe w false a len else if ds == 0 then s.probe w true d len else .ok []).bind fun ps =>
  .ok { mkCopy s w m .linear with src := src, srcAddr := a, dst := dst, dstAddr := d, len := len, bar := bar, pins := ps }

/-! ## CPYT and CPYG -/

/-- The transfer size of a tensor copy: data, and the padded scale area (R168). -/
def tileBytes (e : Entry) (scl : Bool) : Nat :=
  e.t1 * (e.t0 * e.width / 8) + (if scl then (4 * (e.t1 * (e.t0 / 32)) + 15) / 16 * 16 else 0)

/-- The addresses that a row of a tile reads or writes: the first and the number of bytes, none where all is out of
bounds and nothing is read. A row past the last element reads that element's bytes (R147). -/
def rowSpan (e : Entry) (write : Bool) (b0 n i1 i2 i3 : Nat) : List (Nat × Nat) :=
  let rowEnd := e.size 0 * e.width / 8
  let last := if b0 ≥ rowEnd then b0 + max 1 (e.width / 8) - 1 else min (b0 + n) rowEnd - 1
  if write && (e.writeAt b0 i1 i2 i3).isNone then []
  else
    match e.byteAt b0 i1 i2 i3, e.byteAt last i1 i2 i3 with
    | some lo, some hi => [(lo, hi - lo + 1)]
    | _, _ => []

/-- The addresses of a row's scale entries; a writer drops those of blocks out of bounds (R147). -/
def scaleSpan (e : Entry) (write : Bool) (i0 n i1 i2 i3 : Nat) : List (Nat × Nat) :=
  (range 0 n).filterMap fun j =>
    if write && e.outside (i0 + 32 * j) i1 i2 i3 1 1 then none else (e.scaleAt (i0 + 32 * j) i1 i2 i3).map fun a => (a, 4)

/-- Every global range that a tile touches. -/
def tileSpans (e : Entry) (coords : Nat) (scl write : Bool) : List (Nat × Nat) :=
  let i0 := coord coords 0 * e.t0
  (range 0 e.t1).flatMap fun r =>
    let i1 := coord coords 1 * e.t1 + r
    rowSpan e write (i0 * e.width / 8) (e.t0 * e.width / 8) i1 (coord coords 2) (coord coords 3) ++
      (if scl then scaleSpan e write i0 (e.t0 / 32) i1 (coord coords 2) (coord coords 3) else [])

/-- The checks of CPYT and of CPYM's copy (R163, R168). -/
def State.judgeCpyt (s : State) (w : Who) (d a b : Nat) (m : CopyMods) : Judged Copy :=
  let lsp := bitsOf a 12 11
  let out : Bool := bitsOf a 10 10 == 1
  let scl : Bool := bitsOf a 13 13 == 1
  let e := s.readEntry w.blk (bitsOf a 9 0)
  let bad : Bool := bitsOf a 63 33 != 0 || bitsOf a 23 14 != 0 || !(lsp == 1 || (lsp == 2 && !out))
  let len := tileBytes e scl
  (need (!bad) 0x0BA).bind fun _ =>
  (need (!addrWordBad true d) 0x0B9).bind fun _ =>
  (checkBar w.blk (bitsOf a 32 32 == 1) (bitsOf a 31 24) 2).bind fun bar =>
  (readable (s.entryBad w.blk) (bitsOf a 9 0)).bind fun _ =>
  (need (Entry.valid e) 0x0C6).bind fun _ =>
  (need (!(scl && (!Entry.scale e || Entry.t0 e % 32 != 0)) && len ≤ 2 ^ 24 - 16) 0x0BA).bind fun _ =>
  (need (!(Entry.bounds e == 0 && Entry.outside e (coord b 0 * Entry.t0 e) (coord b 1 * Entry.t1 e) (coord b 2) (coord b 3)
    (Entry.t0 e) (Entry.t1 e))) 0x0CE).bind fun _ =>
  (need (d % 16 == 0) 0x08D d).bind fun _ =>
  (need (d + len ≤ (w.blk.store (lsp == 2)).bytes) 0x085 d).bind fun _ =>
  (s.probeAll w out (tileSpans e b scl out)).bind fun ps =>
  let sp : CSpace := if lsp == 2 then .w else .a
  .ok { mkCopy s w m .tensor with
        src := if out then sp else .g, srcAddr := if out then d else 0, dst := if out then .g else sp,
        dstAddr := if out then 0 else d, len := len, bar := bar, entry := e, coords := b, scl := scl, out := out,
        pins := ps }

/-- The checks of CPYG (R163, R169): the list is read at .core when it lies within the store; a source at or above 2^57
is malformed (log 18). -/
def State.judgeCpyg (s : State) (w : Who) (d a b : Nat) (m : CopyMods) : Judged Copy :=
  let rowb := bitsOf b 33 26
  let count := bitsOf b 25 14
  let list := 16 * bitsOf b 13 0
  let inside : Bool := list + 4 * count ≤ w.blk.a.bytes
  let rows := if inside then (range 0 count).map fun i => leNat (w.blk.a.readN (list + 4 * i) 4) else []
  let high : Bool := rows.any fun r => a + 16 * r + 16 * rowb > 2 ^ 57
  (need (!(bitsOf b 63 43 != 0 || rowb == 0 || count == 0)) 0x0BB).bind fun _ =>
  (need (!addrWordBad true d) 0x0B9).bind fun _ =>
  (need (!addrWordBad false a && !high) 0x0BA).bind fun _ =>
  (checkBar w.blk (bitsOf b 42 42 == 1) (bitsOf b 41 34) 3).bind fun bar =>
  (need (d % 16 == 0) 0x08D d).bind fun _ =>
  (need (a % 16 == 0) 0x04D a).bind fun _ =>
  (need inside 0x085 list).bind fun _ =>
  (need (d + 16 * rowb * count ≤ w.blk.a.bytes) 0x085 d).bind fun _ =>
  (s.probeAll w false (rows.map fun r => (a + 16 * r, 16 * rowb))).bind fun ps =>
  .ok { mkCopy s w m .gather with
        srcAddr := a, dstAddr := d, len := 16 * rowb * count, bar := bar, rows := rows, rowb := rowb, pins := ps }

/-! ## Acceptance (R149, R150) -/

/-- The engine accepts a command only while no reserved slot is occupied and the queue has a free entry; a refused one
waits in the shuttle's slot. `n` is how far the control stream moves on. -/
def State.issueCopy (s : State) (w : Who) (k : Copy) (n : W64) : State :=
  let c := s.core w.coreKey
  let s1 := { s with nextId := s.nextId + 1 }
  if c.copyQ.length < 16 && c.copySlots.isEmpty then
    (s1.updCore w.coreKey fun c => { c with copyQ := c.copyQ ++ [k] }).updSh w.h fun sh =>
      { sh.advance with pc := sh.pc + n }
  else (s1.updCore w.coreKey fun c => { c with copySlots := c.copySlots ++ [k] }).waits w .slot

/-- A command that already waits in the shuttle's slot goes on waiting. -/
def State.unlessSlot (s : State) (w : Who) (k : State) : State := if w.sh.wait == .slot then s else k

def execCpy (d a b : SReg) (m : CopyMods) (s : State) : Host.Outcome State Fault Refusal :=
  onCur s fun w => s.unlessSlot w (s.judged w
    (s.judgeCpy w (w.sh.readS d).toNat (w.sh.readS a).toNat (w.sh.readS b).toNat m) fun k => s.issueCopy w k 4)

def execCpyt (d a b : SReg) (m : CopyMods) (s : State) : Host.Outcome State Fault Refusal :=
  onCur s fun w => s.unlessSlot w (s.judgedEntries w [(w.sh.readS a).toNat % 1024]
    (s.judgeCpyt w (w.sh.readS d).toNat (w.sh.readS a).toNat (w.sh.readS b).toNat m) fun k => s.issueCopy w k 4)

def execCpyg (d a b : SReg) (m : CopyMods) (s : State) : Host.Outcome State Fault Refusal :=
  onCur s fun w => s.unlessSlot w (s.judged w
    (s.judgeCpyg w (w.sh.readS d).toNat (w.sh.readS a).toNat (w.sh.readS b).toNat m) fun k => s.issueCopy w k 4)

/-! ## Matrix operands at issue (R175, R176, R178) -/

/-- The format's entry code (R178 check 3). -/
def mmaFmtCode : MmaFmt → Nat
  | .e2m1 => 11 | .e4m3 => 9 | .e5m2 => 10 | .bf16 => 8 | .f16 => 7 | .s8 => 0

/-- Element width, K and the number of scale blocks of a format (R173). -/
def mmaWidth : MmaFmt → Nat
  | .e2m1 => 4 | .e4m3 | .e5m2 | .s8 => 8 | .bf16 | .f16 => 16
def mmaK (f : MmaFmt) : Nat := 384 * 8 / mmaWidth f
def mmaBlocks (f : MmaFmt) : Nat := mmaK f / 32

/-- An operand word's fields (R175 Tables 2 and 3). -/
def opTid (w : Nat) : Nat := bitsOf w 63 54
def opOffset (w : Nat) : Nat := bitsOf w 31 0
/-- The coordinates of a tensor tile word as four 16-bit fields. -/
def opCoords (w : Nat) : Nat :=
  bitsOf w 15 0 + 2 ^ 16 * bitsOf w 31 16 + 2 ^ 32 * bitsOf w 45 32 + 2 ^ 48 * bitsOf w 53 46

/-- A coordinate of a dimension above NDIM is non-zero (R176). -/
def coordsAbove (e : Entry) (c : Nat) : Bool := (range 0 4).any fun k => k > Entry.ndim e && coord c k != 0

/-- The checks of R178 Table 4, operand a before operand b at each step; `bad`: why the line of an entry cannot be read
(R295, R297). -/
def judgeOperands (bad : Nat → Option Nat) (blk : Block) (f : MmaFmt) (a b : MatOperand) : Judged Unit :=
  let both (chk : MatOperand → Nat → Judged Unit) : Judged Unit := (chk a 2).bind fun _ => chk b 3
  (both fun o slot => need (o.tensor || bitsOf o.word 53 32 == 0) (0x0D0 + slot)).bind fun _ =>
  (both fun o _ => readable bad (opTid o.word)).bind fun _ =>
  (both fun o _ => need (Entry.valid o.entry) 0x0C6).bind fun _ =>
  (both fun o slot => need (Entry.fmt o.entry == mmaFmtCode f) (0x0D0 + slot)).bind fun _ =>
  (both fun o slot => need (!o.tensor || (Entry.t1 o.entry == 32 && Entry.t0 o.entry * Entry.width o.entry / 8 == 384 &&
    !coordsAbove o.entry (opCoords o.word))) (0x0D0 + slot)).bind fun _ =>
  (both fun o _ => need (!(o.tensor && Entry.bounds o.entry == 0 &&
    Entry.outside o.entry (coord (opCoords o.word) 0 * Entry.t0 o.entry) (32 * coord (opCoords o.word) 1)
      (coord (opCoords o.word) 2) (coord (opCoords o.word) 3) (Entry.t0 o.entry) 32)) 0x0CE).bind fun _ =>
  (both fun o _ => need (o.tensor || opOffset o.word % 16 == 0) 0x08D (opOffset o.word)).bind fun _ =>
  both fun o slot => need (o.tensor || opOffset o.word + opBytes f (Entry.scale o.entry) ≤
    (blk.store (slot == 3)).bytes) 0x085 (opOffset o.word)

/-- An operand with its entry copy (R148). -/
def State.operand (s : State) (blk : Block) (word : Nat) (tensor : Bool) : MatOperand :=
  { word := word, entry := s.readEntry blk (opTid word), tensor := tensor }

/-- A matrix operation of a shuttle. -/
def mkMat (s : State) (w : Who) (ipc tile : Nat) (f : MmaFmt) (a b : MatOperand) : MatOp :=
  { id := s.nextId, h := w.h, block := w.b, ipc := ipc, tile := tile, fmt := f, a := a, b := b, fetched := 0, rows := [],
    part := [], pages := [], fatal := [], computed := false, gemm := none }

/-- A kernel declares the features of a word (R47). -/
def declares (blk : Block) (feat : Nat) : Bool := feat &&& blk.kern.feat == feat

/-- CPYM's follow-on (R170): any word but a legal MMA of the kernel makes the CPYM illegal. The tile, the format and the
operands that a legal one names. -/
def State.followWord (s : State) (w : Who) : Judged (Nat × MmaFmt × MatOperand × MatOperand) :=
  let next : Who := { w with sh := { w.sh with pc := w.sh.pc + 4 } }
  match s.fetchControl next with
  | .trap c => .trap { cause := c }
  | .swap p => .wait [p]
  | .wait => .wait []
  | .bytes x =>
    if x / 2 ^ 26 != 0x20 then .trap { cause := 0x147 }
    else
      match decodeCtl x with
      | .error slot => .trap { cause := 0x140 + slot }
      | .ok (.mma c a b f aten bten) =>
        (need (c.val < w.blk.kern.ctiles) 0x146).bind fun _ =>
        (need (declares w.blk (Instr.needs (.mma c a b f aten bten))) 0x148).bind fun _ =>
        .ok (c, f, s.operand w.blk (w.sh.readS a).toNat aten, s.operand w.blk (w.sh.readS b).toNat bten)
      | .ok _ => .trap { cause := 0x147 }

/-- The follow-on checked with the CPYM (R170, R178). -/
def State.judgeFollow (s : State) (w : Who) : Judged MatOp :=
  (s.followWord w).bind fun (c, f, oa, ob) =>
    (judgeOperands (s.entryBad w.blk) w.blk f oa ob).bind fun _ => .ok (mkMat s w (w.sh.pc + 4).toNat c f oa ob)

/-- The page of a fetch fault at CPYM's follow-on, for which the block leaves as for any fetch fault (R124, R333). -/
def State.followSwap (s : State) (w : Who) : Option Nat :=
  match s.fetchControl { w with sh := { w.sh with pc := w.sh.pc + 4 } } with
  | .swap p => some p
  | .bytes _ | .trap _ | .wait => none

/-- The entries that a CPYM's checks read: its copy's and its follow-on's. -/
def State.cpymTids (s : State) (w : Who) (a : SReg) : List Nat :=
  (w.sh.readS a).toNat % 1024 :: match s.followWord w with
    | .ok (_, _, oa, ob) => [opTid oa.word, opTid ob.word]
    | .trap _ | .wait _ => []

/-- A check that waits, unless it waits for the follow-on's page. -/
def State.judgedFollow {α : Type} (s : State) (w : Who) (tids : List Nat) (j : Judged α) (k : α → State) : State :=
  match j, s.followSwap w with
  | .wait [p], some q => if p == q then s.fetchSwap w q else s.waitsOn w [p]
  | j, _ => s.judgedEntries w tids j k

/-- CPYM consumes its follow-on: the control stream goes on at pc + 8 (R170). An illegal follow-on traps before the checks
of the copy (R45). -/
def execCpym (d a b : SReg) (m : CopyMods) (s : State) : Host.Outcome State Fault Refusal :=
  onCur s fun w => s.unlessSlot w (s.judgedFollow w (s.cpymTids w a)
    ((s.followWord w).bind fun _ =>
      (s.judgeCpyt w (w.sh.readS d).toNat (w.sh.readS a).toNat (w.sh.readS b).toNat m).bind fun k =>
      (s.judgeFollow w).bind fun o => .ok { k with follow := some { o with id := s.nextId + 1 } })
    fun k => State.issueCopy { s with nextId := s.nextId + 1 } w k 8)

/-! ## The last write (R166) and the follow-on (R170, R216) -/

/-- Every byte is moved, and the writes are performed as far as the command's release asks (R166); a write to a peer is
performed at .quad when the target has applied it (R224). -/
def State.lastWritten (s : State) (k : Copy) : Bool :=
  16 * k.done ≥ k.len &&
    match k.rel with
    | some sc => !(beyondCore sc && s.peers.any fun p => p.copy == some k.id) &&
        !(s.posted.any fun p => p.engine == some k.id && p.notAt sc)
    | none => true

/-- Follow-ons of a core that are due: the copy's last write is performed. The matrix unit's free entries are theirs before
any reserved slot's or new operation's (R216). -/
def State.followsDue (s : State) (c : Nat) : Nat :=
  ((s.core c).copyQ.filter fun k => k.inFlight && k.follow.isSome && s.lastWritten k).length

/-- Free entries of the matrix unit's queue go to the follow-ons that are due, in the order of their copies (R216). -/
def State.takeFollows (s : State) (c : Nat) : State :=
  (s.core c).copyQ.foldl (fun x k =>
    match k.follow with
    | some o =>
      if k.inFlight && x.lastWritten k && (x.core c).matQ.length < 8 then x.updCore c fun q =>
        { q with copyQ := q.copyQ.map fun y => if y.id == k.id then { y with follow := none, written := true } else y
                 matQ := q.matQ ++ [o] }
      else x
    | none => x) s

/-! ## The units of a command -/

/-- The bytes of a row of a tile in a store, and its scale blocks (R168). -/
def Copy.rowLen (k : Copy) : Nat := Entry.t0 k.entry * Entry.width k.entry / 8
def Copy.dataLen (k : Copy) : Nat := Entry.t1 k.entry * k.rowLen
def Copy.blocks (k : Copy) : Nat := Entry.t0 k.entry / 32
/-- The first byte of a tile's rows in the tensor, and the dimension-1 index of a store row. -/
def Copy.byte0 (k : Copy) : Nat := coord k.coords 0 * Entry.t0 k.entry * Entry.width k.entry / 8
def Copy.i1 (k : Copy) (r : Nat) : Nat := coord k.coords 1 * Entry.t1 k.entry + r

/-- Where byte `u` of a tile's image stands in the tensor: an address, a constant byte, or nowhere (R147, R168, R380). -/
inductive Spot
  | addr (a : Nat) (twice : Bool)
  | const (b : Byte)
  | drop
  deriving DecidableEq

/-- The spot of a data or scale byte for a reader, or for a writer. -/
def Copy.spot (k : Copy) (write : Bool) (u : Nat) : Spot :=
  let e := k.entry
  let x2 := coord k.coords 2
  let x3 := coord k.coords 3
  if u < k.dataLen then
    let i0 := k.byte0 + u % k.rowLen
    let i1 := k.i1 (u / k.rowLen)
    if write then (match Entry.writeAt e i0 i1 x2 x3 with | some a => .addr a false | none => .drop)
    else
      match Entry.byteAt e i0 i1 x2 x3 with
      | some a => .addr a (Entry.width e == 4 && i0 * 2 ≥ Entry.size e 0)
      | none => .const 0
  else
    let v := u - k.dataLen
    let n := v / 4
    if n ≥ Entry.t1 e * k.blocks then (if write then .drop else .const 0)
    else
      let i0 := coord k.coords 0 * Entry.t0 e + 32 * (n % k.blocks)
      let i1 := k.i1 (n / k.blocks)
      if write && Entry.outside e i0 i1 x2 x3 1 1 then .drop
      else
        match Entry.scaleAt e i0 i1 x2 x3 with
        | some a => .addr (a + v % 4) false
        | none => if write then .drop else .const (BitVec.ofNat 8 (unitScale / 2 ^ (8 * (v % 4))))

/-- The spots of `n` bytes from byte `u` of the command on, in global memory. -/
def Copy.spots (k : Copy) (write : Bool) (u n : Nat) : List Spot :=
  (range u n).map fun i =>
    match k.kind with
    | .tensor => k.spot write i
    | .linear => .addr ((if write then k.dstAddr else k.srcAddr) + i) false
    | .gather => .addr (k.srcAddr + 16 * k.rows.getD (i / (16 * k.rowb)) 0 + i % (16 * k.rowb)) false

def Spot.addr? : Spot → Option Nat
  | .addr a _ => some a
  | .const _ | .drop => none

/-- The addresses in global memory of some units of a command, and the first on each page of those that are still to move. -/
def Copy.globals (k : Copy) (u n : Nat) : List Nat :=
  if k.src == .g then (k.spots false (16 * u) (16 * n)).filterMap Spot.addr?
  else if k.dst == .g then (k.spots true (16 * u) (16 * n)).filterMap Spot.addr?
  else []
def Copy.remaining (k : Copy) : List Nat :=
  let as := ((range k.done (k.len / 16 - k.done)).filter fun u => !k.ahead.contains u).flatMap fun u => k.globals u 1
  as.foldl (fun l a => if l.any fun b => b / 65536 == a / 65536 then l else l ++ [a]) []

/-- What an address translates to for a command: its pinned translation, or the present one (R163). -/
def State.copyFind (s : State) (blk : Block) (k : Copy) (va : Nat) : Found := s.translateFor k.pins blk.site blk.ctx va

/-- The slot of the engine's faults: 6 for a sequencer's copy, else 7 (R188, R298). -/
def Copy.slot (k : Copy) : Nat := if k.seq.isSome then 6 else 7

/-! ## Failure (R171, R188) -/

/-- The first failure of each step is kept. -/
def firstOf (failed : List (Nat × TrapRec)) (j : Nat) (r : TrapRec) : List (Nat × TrapRec) :=
  if failed.any fun e => e.1 == j then failed else failed ++ [(j, r)]

/-- A sequencer copy's failure is kept for its MGEMM, which stops at the boundary before the step (R188). -/
def seqFailed (id j : Nat) (r : TrapRec) (o : MatOp) : MatOp :=
  match o.gemm with
  | some g => if o.id == id then { o with gemm := some { g with failed := firstOf g.failed j r } } else o
  | none => o

/-- The record of a failed sequencer copy (R181, R188). -/
def seqRecord (o : MatOp) (k : Copy) (cause addr : Nat) : TrapRec :=
  { cause := cause, ipc := o.ipc, tile := some o.tile, opslot := some (if k.dst == .w then 3 else 2),
    tid := some (opTid (if k.dst == .w then o.b else o.a).word, k.coords), addr := addr }

/-- A command stops with a deferred trap of its issuer, without a landing report or follow-on. -/
def State.failCopy (s : State) (c i : Nat) (k : Copy) (cause addr : Nat) : State :=
  let s1 := s.updCore c fun x => { x with copyQ := dropAt x.copyQ i }
  match k.seq with
  | none => s1.defer k.h { cause := cause, addr := addr, ipc := k.ipc }
  | some (id, j) =>
    match (s.core c).matQ.find? (·.id == id) with
    | some o => s1.updCore c fun x => { x with matQ := x.matQ.map (seqFailed id j (seqRecord o k cause addr)) }
    | none => s1

/-! ## Tiles (R172) -/

/-- An accepted operation or an accepted CPYM owns the tile (R170, R179). -/
def State.owned (s : State) (c b tile : Nat) : Bool :=
  let k := s.core c
  (k.matQ.any fun o => o.block == b && o.tile == tile) ||
    k.copyQ.any fun y => match y.follow with | some o => o.block == b && o.tile == tile | none => false

/-- A tile name beyond .ctiles is illegal with slot 6 (R44, R136). -/
def State.onTile (s : State) (w : Who) (c : TileReg) (k : State) : State :=
  if c.val < w.blk.kern.ctiles then k else s.trap w 0x146

/-- The A range of a tile move: alignment, then the region (R172). -/
def State.onTileRange (s : State) (w : Who) (off : Nat) (k : State) : State :=
  if off % 16 != 0 then s.raise w { cause := 0x08D, tmask := 1, addr := off }
  else if off + 4096 > w.blk.a.bytes then s.raise w { cause := 0x085, tmask := 1, addr := off }
  else k

/-- A tile's 4096 bytes, row-major (R134). -/
def tileImage (t : Tile) : List Byte := (range 0 1024).flatMap fun i => leBytes 4 (Tab.getD t i 0).toNat
/-- A tile from its 4096 bytes. -/
def tileOf (bs : List Byte) : Tile :=
  (range 0 1024).filterMap fun i =>
    let v := leNat ((bs.drop (4 * i)).take 4)
    if v = 0 then none else some (i, BitVec.ofNat 32 v)

/-- The tile of a block. -/
def Block.tile (b : Block) (c : Nat) : Tile := Tab.getD b.ctile c []
def State.setTile (s : State) (b c : Nat) (t : Tile) : State :=
  s.updBlk b fun k => { k with ctile := Tab.set k.ctile c t }

def execCmovCToA (c : TileReg) (a : SReg) (s : State) : Host.Outcome State Fault Refusal :=
  onCur s fun w => s.onTile w c (s.onTileRange w (w.sh.readS a).toNat (
    if s.owned w.coreKey w.b c then s.waits w .other
    else (s.writeStore w.b false (w.sh.readS a).toNat (tileImage (w.blk.tile c))).complete w id))

/-- An operation that owns the tile has yet to write it (R172). -/
def State.unwritten (s : State) (c b tile : Nat) : Bool :=
  let k := s.core c
  (k.matQ.any fun o => o.block == b && o.tile == tile && !o.computed) ||
    k.copyQ.any fun y => match y.follow with | some o => o.block == b && o.tile == tile | none => false

/-- Without the wait, the bytes of a tile that an operation has yet to write are unpredictable (R172). -/
def execCmovNowait (c : TileReg) (a : SReg) (s : State) : Host.Outcome State Fault Refusal :=
  onCur s fun w => s.onTile w c (s.onTileRange w (w.sh.readS a).toNat (
    let bs := if s.unwritten w.coreKey w.b c then (range 0 4096).map (Config.freeByte s.tick) else tileImage (w.blk.tile c)
    (s.writeStore w.b false (w.sh.readS a).toNat bs).complete w id))

def execCmovAToC (c : TileReg) (a : SReg) (s : State) : Host.Outcome State Fault Refusal :=
  onCur s fun w => s.onTile w c (s.onTileRange w (w.sh.readS a).toNat (
    if s.owned w.coreKey w.b c then s.waits w .other
    else (s.setTile w.b c (tileOf (w.blk.a.readN (w.sh.readS a).toNat 4096))).complete w id))

def execCzero (c : TileReg) (s : State) : Host.Outcome State Fault Refusal :=
  onCur s fun w => s.onTile w c (
    if s.owned w.coreKey w.b c then s.waits w .other else (s.setTile w.b c []).complete w id)

end Sys2Proof.Machine
end

