-- ==== Sys2Proof/Machine/Numbers.lean ====
section
/-! DEFINITION. Numbers (R49 to R69): decoding the formats, exact arithmetic on signed dyadic numbers, one rounding,
conversions, block scaling and the binomial table. -/

namespace Sys2Proof.Machine

/-! ## Formats -/

/-- The parameters of a floating-point format (R52 Table 2). -/
structure FFmt where
  bits : Nat
  mant : Nat
  bias : Nat
  hasInf : Bool
  maxPat : Nat
  nan : Nat
  deriving DecidableEq, Repr

def fF32 : FFmt := { bits := 32, mant := 23, bias := 127, hasInf := true, maxPat := 0x7F7FFFFF, nan := 0x7FC00000 }
def fF16 : FFmt := { bits := 16, mant := 10, bias := 15, hasInf := true, maxPat := 0x7BFF, nan := 0x7E00 }
def fBf16 : FFmt := { bits := 16, mant := 7, bias := 127, hasInf := true, maxPat := 0x7F7F, nan := 0x7FC0 }
def fE4m3 : FFmt := { bits := 8, mant := 3, bias := 7, hasInf := false, maxPat := 0x7E, nan := 0x7F }
def fE5m2 : FFmt := { bits := 8, mant := 2, bias := 15, hasInf := true, maxPat := 0x7B, nan := 0x7E }
/-- .e2m1 has no NaN: a NaN becomes 0b0000 (R61). -/
def fE2m1 : FFmt := { bits := 4, mant := 1, bias := 1, hasInf := false, maxPat := 7, nan := 0 }

/-- The parameters of a float format code; the integer codes have none. -/
def ffmtOf : Fmt → Option FFmt
  | .f32 => some fF32
  | .f16 => some fF16
  | .bf16 => some fBf16
  | .e4m3 => some fE4m3
  | .e5m2 => some fE5m2
  | .e2m1 => some fE2m1
  | .s8 | .s16 | .s32 | .n8 | .n16 | .n32 => none

/-- An exact value: `fin neg m e` is (-1)^neg · m · 2^e, with the sign of a zero kept. -/
inductive Num
  | nan
  | inf (neg : Bool)
  | fin (neg : Bool) (m : Nat) (e : Int)
  deriving DecidableEq, Repr

/-- Decode (R53, R54). -/
def decodeF (f : FFmt) (w : Nat) : Num :=
  let mag := w % 2 ^ (f.bits - 1)
  let neg : Bool := w / 2 ^ (f.bits - 1) % 2 == 1
  if f.bits == 4 then
    (if w % 16 == 8 then .fin false 0 0
      else if mag / 2 == 0 then .fin neg (mag % 2) (-1)
      else .fin neg (2 + mag % 2) ((mag / 2 : Nat) - 2))
  else if mag > f.maxPat then (if f.hasInf && mag == f.maxPat + 1 then .inf neg else .nan)
  else if mag / 2 ^ f.mant == 0 then .fin neg mag (1 - (f.bias : Int) - f.mant)
  else .fin neg (2 ^ f.mant + mag % 2 ^ f.mant) ((mag / 2 ^ f.mant : Nat) - (f.bias : Int) - f.mant)

/-! ## Exact arithmetic -/

/-- The signed integer of a dyadic at a lower exponent. -/
def atExp (neg : Bool) (m : Nat) (e lo : Int) : Int :=
  let v : Int := (m * 2 ^ (e - lo).toNat : Nat)
  if neg then -v else v

/-- The exact sum; a zero sum of opposite signs is +0, or -0 under rdn (R59). -/
def Num.add (mode : Rnd) : Num → Num → Num
  | .nan, _ => .nan
  | _, .nan => .nan
  | .inf a, .inf b => if a == b then .inf a else .nan
  | .inf a, .fin .. => .inf a
  | .fin .., .inf b => .inf b
  | .fin na ma ea, .fin nb mb eb =>
    let lo := min ea eb
    let v := atExp na ma ea lo + atExp nb mb eb lo
    if v = 0 then .fin (if na == nb then na else mode == .rdn) 0 0 else .fin (decide (v < 0)) v.natAbs lo

def Num.neg : Num → Num
  | .nan => .nan
  | .inf a => .inf (!a)
  | .fin a m e => .fin (!a) m e

/-- The exact product (R59, R62). -/
def Num.mul : Num → Num → Num
  | .nan, _ => .nan
  | _, .nan => .nan
  | .inf a, .inf b => .inf (xor a b)
  | .inf a, .fin b m _ => if m = 0 then .nan else .inf (xor a b)
  | .fin a m _, .inf b => if m = 0 then .nan else .inf (xor a b)
  | .fin a m e, .fin b n f => .fin (xor a b) (m * n) (e + f)

/-- The order of two exact values: none when either is NaN; zeros are equal. -/
def Num.cmp : Num → Num → Option Ordering
  | .nan, _ => none
  | _, .nan => none
  | .inf a, .inf b => some (if a == b then .eq else if a then .lt else .gt)
  | .inf a, .fin .. => some (if a then .lt else .gt)
  | .fin .., .inf b => some (if b then .gt else .lt)
  | .fin a m e, .fin b n f =>
    let lo := min e f
    some (compare (atExp a m e lo) (atExp b n f lo))

/-- A quotient of positive naturals as a dyadic with 66 good bits, the last of which is set when the quotient is not
exact, so that any rounding to fewer bits is that of the exact quotient. -/
def quotient (m n : Nat) (e : Int) : Nat × Int :=
  let k := 66 + n.log2
  let q := m * 2 ^ k / n
  (2 * q + (if m * 2 ^ k % n = 0 then 0 else 1), e - k - 1)

/-- The exact quotient, as far as rounding can tell (R62). -/
def Num.div : Num → Num → Num
  | .nan, _ => .nan
  | _, .nan => .nan
  | .inf _, .inf _ => .nan
  | .inf a, .fin b _ _ => .inf (xor a b)
  | .fin a _ _, .inf b => .fin (xor a b) 0 0
  | .fin a m e, .fin b n f =>
    if n = 0 then (if m = 0 then .nan else .inf (xor a b))
    else if m = 0 then .fin (xor a b) 0 0
    else let (q, x) := quotient m n (e - f); .fin (xor a b) q x

/-- The integer square root, bit by bit from `2^b` down. -/
def isqrtBits (n : Nat) : Nat → Nat → Nat
  | 0, r => r
  | b + 1, r => isqrtBits n b (if (r + 2 ^ b) * (r + 2 ^ b) ≤ n then r + 2 ^ b else r)
def isqrt (n : Nat) : Nat := isqrtBits n (n.log2 / 2 + 1) 0

/-- The square root, as far as rounding can tell: -0 gives -0, a negative number NaN (R62). -/
def Num.sqrt : Num → Num
  | .nan => .nan
  | .inf neg => if neg then .nan else .inf false
  | .fin neg m e =>
    if m = 0 then .fin neg 0 0
    else if neg then .nan
    else
      let (m1, e1) := if e % 2 = 0 then (m, e) else (2 * m, e - 1)
      let k : Nat := 66
      let r := isqrt (m1 * 4 ^ k)
      .fin false (2 * r + (if r * r = m1 * 4 ^ k then 0 else 1)) (e1 / 2 - k - 1)

/-! ## Rounding (R57) -/

/-- Whether the magnitude `n + r/d` (0 ≤ r < d) is rounded up in a mode. -/
def roundsUp (mode : Rnd) (neg : Bool) (n r d : Nat) : Bool :=
  match mode with
  | .rne => 2 * r > d || (2 * r == d && n % 2 == 1)
  | .rtz => false
  | .rdn => neg && r > 0
  | .rup => !neg && r > 0
  | .rna => 2 * r ≥ d

/-- A magnitude m · 2^e rounded to a multiple of 2^q: the multiple. -/
def roundTo (mode : Rnd) (neg : Bool) (m : Nat) (e q : Int) : Nat :=
  if q ≤ e then m * 2 ^ (e - q).toNat
  else
    let d := 2 ^ (q - e).toNat
    m / d + (if roundsUp mode neg (m / d) (m % d) d then 1 else 0)

/-- A magnitude pattern with its sign; .e2m1 has no -0 (R59). -/
def FFmt.signed (f : FFmt) (neg : Bool) (pat : Nat) : Nat :=
  if neg && !(f.bits == 4 && pat == 0) then pat + 2 ^ (f.bits - 1) else pat

/-- An infinite result of the format (R57 step 2 and Table 4). -/
def FFmt.infinite (f : FFmt) (neg sat : Bool) : Nat :=
  if sat || f.bits == 4 then f.signed neg f.maxPat else if f.hasInf then f.signed neg (f.maxPat + 1) else f.nan

/-- Round (R57). -/
def roundF (f : FFmt) (x : Num) (mode : Rnd) (sat : Bool) : Nat :=
  match x with
  | .nan => f.nan
  | .inf neg => f.infinite neg sat
  | .fin neg m e =>
    if m = 0 then f.signed neg 0
    else
      let qmin : Int := 1 - (f.bias : Int) - f.mant
      let q := max ((m.log2 : Int) + e - f.mant) qmin
      let n := roundTo mode neg m e q
      let pat := n + (q - qmin).toNat * 2 ^ f.mant
      if pat > f.maxPat then
        let toMax : Bool := mode == .rtz || (mode == .rdn && !neg) || (mode == .rup && neg)
        if toMax then f.signed neg f.maxPat else f.infinite neg sat
      else f.signed neg pat

/-- RoundF32. -/
def roundF32 (x : Num) : Nat := roundF fF32 x .rne false

/-- A finite value rounded to an integer by the mode (R64). -/
def roundInt (mode : Rnd) (neg : Bool) (m : Nat) (e : Int) : Int :=
  let n := roundTo mode neg m e 0
  if neg then -(n : Int) else n

/-! ## .f32 operations by their patterns -/

def decF32 (w : Nat) : Num := decodeF fF32 w
def addF32 (a b : Nat) : Nat := roundF32 ((decF32 a).add .rne (decF32 b))
def subF32 (a b : Nat) : Nat := roundF32 ((decF32 a).add .rne (decF32 b).neg)
def mulF32 (a b : Nat) : Nat := roundF32 ((decF32 a).mul (decF32 b))
def fmaF32 (a b c : Nat) : Nat := roundF32 (((decF32 a).mul (decF32 b)).add .rne (decF32 c))
def divF32 (a b : Nat) : Nat := roundF32 ((decF32 a).div (decF32 b))
def sqrtF32 (a : Nat) : Nat := roundF32 (decF32 a).sqrt
def negF32 (a : Nat) : Nat := if a ≥ 2 ^ 31 then a - 2 ^ 31 else a + 2 ^ 31

/-- FMIN and FMAX (R62): NaN loses to a number, -0 is less than +0. -/
def minMaxF (f : FFmt) (max_ : Bool) (a b : Nat) : Nat :=
  let x := decodeF f a
  let y := decodeF f b
  match x.cmp y with
  | some .lt => if max_ then b else a
  | some .gt => if max_ then a else b
  | some .eq => if (a ≥ 2 ^ (f.bits - 1)) == max_ then b else a
  | none => if x == .nan && y == .nan then f.nan else if x == .nan then b else a

/-! ## Integers (R51) -/

/-- The range of an integer type of `n` bits. -/
def intLo (signed : Bool) (n : Nat) : Int := if signed then -((2 ^ (n - 1) : Nat) : Int) else 0
def intHi (signed : Bool) (n : Nat) : Int := if signed then ((2 ^ (n - 1) : Nat) : Int) - 1 else ((2 ^ n : Nat) : Int) - 1
/-- An exact result fitted to `n` bits: clamped, or wrapped. -/
def fitInt (signed sat : Bool) (n : Nat) (x : Int) : Nat :=
  let y := if sat then max (intLo signed n) (min (intHi signed n) x) else x
  (y % (2 ^ n : Nat)).toNat

/-- The width and signedness of an integer format code (R33). -/
def intFmt : Fmt → Option (Bool × Nat)
  | .s8 => some (true, 8)
  | .s16 => some (true, 16)
  | .s32 => some (true, 32)
  | .n8 => some (false, 8)
  | .n16 => some (false, 16)
  | .n32 => some (false, 32)
  | .f32 | .f16 | .bf16 | .e4m3 | .e5m2 | .e2m1 => none

/-- An integer as an exact value. -/
def ofInt (x : Int) : Num := .fin (decide (x < 0)) x.natAbs 0

/-- The value of the low bits of `w` in a format. -/
def decodeFmt (sf : Fmt) (w : Nat) : Num :=
  match ffmtOf sf, intFmt sf with
  | some f, _ => decodeF f (w % 2 ^ f.bits)
  | none, some (sg, n) => ofInt (if sg then toSigned n w else ((w % 2 ^ n : Nat) : Int))
  | none, none => .nan

/-- One conversion (R63 to R65): the destination's bits. -/
def convert (df sf : Fmt) (mode : Rnd) (sat : Bool) (w : Nat) : Nat :=
  match ffmtOf df, intFmt df, intFmt sf with
  | some f, _, _ => roundF f (decodeFmt sf w) mode sat
  | none, some (sg, n), some (ssg, sn) =>
    fitInt sg sat n (if ssg then toSigned sn w else ((w % 2 ^ sn : Nat) : Int))
  | none, some (sg, n), none =>
    match decodeFmt sf w with
    | .nan => 0
    | .inf neg => ((if neg then intLo sg n else intHi sg n) % (2 ^ n : Nat)).toNat
    | .fin neg m e => fitInt sg true n (roundInt mode neg m e)
  | none, none, _ => 0

/-! ## Blocks and the matrix unit (R66 to R68) -/

/-- The element of a block with the block's special value (R66). -/
def elemValue (f : Fmt) (special : Option Nat) (w : Nat) : Num :=
  match f, special with
  | .e2m1, some sp => if w % 16 == 8 then decodeF fE4m3 sp else decodeF fE2m1 w
  | .e2m1, none => decodeF fE2m1 w
  | _, _ => decodeFmt f w

/-- The scale and the special value of an entry (R66). -/
def scaleValue (entry : Nat) : Num := decodeF fBf16 (bitsOf entry 31 16)
def specialOf (entry : Nat) : Nat := bitsOf entry 15 8

/-- The exact sum of a list of values in their order; the empty sum is +0. -/
def sumNum : List Num → Num
  | [] => .fin false 0 0
  | x :: xs => xs.foldl (Num.add .rne) x

/-- One block step of an output element (R67). -/
def blockStep (c : Nat) (prods : List Num) (sa sb : Num) : Nat :=
  roundF32 ((decF32 c).add .rne ((sumNum prods).mul (sa.mul sb)))

/-! ## The binomial table (R69) -/

/-- The binomial coefficient. -/
def binom : Nat → Nat → Nat
  | _, 0 => 1
  | 0, _ + 1 => 0
  | n + 1, k + 1 => binom n k + binom n (k + 1)

/-- The product n · (n-1) · ... of `k` factors. -/
def falling (n : Nat) : Nat → Nat
  | 0 => 1
  | k + 1 => falling n k * (n - k)

/-- The table's entry B(n, k). -/
def binomF32 (n k : Nat) : Nat := roundF32 (ofInt (falling n k / falling k k : Nat))

end Sys2Proof.Machine
end

