-- ==== Sys2Proof/Machine/Placement.lean ====
section
/-! DEFINITION. Which core a block may stand on and what admission does (R4, R82, R136, R137, R302, R314, R316, R325),
and the register pool of a core (R79 to R82). -/

namespace Sys2Proof.Machine

/-! ## Granules -/

/-- The die site and the granule within the die of a granule number. -/
def granuleSite (g : Nat) : Nat × Nat := if g < 64 then (g / 8, g % 8) else (8 + (g - 64) / 6, (g - 64) % 6)
/-- A core lies in a partition (R314). -/
def Part.hasCore (p : Part) (site core : Nat) : Bool := p.granules.contains (granuleNo site (core / 16))
/-- The cores of a partition, lowest site and index first, as keys. -/
def Part.cores (p : Part) : List Nat :=
  (p.granules.flatMap fun g => (range 0 16).map fun i => 128 * (granuleSite g).1 + 16 * (granuleSite g).2 + i)

/-! ## The register pool -/

/-- Lines that a shuttle holds: bound, set aside, and released in a run that has not ended (R79 to R81). -/
def Shuttle.lines (sh : Shuttle) : Nat :=
  (sh.v.toList.filter Option.isSome).length + (sh.queue.map fun r => r.aside + r.freed).foldl (· + ·) 0
/-- Bound lines of a shuttle. -/
def Shuttle.bound (sh : Shuttle) : Nat := (sh.v.toList.filter Option.isSome).length

/-- Shuttles resident on a core, with their keys. -/
def State.residents (s : State) (c : Nat) : List (Nat × Shuttle) :=
  s.shuttles.filter fun e => e.2.status != .exited && (s.blocksOn c).contains (blockOf e.1)

/-- The block is the supervisor's. -/
def State.isSuper (s : State) (b : Nat) : Bool := match s.blk? b with | some k => k.supervisor | none => false

/-- The declared peak of a shuttle's block. -/
def State.peakOf (s : State) (h : Nat) : Nat := match s.blk? (blockOf h) with | some k => k.kern.peak | none => 0

/-- The supervisor's peak, set aside from its core's pool (R316). -/
def State.superLines (s : State) (c : Nat) : Nat :=
  ((s.blocksOn c).map fun b => match s.blk? b with
    | some k => if k.supervisor then k.kern.peak * k.kern.shuttles else 0
    | none => 0).foldl (· + ·) 0

/-- Free lines of a core's pool (R82). -/
def State.freeLines (s : State) (c : Nat) : Nat :=
  let used := ((s.residents c).filter fun e => !s.isSuper (blockOf e.1)).map fun e => e.2.lines
  Config.poolLines (c / 128) - s.superLines c - used.foldl (· + ·) 0

/-- Resident blocks of a core other than the supervisor's. -/
def State.guests (s : State) (c : Nat) : List Nat := (s.blocksOn c).filter fun b => !s.isSuper b

/-- The reserve: the largest peak of a core's shuttles while two or more blocks are resident (R82). -/
def State.reserve (s : State) (c : Nat) : Nat :=
  if (s.guests c).length < 2 then 0
  else ((s.guests c).map fun b => match s.blk? b with | some k => k.kern.peak | none => 0).foldl max 0

/-! ## Space -/

/-- A length rounded up to a multiple of 256 (R136). -/
def roundUp256 (n : Nat) : Nat := (n + 255) / 256 * 256

/-- The lowest base at which a region of `len` bytes fits beside the regions in use, or none (R136, log 14). -/
def firstFit (limit len : Nat) (used : List (Nat × Nat)) : Option Nat :=
  let fits (b : Nat) : Bool := b + len ≤ limit && used.all fun (lo, n) => b + len ≤ lo || lo + n ≤ b || len = 0
  ((0 :: used.map fun (lo, n) => lo + n).filter fits).foldl (fun m b => match m with | none => some b | some x => some (min x b)) none

/-- The regions in use in a core's store. -/
def State.regions (s : State) (c : Nat) (w : Bool) : List (Nat × Nat) :=
  (s.blocksOn c).filterMap fun b => (s.blk? b).map fun k =>
    if w then (k.wbase, roundUp256 k.kern.wstore) else (k.abase, roundUp256 k.kern.astore)

/-- The lowest free tiles of a core, `n` of them (R136). -/
def State.freeTiles (s : State) (c n : Nat) : Option (List Nat) :=
  let used := (s.blocksOn c).flatMap fun b => match s.blk? b with | some k => k.tiles | none => []
  let free := (range 0 (Config.tiles (c / 128))).filter fun t => !used.contains t
  if free.length ≥ n then some (free.take n) else none

/-- Shuttle slots in use on a core. -/
def State.usedSlots (s : State) (c : Nat) : List Nat := (s.residents c).map fun e => e.2.slot

/-- The runs of barrier objects in use on a core (R136). -/
def State.usedBars (s : State) (c : Nat) : List (Nat × Nat) :=
  (s.blocksOn c).filterMap fun b => (s.blk? b).map fun k => (k.barBase, k.nbars)

/-! ## Conditions -/

/-- A die's features cover a requirement mask (R300, R302). -/
def State.features (s : State) (site feat : Nat) : Bool :=
  let have_ := (s.die site).record.toNat % 256
  feat &&& have_ == feat

/-- The block could be admitted to an empty core of a die (R302 condition 3). -/
def fitsEmpty (site : Nat) (k : Kern) (nbars : Nat) : Bool :=
  k.shuttles ≤ Config.shuttleSlots site && k.shuttles * k.peak ≤ Config.poolLines site &&
    roundUp256 k.astore ≤ Config.aBytes site && roundUp256 k.wstore ≤ Config.wBytes site && k.ctiles ≤ Config.tiles site &&
    nbars ≤ 256

/-- The kernel requires neighbour-paced mode. -/
def Kern.paced (k : Kern) : Bool := k.feat.testBit 3

/-- The supervisor's block stands on the core. -/
def State.superCore (s : State) (c : Nat) : Bool := (s.blocksOn c).any s.isSuper

/-- A core is in service: its die joined and not being taken offline, neither it nor its die fenced (R302, R307, R347). -/
def State.inService (s : State) (c : Nat) : Bool :=
  (s.die (c / 128)).joined && !(s.die (c / 128)).fenced && !(s.die (c / 128)).leaving && !(s.core c).fenced && c % 128 < Config.cores (c / 128)

/-- The block could be admitted to its core with the supervisor's block alone beside it (R316): lines, slots, regions, tiles
and barrier objects. -/
def State.fitsBeside (s : State) (c : Nat) (k : Kern) (nbars : Nat) : Bool :=
  let site := c / 128
  let sup := (s.blocksOn c).filterMap fun b => (s.blk? b).filter (·.supervisor)
  let has (f : Block → Nat) : Nat := (sup.map f).foldl (· + ·) 0
  let room (limit len : Nat) (base size : Block → Nat) : Bool :=
    (firstFit limit len (sup.map fun x => (base x, size x))).isSome
  k.shuttles * k.peak ≤ Config.poolLines site - s.superLines c && k.shuttles + has (·.kern.shuttles) ≤ Config.shuttleSlots site &&
    room (Config.aBytes site) (roundUp256 k.astore) (·.abase) (fun x => roundUp256 x.kern.astore) &&
    room (Config.wBytes site) (roundUp256 k.wstore) (·.wbase) (fun x => roundUp256 x.kern.wstore) &&
    k.ctiles + has (·.tiles.length) ≤ Config.tiles site && room 256 nbars (·.barBase) (·.nbars)

/-- The static conditions of R302 and R316 for a kernel on a core. -/
def State.suits (s : State) (p : Part) (c : Nat) (k : Kern) (nbars version : Nat) : Bool :=
  s.inService c && p.hasCore (c / 128) (c % 128) && s.features (c / 128) k.feat && fitsEmpty (c / 128) k nbars &&
    s.fitsBeside c k nbars &&
    (version == 0 || Config.mimg (c / 128) == version) && !(k.paced && s.superCore c)

/-- Every shuttle of the block that is not draining stands in the list (R226, R227, R230). -/
def State.allStand (s : State) (b : Nat) (hs : List Nat) : Bool :=
  (s.shuttlesOf b).all fun h => hs.contains h || match s.sh? h with | some x => x.status != .running | none => true

/-- When every shuttle of the owner that is not draining has arrived at STEPDONE, DONE := STEP (R227). -/
def State.npCheck (s : State) (c : Nat) : State :=
  let np := (s.core c).np
  match np.owner with
  | none => s
  | some b =>
    if np.on && !np.announced && !np.arrived.isEmpty && s.allStand b np.arrived then
      s.updCore c fun k => { k with np := { k.np with done := k.np.step, announced := true } }
    else s

/-- Every shuttle of a block has executed NPENTER on the core, which then admits no further block (R226). -/
def State.entryPending (s : State) (c : Nat) : Bool :=
  match (s.core c).np.entering with
  | [] => false
  | h :: hs => s.allStand (blockOf h) (h :: hs)

/-- The core can take the block now, whose shuttles come with `lines` lines: the block's own peaks fit the pool, the free
lines cover `lines` and the reserve, and a contiguous run is free of each region and of barrier objects (R82, R136 to R138,
R193, R316). -/
def State.admits (s : State) (c : Nat) (k : Kern) (nbars b lines : Nat) : Bool :=
  let site := c / 128
  let pool := Config.poolLines site - s.superLines c
  let reserve := if (s.guests c).isEmpty then 0
    else ((s.guests c).map fun g => match s.blk? g with | some x => x.kern.peak | none => 0).foldl max k.peak
  let np := (s.core c).np
  k.shuttles * k.peak ≤ pool && lines + reserve ≤ s.freeLines c &&
    (s.usedSlots c).length + k.shuttles ≤ Config.shuttleSlots site && (s.blocksOn c).length < Config.maxBlocks site &&
    (firstFit (Config.aBytes site) (roundUp256 k.astore) (s.regions c false)).isSome &&
    (firstFit (Config.wBytes site) (roundUp256 k.wstore) (s.regions c true)).isSome && (s.freeTiles c k.ctiles).isSome &&
    (firstFit 256 nbars (s.usedBars c)).isSome && (np.owner.isNone || np.owner == some b) && !s.entryPending c &&
    !(k.feat.testBit 2 && (s.blocksOn c).any fun g => match s.blk? g with | some x => x.kern.feat.testBit 2 | none => false)

/-! ## Kernel descriptors (R354) -/

/-- A descriptor's fields, with the address of the kernel's first lane word. -/
def kernOf (laneLo d : Nat) : Kern :=
  { entry := bitsOf d 56 0, laneAddr := laneLo + 12 * bitsOf d 95 64, laneLen := bitsOf d 127 96,
    astore := bitsOf d 159 128, wstore := bitsOf d 191 160, init := bitsOf d 200 192, peak := bitsOf d 209 201,
    shuttles := bitsOf d 230 224, ctiles := bitsOf d 237 232, feat := bitsOf d 255 248 }

/-- A reserved field of a descriptor is not zero (R11, R354). -/
def kernBad (d : Nat) : Bool :=
  bitsOf d 511 256 != 0 || bitsOf d 247 238 != 0 || bitsOf d 231 231 != 0 || bitsOf d 223 210 != 0 || bitsOf d 63 57 != 0

/-- The descriptor that an address names in a context (R320 code 2); a malformed one names no kernel (R11). -/
def State.descriptor (s : State) (site ctx va : Nat) : Option Kern :=
  match s.objs.find? fun o => o.ctx == ctx && o.descs.contains va with
  | none => none
  | some o =>
    match s.translate site ctx va with
    | .page pa _ _ =>
      let d := leNat (s.mem.readN pa 64)
      if kernBad d then none else some (kernOf o.laneLo d)
    | .serv .. | .none => none

/-! ## Gangs (R325) -/

/-- The keys of the four cores of a quad. -/
def quadCores (site q : Nat) : List Nat := (range 0 4).map fun i => 128 * site + 4 * q + i

/-- The core of linear block `b` of a row gang: column b mod C at position b div C (R325). -/
def rowCore (site row b : Nat) : Nat :=
  128 * site + 4 * (row * Config.columns site + b % Config.columns site) + b / Config.columns site

/-- A launch's gang size: 1, up to 4, or the whole grid. -/
def gangOf (place first total : Nat) : List Nat :=
  match place with
  | 1 => range (first / 4 * 4) (min 4 (total - first / 4 * 4))
  | 2 => range 0 total
  | _ => [first]

/-- The places of a gang on a die: for each quad or row, or each core, the cores in the order of the members. -/
def placesOn (site place total first : Nat) : List (List Nat) :=
  match place with
  | 1 => (range 0 (Config.quads site)).map fun q => (quadCores site q).take (gangOf 1 first total).length
  | 2 =>
    if total % Config.columns site == 0 && total ≤ 4 * Config.columns site then
      (range 0 4).map fun r => (range 0 total).map (rowCore site r)
    else []
  | _ => (range 0 (Config.cores site)).map fun c => [128 * site + c]

/-- PLACE can be met on some joined die of the partition (R320 code 5). -/
def State.placeable (s : State) (p : Part) (k : Kern) (nbars place total : Nat) : Bool :=
  (range 0 12).any fun site => (placesOn site place total 0).any fun cs =>
    cs.all fun c => s.suits p c k nbars 0 && !(place == 1 && (s.quad (32 * site + c % 128 / 4)).fenced)

end Sys2Proof.Machine
end

