-- ==== Sys2Proof/Machine/System.lean ====
section
/-! DEFINITION. FENCE (R129) and LAUNCH (R133, R319, R320). -/

namespace Sys2Proof.Machine

/-! ## FENCE -/

/-- The posted writes of a shuttle's own streams, or of its commands, that are not performed at a scope. -/
def State.ownPosted (s : State) (h : Nat) (engine : Bool) (sc : Scope) : Bool :=
  s.posted.any fun p => p.h == h && p.engine.isSome == engine && p.notAt sc

/-- Posted writes that a core can see and that are not performed at a scope: a load may have returned them (R261). -/
def State.seenPosted (s : State) (site core : Nat) (sc : Scope) : Bool :=
  s.posted.any fun p => p.site == site && (p.die || p.core == core) && p.notAt sc

/-- Peer packets of a shuttle that are not yet applied (R224). -/
def State.ownPeers (s : State) (h : Nat) : Bool := s.peers.any fun p => p.h == h
/-- Those of its copy commands. -/
def State.copyPeers (s : State) (h : Nat) : Bool := s.peers.any fun p => p.h == h && p.copy.isSome

/-- A matrix operation has made its reads (R183): its fetch phase, or every step of an MGEMM, has ended. -/
def MatOp.readsDone (o : MatOp) : Bool :=
  match o.gemm with
  | none => o.fetched ≥ 64
  | some g => g.step ≥ g.n

/-- Collective commands of a shuttle that have not completed (R367). -/
def State.ownColl (s : State) (h : Nat) : Bool :=
  s.hubs.any fun e => e.2.collQ.any (·.h == h) || e.2.collSlots.any (·.h == h)

/-- Commands of a shuttle that are not yet performed at .pod: some rank's landing report is still to be made (R256, R367). -/
def State.ownPodWaits (s : State) (h : Nat) : Bool := s.hubs.any fun e => e.2.podWaits.any fun w => w.h == h

/-- Messages of a shuttle that no destination has acknowledged (R244). -/
def State.ownMessages (s : State) (w : Who) : Bool :=
  let c := s.core w.coreKey
  c.sendQ.any (·.h == w.h) || c.sendSlots.any (·.h == w.h)

/-- The operations of one kind that precede the FENCE are performed at the scope (R129, R256, log 8). -/
def State.performedKind (s : State) (w : Who) (sc : Scope) (kind : Nat) : Bool :=
  let c := s.core w.coreKey
  match kind with
  | 0 => !s.seenPosted w.blk.site w.blk.core sc
  | 1 => !s.ownPosted w.h false sc && !s.streamPeers w.h
  | 2 => !s.seenPosted w.blk.site w.blk.core sc
  | 3 => !(c.copyQ.any fun k => k.h == w.h && k.seq.isNone) && !s.ownPosted w.h true sc &&
      !(beyondCore sc && s.copyPeers w.h)
  | 4 => (c.matQ.all fun o => o.h != w.h || o.readsDone) &&
      !(c.copyQ.any fun k => k.h == w.h && k.follow.isSome)
  | 5 => !s.ownPosted w.h false sc
  | _ => !s.ownMessages w && !s.ownColl w.h

/-- At .pod every kind waits for the shuttle's collectives as well (R256). -/
def State.podDone (s : State) (w : Who) (sc : Scope) : Bool :=
  match sc with
  | .pod => !s.ownColl w.h && !s.ownPodWaits w.h
  | .lane | .core | .quad | .die | .pkg => true

/-- A FENCE before copies, or before matrix operations, ties the shuttle's earlier writes to those that follow it (R129, R167,
R183, R254; log 77): they are performed at .core as they are accepted, and every scope of a FENCE holds that one. -/
def State.tie (s : State) (h : Nat) (cpy mma : Bool) : State :=
  let mark (on : Bool) (old : Option Nat) : Option Nat := if on then old.orElse fun _ => some s.nextId else old
  { s with
    posted := s.posted.map fun p =>
      if p.h == h && p.engine.isNone then { p with forCpy := mark cpy p.forCpy, forMma := mark mma p.forMma } else p
    older := s.older.map fun o => if o.h == h then { o with forCpy := mark cpy o.forCpy } else o }

/-- Later reads of the core see what is performed at the scope: copies that may be older are dropped (R258). -/
def State.refresh (s : State) (site core : Nat) (sc : Scope) : State :=
  s.updDie site fun d =>
    { d with
      coreCache := if beyondCore sc then d.coreCache.filter (fun e => e.1 / 2 ^ 48 != core) else d.coreCache
      cache := if beyondDie sc then [] else d.cache }

/-- FENCE (R129): the drain; then the predecessor kinds are performed before anything that follows. With an empty set
nothing is waited for. Reads of a successor kind see at least what is performed at the scope (R258). -/
def execFence (sc : Scope) (pred succ : BitVec 7) (s : State) : Host.Outcome State Fault Refusal :=
  onCur s fun w => s.whenDrained w (
    if pred = 0 || succ = 0 ||
        ((range 0 7).all (fun k => !pred.getLsbD k || s.performedKind w sc k) && s.podDone w sc) then
      let reads : Bool := succ.getLsbD 0 || succ.getLsbD 3 || succ.getLsbD 4 || succ.getLsbD 5
      let s1 := if reads then s.refresh w.blk.site w.blk.core sc else s
      let own : Bool := pred.getLsbD 0 || pred.getLsbD 1 || pred.getLsbD 2 || pred.getLsbD 5
      (if own then s1.tie w.h (succ.getLsbD 3) (succ.getLsbD 4) else s1).complete w id
    else s.waits w .memory)

/-! ## LAUNCH -/

/-- The fields of a 128-byte launch record as a number (R319). -/
def recordField (r off hi lo : Nat) : Nat := bitsOf r (8 * off + hi) (8 * off + lo)

/-- A reserved field of the record is not zero, or PLACE is 3 (R320 code 1). -/
def recordBad (r : Nat) : Bool :=
  let f := recordField r
  f 0x00 63 57 != 0 || f 0x08 63 48 != 0 || f 0x10 63 40 != 0 || f 0x10 31 26 != 0 || f 0x10 23 17 != 0 ||
    f 0x10 15 9 != 0 || f 0x18 63 57 != 0 || f 0x18 3 1 != 0 || f 0x20 63 57 != 0 || f 0x20 3 1 != 0 ||
    f 0x28 63 57 != 0 || f 0x28 3 0 != 0 || f 0x70 63 0 != 0 || f 0x78 63 0 != 0 || f 0x10 25 24 == 3

/-- The launch that a record describes, for a queue and a priority (R319). -/
def recordLaunch (r part ctx queue prio : Nat) (k : Kern) (now : Nat) : Launch :=
  let f := recordField r
  let wait (o : Nat) : List (Nat × Bool) := if f o 56 4 == 0 then [] else [(16 * f o 56 4, f o 0 0 == 1)]
  { part := part, seq := 0, queue := queue, prio := prio, ctx := ctx, kern := k, gx := f 0x08 15 0, gy := f 0x08 31 16,
    gz := f 0x08 47 32, place := f 0x10 25 24, serial := f 0x10 16 16 == 1, nbars := f 0x10 8 0,
    waits := wait 0x18 ++ wait 0x20, arrive := 16 * f 0x28 56 4,
    args := (range 0 8).map fun i => BitVec.ofNat 64 (f (0x30 + 8 * i) 63 0), desc := f 0x00 56 0, left := false, eligible := false,
    nextBlock := 0, ended := 0, failed := false, complete := false, before := none, since := now, tail := false }

/-- An address names a kernel descriptor of an object loaded into a context (R320 code 2); one whose context is not valid cannot
be read. -/
def State.namesKernel (s : State) (site ctx va : Nat) : Bool :=
  (s.objs.any fun o => o.ctx == ctx && o.descs.contains va) && ((s.ctx? ctx).isNone || (s.descriptor site ctx va).isSome)

/-- The first failing check of R320, or the launch. -/
def State.judgeRecord (s : State) (w : Who) (p : Part) (r sb : Nat) : Except Nat Launch :=
  let f := recordField r
  let ctx := 256 * w.blk.part + f 0x10 39 32
  let total := f 0x08 15 0 * f 0x08 31 16 * f 0x08 47 32
  if recordBad r then .error 1
  else if !s.namesKernel w.blk.site ctx (f 0x00 56 0) then .error 2
  else if total == 0 || f 0x10 8 0 > 256 then .error 3
  else if (s.ctx? ctx).isNone then .error 4
  else
    match s.descriptor w.blk.site ctx (f 0x00 56 0) with
    | none => .error 2
    | some k =>
      if !s.placeable p k (f 0x10 8 0) (f 0x10 25 24) total then .error 5
      else .ok (recordLaunch r w.blk.part ctx (sb % 64) (bitsOf sb 9 8) k s.now)

/-- A launch enters its queue with the next sequence number (R320). -/
def State.enqueueLaunch (s : State) (p : Part) (l : Launch) : State :=
  let seq := p.seq + 1
  let q := Tab.getD p.queues l.queue []
  let before := ((s.launches.filter fun e => e.2.part == l.part && e.2.queue == l.queue).map fun e => e.2.seq).foldl max 0
  { s with
    launches := Tab.set s.launches (launchKey l.part seq) { l with seq := seq, before := if before == 0 then none else some before }
    parts := Tab.set s.parts l.part { p with seq := seq, queues := Tab.set p.queues l.queue (q ++ [seq]) } }

/-- LAUNCH with its record read and checked: the result of a failed check, the wait for a full queue, which keeps the launch
as it was read, or the sequence number (R320). -/
def State.queueLaunch (s : State) (w : Who) (p : Part) (d : SReg) (l : Launch) : State :=
  if (Tab.getD p.queues l.queue []).length ≥ 16 then s.updSh w.h fun sh => { sh.stand .other with record := some l }
  else (s.enqueueLaunch p l).complete w (·.writeS d (BitVec.ofNat 64 (p.seq + 1)))

def State.launchRecord (s : State) (w : Who) (d : SReg) (sb r : Nat) : State :=
  match s.part? w.blk.part with
  | none => s.complete w (·.writeS d (0x8000000000000000 + 4))
  | some p =>
    match s.judgeRecord w p r sb with
    | .error c => s.complete w (·.writeS d (BitVec.ofNat 64 (2 ^ 63 + c)))
    | .ok l => s.queueLaunch w p d l

/-- LAUNCH (R48, R133, R320). -/
def execLaunch (d a b : SReg) (s : State) : Host.Outcome State Fault Refusal :=
  onCur s fun w =>
    if !w.blk.supervisor then s.trap w 0x180
    else
      let va := (w.sh.readS a).toNat
      match w.sh.record, s.part? w.blk.part with
      | some l, some p => s.queueLaunch w p d l
      | _, _ =>
        if va % 64 != 0 then s.raise w { cause := 0x04D, tmask := 1, addr := va }
        else
          s.accessRead w false 64 va fun _ lo => s.accessRead w false 64 (va + 64) fun _ hi =>
            s.launchRecord w d (w.sh.readS b).toNat (leNat (lo ++ hi))

end Sys2Proof.Machine
end

