-- ==== Sys2Proof/Machine/Collective.lean ====
section
/-! DEFINITION. Collective commands: the group table and the use rule (R363, R364), the commands at issue (R365, R366),
contributions and results (R368, R369). -/

namespace Sys2Proof.Machine

/-! ## Groups and uses -/

/-- The key of a partition's group id at a hub. -/
def gidKey (part gid : Nat) : Nat := 4096 * part + gid

/-- A group-table entry's fields (R363). -/
def groupMap (e : Nat) : Nat := bitsOf e 120 64
def groupCtx (e : Nat) : Nat := bitsOf e 63 56
def groupRoot (e : Nat) : Nat := bitsOf e 55 44
def groupN (e : Nat) : Nat := bitsOf e 43 32 + 1
def groupValid (e : Nat) : Bool := e % 2 == 1
/-- A reserved field of the entry is not zero: it is malformed (R11, R363). -/
def groupBad (e : Nat) : Bool := bitsOf e 127 121 != 0 || bitsOf e 31 1 != 0

/-- The entry of a group id; an entry never given reads as zero. -/
def State.groupEntry (s : State) (part gid : Nat) : Nat :=
  match s.part? part with
  | some p => Tab.getD p.groups gid 0
  | none => 0

/-- A group's use at a hub. -/
def Hub.use (u : Hub) (key : Nat) : GidUse := Tab.getD u.uses key GidUse.initial
def State.updUse (s : State) (hub key : Nat) (f : GidUse → GidUse) : State :=
  s.updHub hub fun u => { u with uses := Tab.set u.uses key (f (u.use key)) }

/-- Commands of the current use of a group at a hub that have not landed, those in reserved slots included. -/
def Hub.open_ (u : Hub) (key : Nat) : Nat :=
  ((u.collQ ++ u.collSlots).filter fun c => c.gid == key && c.use == (u.use key).cur).length

/-- DRAIN of a group at a hub (R364). -/
def Hub.drain (u : Hub) (key : Nat) : Nat := u.open_ key + (u.use key).unacked

/-- A rank has contributed to the current use, or waits in a slot to do so. -/
def Hub.hasJoined (u : Hub) (key rank : Nat) : Bool :=
  (u.use key).joined.contains rank || u.collSlots.any fun c => c.gid == key && c.rank == rank && c.use == (u.use key).cur

/-- Commands of a use that had the same number are long performed (R367): they are at the hub where the number's next use
begins, and at the other unless it has begun there already. -/
def State.clearPod (s : State) (hub key use : Nat) : State :=
  let old (h : Nat) : Bool := h == hub || ((s.hub h).use key).cur != use
  { s with hubs := s.hubs.map fun (h, u) =>
      (h, { u with podWaits := u.podWaits.filter fun p => !(old h && p.gid == key && p.use == use) }) }

/-- Commands at a hub that waited for the next use of a group execute again (R364). -/
def State.endUseWaits (s : State) (hub key : Nat) : State :=
  let mine (h : Nat) : Bool := match s.blk? (blockOf h) with | some b => hubOf b.site == hub | none => false
  { s with shuttles := s.shuttles.map fun (h, sh) =>
      (h, if sh.wait == .newUse key && mine h then { sh with wait := .other } else sh) }

/-- The next use begins (R364): the packets held apart for it join it. What its order is drawn by is that of the other
hub of the package where the use has begun there. -/
def State.newUse (s : State) (hub key : Nat) : State :=
  let u := (s.hub hub).use key
  let next := (u.cur + 1) % 16
  let other := (s.hub (1 - hub)).use key
  ((s.clearPod hub key next).endUseWaits hub key).updUse hub key fun u =>
    { u with cur := next, joined := [], unacked := 0, contrib := u.held.foldl (fun t e => Tab.set t e.1 e.2) [], held := [],
             stamp := if other.cur == next then other.stamp else s.tick }

/-! ## Issue -/

/-- The descriptor's fields (R365). -/
def collCount (b : Nat) : Nat := bitsOf b 35 20
def collGid (b : Nat) : Nat := bitsOf b 63 52
def collUse (b : Nat) : Nat := bitsOf b 51 48
def collRank (b : Nat) : Nat := bitsOf b 47 36

/-- The kind of a command from its fn code and descriptor: fn 0 CRED, 1 CRED.exact, 2 CMC, 3 CAG. -/
def collKind (fn b : Nat) : CollKind :=
  match fn with
  | 0 => .red (bitsOf b 19 18) (bitsOf b 17 16) false
  | 1 => .red (bitsOf b 19 18) (bitsOf b 17 16) true
  | 2 => .multicast
  | _ => .gather

/-- Bytes of a source (R365, R368). -/
def sourceBytes (k : CollKind) (count : Nat) : Nat :=
  match k with
  | .red _ 3 _ => 16 * count + 16 * ((count + 31) / 32)
  | .red .. | .multicast | .gather => 16 * count
/-- Bytes of a result. -/
def resultBytes (k : CollKind) (count n : Nat) : Nat :=
  match k with
  | .gather => n * 16 * count
  | .red .. | .multicast => 16 * count

/-- A rank receives a result, and a rank reads a source (R365). -/
def receives (k : CollKind) (all : Bool) (rank root : Nat) : Bool :=
  match k with
  | .red .. => all || rank == root
  | .multicast => all || rank != root
  | .gather => true
def contributes (k : CollKind) (rank root : Nat) : Bool :=
  match k with
  | .multicast => rank == root
  | .red .. | .gather => true

/-- The descriptor is malformed by itself (R366 check 1). -/
def collBad (fn b n : Nat) : Bool :=
  let op := bitsOf b 19 18
  let fmt := bitsOf b 17 16
  bitsOf b 11 8 != 0 || collCount b == 0 || collRank b ≥ n ||
    (if fn ≥ 2 then op != 0 || fmt != 0 || (fn == 3 && bitsOf b 13 13 == 1)
      else op == 3 || (fn == 1 && (op != 0 || fmt == 1 || fmt == 2)) || (fmt == 3 && collCount b % 8 != 0)) ||
    (fn == 3 && n * 16 * collCount b > 2 ^ 24 - 16)

/-- The byte of a group's map for a rank, read through the context's tables. -/
def State.rankPackage (s : State) (site ctx map rank : Nat) : Option Nat :=
  match s.translate site ctx (map + rank) with
  | .page pa _ _ => some (s.mem.read pa).toNat
  | .serv .. | .none => none

/-- An end of a command: alignment, then the region (R366 check 5). -/
def collAligned (isLocal : Bool) (addr : Nat) : Judged Unit := need (addr % 16 == 0) (if isLocal then 0x08D else 0x04D) addr

/-- The checks of a collective command at issue (R366). -/
def State.judgeColl (s : State) (w : Who) (fn : Nat) (d a : SReg) (dv av b : Nat) : Judged Coll :=
  let e := s.groupEntry w.blk.part (collGid b)
  let n := groupN e
  let root := groupRoot e
  let k := collKind fn b
  let rank := collRank b
  let hub := hubOf w.blk.site
  let key := gidKey w.blk.part (collGid b)
  let u := (s.hub hub).use key
  let all : Bool := bitsOf b 13 13 == 1
  let rcv := receives k all rank root
  let src := contributes k rank root
  let la : Bool := bitsOf b 15 15 == 1
  let ld : Bool := bitsOf b 14 14 == 1
  let slen := sourceBytes k (collCount b)
  let dlen := resultBytes k (collCount b) n
  (need (!collBad fn b n && s.rankPackage w.blk.site w.blk.ctx (groupMap e) rank == some s.pkg) 0x133).bind fun _ =>
  (need (groupValid e && !groupBad e && groupCtx e == w.blk.ctx % 256) 0x133).bind fun _ =>
  (need ((collUse b == u.cur && !(s.hub hub).hasJoined key rank) || collUse b == (u.cur + 1) % 16) 0x133).bind fun _ =>
  (need (rcv == (d != 0) && dv < 2 ^ 57) 0x131).bind fun _ =>
  (need (src == (a != 0) && av < 2 ^ 57) 0x132).bind fun _ =>
  (checkBar w.blk (bitsOf b 12 12 == 1) (bitsOf b 7 0) 3).bind fun bar =>
  (if rcv then collAligned ld dv else .ok ()).bind fun _ =>
  (if src then collAligned la av else .ok ()).bind fun _ =>
  (if rcv && ld then need (dv + dlen ≤ w.blk.a.bytes) 0x085 dv else .ok ()).bind fun _ =>
  (if src && la then need (av + slen ≤ w.blk.a.bytes) 0x085 av else .ok ()).bind fun _ =>
  (if src && !la then s.probe w false av slen else .ok []).bind fun ps =>
  (if rcv && !ld then s.probe w true dv dlen else .ok []).bind fun qs =>
  .ok { id := s.nextId, h := w.h, ipc := w.sh.pc.toNat, block := w.b, hub := hub, gid := key, use := collUse b, rank := rank,
        n := n, root := root, count := collCount b, kind := k, all := all,
        src := if src then some (if la then .a else .g, av) else none,
        dst := if rcv then some (if ld then .a else .g, dv) else none, bar := bar, pins := distinct (ps ++ qs), read := !src,
        toward := none, flying := false }

/-- The ranks of a command's group that this package holds. -/
def State.ranksHere (s : State) (k : Coll) : List Nat :=
  match s.blk? k.block with
  | some blk =>
    let map := groupMap (s.groupEntry (k.gid / 4096) (k.gid % 4096))
    (range 0 k.n).filter fun r => s.rankPackage blk.site blk.ctx map r == some s.pkg
  | none => []

/-- A command accepted into the hub's queue: its rank has joined the use, and it is yet to be performed at .pod (R256, R364,
R366). -/
def State.acceptColl (s : State) (k : Coll) : State :=
  (s.updHub k.hub fun u =>
    { u with collQ := u.collQ ++ [k]
             podWaits := u.podWaits ++ [{ h := k.h, gid := k.gid, use := k.use, rank := k.rank, mine := s.ranksHere k,
                                          landed := false }] }).updUse k.hub k.gid fun u =>
    { u with joined := u.joined ++ [k.rank] }

/-- The use step, then the queue of 64 or the reserved slot (R364, R366). -/
def State.issueColl (s : State) (w : Who) (k : Coll) : State :=
  let u := s.hub k.hub
  if k.use != (u.use k.gid).cur && u.drain k.gid != 0 then s.waits w (.newUse k.gid)
  else
    let s1 := { (if k.use != (u.use k.gid).cur then s.newUse k.hub k.gid else s) with nextId := s.nextId + 1 }
    if u.collQ.length < 64 && u.collSlots.isEmpty then (s1.acceptColl k).complete w id
    else (s1.updHub k.hub fun u => { u with collSlots := u.collSlots ++ [k] }).waits w .slot

/-- The four commands, by fn code. -/
def collective (fn : Nat) (d a b : SReg) (s : State) : Host.Outcome State Fault Refusal :=
  onCur s fun w => s.unlessSlot w (s.judged w
    (s.judgeColl w fn d a (w.sh.readS d).toNat (w.sh.readS a).toNat (w.sh.readS b).toNat) fun k => s.issueColl w k)

def execCred (d a b : SReg) (s : State) : Host.Outcome State Fault Refusal := collective 0 d a b s
def execCredExact (d a b : SReg) (s : State) : Host.Outcome State Fault Refusal := collective 1 d a b s
def execCmc (d a b : SReg) (s : State) : Host.Outcome State Fault Refusal := collective 2 d a b s
def execCag (d a b : SReg) (s : State) : Host.Outcome State Fault Refusal := collective 3 d a b s

/-! ## Contributions and results -/

/-- The 32-bit elements of a list of bytes. -/
def words32 : List Byte → List Nat
  | a :: b :: c :: d :: t => leNat [a, b, c, d] :: words32 t
  | _ => []

/-- A rank's contribution from its source bytes: `.bsp` elements are scaled at their own rank (R368). -/
def contribution (k : CollKind) (count : Nat) (bs : List Byte) : List Byte :=
  match k with
  | .red _ 3 _ =>
    (((words32 (bs.take (16 * count))).zipIdx).flatMap fun (x, i) =>
      leBytes 4 (roundF32 (Num.mul (decF32 x) (scaleValue (leNat ((bs.drop (16 * count + 4 * (i / 32))).take 4))))))
  | .red .. | .multicast | .gather => bs

/-- CRED.fast's sum, a lone NaN being CanonNaN (R61): two of the numbers, chosen by the engines, give way to their rounded sum (R369). -/
def fastSum (stamp elem : Nat) : Nat → List Nat → Nat
  | 0, xs => xs.headD 0
  | fuel + 1, xs =>
    match xs with
    | [] => 0
    | [x] => minMaxF fF32 false x x
    | _ =>
      let c := Config.freeChoice stamp (2 ^ 40 + 8192 * elem + fuel)
      let i := c % xs.length
      let rest := dropAt xs i
      let j := c / xs.length % rest.length
      fastSum stamp elem fuel (addF32 (xs.getD i 0) (rest.getD j 0) :: dropAt rest j)

/-- CRED.exact's sum (R369). -/
def exactSum (xs : List Nat) : Nat :=
  let vs := xs.map decF32
  let nan : Bool := vs.any (· == .nan) || (vs.any (· == .inf false) && vs.any (· == .inf true))
  let acc := (vs.map fun v => match v with | .fin neg m e => atExp neg m e (-149) | .nan | .inf _ => 0).foldl (· + ·) (0 : Int)
  if nan then fF32.nan
  else if vs.any (· == .inf false) then 0x7F800000
  else if vs.any (· == .inf true) then 0xFF800000
  else if acc = 0 then (if xs.all (· == 0x80000000) then 0x80000000 else 0)
  else roundF32 (.fin (decide (acc < 0)) acc.natAbs (-149))

/-- One element of a reduction over the contributions in rank order (R368, R369). -/
def reduceElem (op fmt : Nat) (exact : Bool) (stamp elem : Nat) (xs : List Nat) : Nat :=
  let isF : Bool := fmt == 0 || fmt == 3
  let key (x : Nat) : Int := if fmt == 1 then toSigned 32 x else (x : Int)
  let pick (f : Nat → Nat → Nat) : Nat := match xs with | [] => 0 | [x] => f x x | x :: t => t.foldl f x
  match op with
  | 0 => if isF then (if exact then exactSum xs else fastSum stamp elem xs.length xs) else xs.foldl (· + ·) 0 % 2 ^ 32
  | 1 => pick fun x y => if isF then minMaxF fF32 false x y else if key x ≤ key y then x else y
  | _ => pick fun x y => if isF then minMaxF fF32 true x y else if key x ≤ key y then y else x

/-- The contributions of ranks in their order, when each is there and names the operation, the format and COUNT of the
receiver's command: where ranks differ the use never completes (R363). -/
def gathered (k : Coll) (u : GidUse) : List Nat → Option (List (List Byte))
  | [] => some []
  | r :: rs =>
    match Tab.get? u.contrib r, gathered k u rs with
    | some c, some t => if c.kind == k.kind && c.count == k.count then some (c.data :: t) else none
    | _, _ => none

/-- The result of a use for a receiver, or none while a contribution is missing. -/
def collResult (k : Coll) (u : GidUse) : Option (List Byte) :=
  match k.kind with
  | .multicast => (gathered k u [k.root]).map List.flatten
  | .gather => (gathered k u (range 0 k.n)).map List.flatten
  | .red op fmt exact =>
    (gathered k u (range 0 k.n)).map fun data =>
      let rows := data.map words32
      (range 0 (4 * k.count)).flatMap fun i =>
        leBytes 4 (reduceElem op fmt exact u.stamp i (rows.map fun r => r.getD i 0))

end Sys2Proof.Machine
end

