-- ==== Sys2Proof/Machine/Control.lean ====
section
/-! DEFINITION. Transfers of control (R120 to R124), LRUN and SYNCRUN (R125, R126, R74), and the system instructions of
the shuttle itself (R130 to R132). -/

namespace Sys2Proof.Machine

/-! ## Transfers -/

/-- An address lies in the .ctl section of an object (R123). -/
def CodeObj.holds (o : CodeObj) (va : Nat) : Bool := o.ctlLo ≤ va && va < o.ctlLo + o.ctlLen

/-- A computed target is valid in a context (R123, R124). -/
def State.validTarget (s : State) (ctx : Nat) (t : W64) : Bool :=
  t.toNat % 4 == 0 && t.toNat < 2 ^ 57 && s.objs.any fun o => o.ctx == ctx && o.holds t.toNat

/-- An offset target lies in the .ctl section that holds the word (R124). -/
def State.sameSection (s : State) (ctx : Nat) (pc t : W64) : Bool :=
  s.objs.any fun o => o.ctx == ctx && o.holds pc.toNat && o.holds t.toNat

/-- A taken transfer by offset: the trap of a bad target, or the changed shuttle at the target (R124). -/
def State.branch (s : State) (w : Who) (t : W64) (f : Shuttle → Shuttle) : State :=
  if s.sameSection w.blk.ctx w.sh.pc t then s.updSh w.h fun sh => (f sh).jump t
  else s.raise w { cause := 0x155, addr := t.toNat }

/-- A transfer to a register's value (R122, R124). -/
def State.jumpReg (s : State) (w : Who) (t : W64) (f : Shuttle → Shuttle) : State :=
  if s.validTarget w.blk.ctx t then s.updSh w.h fun sh => (f sh).jump t
  else s.raise w { cause := 0x152, addr := t.toNat }

/-- pc + 4 · sext64(offset) (R31). -/
def offsetTarget {n : Nat} (pc : W64) (o : BitVec n) : W64 := pc + 4 * o.signExtend 64

/-- The link register s63 (R120, R122). -/
def linkReg : SReg := 63
def Shuttle.link (sh : Shuttle) : Shuttle := sh.writeS linkReg (sh.pc + 4)

def execBr (p : KReg) (n : Bool) (o : BitVec 22) (s : State) : Host.Outcome State Fault Refusal :=
  onCur s fun w =>
    if predHolds w.sh p n then s.branch w (offsetTarget w.sh.pc o) id else s.complete w id

def execCall (p : KReg) (n : Bool) (o : BitVec 22) (s : State) : Host.Outcome State Fault Refusal :=
  onCur s fun w =>
    if predHolds w.sh p n then s.branch w (offsetTarget w.sh.pc o) Shuttle.link else s.complete w id

/-- The decrement and the branch of LOOP are one step; a bad target leaves sd unchanged (R112, R121). DESIGN CHOICE (log 88):
with sd = s0 the write is discarded, and the test reads the decremented value, not s0 again. -/
def execLoop (d : SReg) (gt : Bool) (i : BitVec 12) (s : State) : Host.Outcome State Fault Refusal :=
  onCur s fun w =>
    let v := w.sh.readS d - 1
    let taken : Bool := if gt then decide (0 < v.toInt) else v != 0
    if taken then s.branch w (offsetTarget w.sh.pc i) (·.writeS d v) else s.complete w (·.writeS d v)

def execJr (a : SReg) (s : State) : Host.Outcome State Fault Refusal :=
  onCur s fun w => s.jumpReg w (w.sh.readS a) id

/-- The target is read before s63 is written (R122). -/
def execCallr (a : SReg) (s : State) : Host.Outcome State Fault Refusal :=
  onCur s fun w => s.jumpReg w (w.sh.readS a) Shuttle.link

/-- A RET resolves through the current translation of its target: the shuttle leaves the one it is inside (R310). -/
def execRet (a : SReg) (s : State) : Host.Outcome State Fault Refusal :=
  onCur s fun w => (s.leaveCode (· == w.h)).jumpReg w (w.sh.readS a) id

/-! ## Lane work -/

/-- STEP as a run captures it: the paced core's, else zero (R131, R228). -/
def State.stepOf (s : State) (blk : Block) : Nat :=
  let np := (s.core blk.coreKey).np
  if np.on && np.owner.isSome then np.step else 0

/-- The run that LRUN appends (R73, R208, R228). -/
def newRun (s : State) (w : Who) (l : Nat) (ws : List Nat) : Run :=
  { lword := l, words := ws, off := 0, caps := w.sh.s.set 0 0, ords := w.blk.oregs, step := s.stepOf w.blk,
    lrunPc := w.sh.pc.toNat, phase := .queued, aside := 0, freed := 0, waited := false, since := none, pages := [],
    fatal := [], gone := [], repl := none, half := none }

/-- The first XFORM of a run whose register the shuttle does not own, or that is no multipole: the cause, the run
offset and the register (R208). -/
def formFault (blk : Block) (idx : Nat) : Nat → List Nat → Option (Nat × Nat × Nat)
  | _, [] => none
  | off, x :: xs =>
    match decodeLane x with
    | .ok (.lXform _ e _ _ _ _) =>
      let r := blk.eregs.get e
      if r.owner != some idx then some (0x0E6, off, e.val)
      else if r.kind != 1 then some (0x0EE, off, e.val)
      else formFault blk idx (off + 1) xs
    | _ => formFault blk idx (off + 1) xs

/-- LRUN (R125): a trap within handler is fatal (R341); the run is validated (R40); a full queue stalls; then the run
is appended with its captures. -/
def execLrun (l : BitVec 20) (s : State) : Host.Outcome State Fault Refusal :=
  onCur s fun w =>
    if w.sh.handler then s.fatalTrap w.h 0x198 { cause := 0x198, cpc := w.sh.pc.toNat, drain := w.sh.status == .draining }
    else
      match s.validate w l.toNat with
      | .swap p => s.fetchSwap w p
      | .wait => s.waits w .other
      | .trap c off => s.raise w { cause := c, lrunv := true, lword := l.toNat, roff := off }
      | .run ws =>
        match formFault w.blk w.sh.idx 0 ws with
        | some (c, off, e) => s.raise w { cause := c, lrunv := true, lword := l.toNat, roff := off, tile := some e }
        | none =>
        if w.sh.queue.length ≥ 4 then s.waits w .other
        else s.complete w fun sh => { sh with queue := sh.queue ++ [newRun s w l.toNat ws] }

/-- The pending results written in their order (R74). -/
def commitPend : List (SReg × W64) → Shuttle → Shuttle
  | [], sh => sh
  | (d, v) :: t, sh => commitPend t (sh.writeS d v)

/-- SYNCRUN (R126): the pending results are committed; in handler mode the frozen queue is not waited for (R341), and the
results recorded so far are committed (R74). -/
def execSyncrun (s : State) : Host.Outcome State Fault Refusal :=
  onCur s fun w => s.whenDrained w (s.complete w fun sh => { commitPend sh.pend sh with pend := [] })

/-- YIELD has no architectural effect (R130). -/
def execYield (s : State) : Host.Outcome State Fault Refusal := onCur s fun w => s.complete w id

/-! ## HALT -/

/-- No other shuttle of the block still runs. -/
def State.lastRunning (s : State) (w : Who) : Bool :=
  (s.shuttlesOf w.b).all fun j => j == w.h || match s.sh? j with | some x => x.status != .running | none => true

/-- Expansion registers that a shuttle of the block owns become owned by none (R199). -/
def Block.disown (b : Block) (idx : Nat) : Block :=
  { b with eregs := b.eregs.map fun e => if e.owner == some idx then { e with owner := none } else e }

/-- The posted receives of a block are withdrawn, on whichever core they were posted (R243). -/
def State.dropRecvs (s : State) (b : Nat) : State :=
  { s with cores := s.cores.map fun (k, c) => (k, { c with recvs := c.recvs.filter (·.block != b) }) }

/-- The shuttle exits into draining (R85): the breaker no longer favours it (R83), its pending results are discarded, its reservation cleared (R292), its
expansion registers released (R199); when it is the block's last, the block's posted receives are withdrawn (R243). -/
def State.exitShuttle (s : State) (w : Who) : State :=
  let s1 := s.updSh w.h fun sh =>
    { sh with status := .draining, pend := [], resv := none, queue := [], handler := false, trap := none, wait := .none }
  let s2 := (s1.updBlk w.b (·.disown w.sh.idx)).leaveCode (· == w.h)
  let s3 := s2.updCore w.coreKey fun c => { c with favoured := if c.favoured == some w.h then none else c.favoured }
  ((if s3.lastRunning w then s3.dropRecvs w.b else s3).gbarCheckAll).npCheck w.coreKey

def execHalt (s : State) : Host.Outcome State Fault Refusal :=
  onCur s fun w => s.whenDrained w (s.exitShuttle w)

/-- TRAP sa (R130). -/
def execTrap (a : SReg) (s : State) : Host.Outcome State Fault Refusal :=
  onCur s fun w => s.raise w { cause := 0x190, addr := (w.sh.readS a).toNat }

/-! ## MFS and ICINV -/

/-- The special values (R131). -/
def special (s : State) (w : Who) (v : Special) : Nat :=
  match v with
  | .tid => 8 * w.sh.idx
  | .shuttle => w.sh.idx
  | .blockX => w.blk.x
  | .blockY => w.blk.y
  | .blockZ => w.blk.z
  | .gridX => w.blk.gx
  | .gridY => w.blk.gy
  | .gridZ => w.blk.gz
  | .core => w.blk.core
  | .quad => w.blk.core / 4
  | .die => w.blk.site
  | .step => s.stepOf w.blk
  | .gen => if Config.isReed w.blk.site then 2 else 1

def execMfs (d : SReg) (v : Special) (s : State) : Host.Outcome State Fault Refusal :=
  onCur s fun w => s.complete w (·.writeS d (BitVec.ofNat 64 (special s w v)))

/-- A shuttle inside a translation that is given up is at its portable position; one in a restartable wait executes its
instruction again (R112, R311). -/
def State.moveOut (s : State) (hs : List Nat) : State :=
  hs.foldl (fun x h => match x.sh? h, x.blk? (blockOf h) with
    | some sh, some blk => x.unwait h blk.coreKey sh
    | _, _ => x) s

/-- What ICINV.pkg does over a context's bytes from `lo` to `hi` (R132, R311, R313); `self` is the shuttle that executes it. -/
def State.icinvRange (s : State) (ctx lo hi : Nat) (self : Option Nat) : State :=
  let hit (t : Translation) : Bool := t.ctx == ctx && t.lo < hi && lo < t.hi
  let inside := ((s.trans.filter hit).flatMap (·.inside)).filter fun h => some h != self
  (State.moveOut { s with trans := s.trans.filter fun t => !hit t } inside).codeFresh ctx lo hi

/-- ICINV.pkg (R132, R311): over whole 64-byte lines, every translation stops being current and every shuttle inside
one leaves it; fetches find memory as it stands (R313). A die that is not joined holds none (R307). -/
def execIcinvPkg (a b : SReg) (s : State) : Host.Outcome State Fault Refusal :=
  onCur s fun w =>
    let lo := (w.sh.readS a).toNat
    let n := (w.sh.readS b).toNat
    if n = 0 then s.complete w id
    else if lo + n > 2 ^ 57 then s.raise w { cause := 0x152, addr := lo }
    else (s.icinvRange w.blk.ctx (lo / 64 * 64) ((lo + n + 63) / 64 * 64) (some w.h)).complete w id

end Sys2Proof.Machine
end

