-- ==== Sys2Proof/Machine/Matrix.lean ====
section
/-! DEFINITION. The matrix unit: MMA, MGEMM and MWAIT at issue (R177 to R186), the rows an operation fetches (R174,
R176), and the product of two operands (R67, R68, R173). -/

namespace Sys2Proof.Machine

/-! ## Issue -/

/-- The unit accepts an operation while its queue of 8 has an entry free beside those due to follow-ons, and no reserved slot
is occupied (R179, R216). -/
def State.issueMat (s : State) (w : Who) (o : MatOp) : State :=
  let c := s.core w.coreKey
  let s1 := { s with nextId := s.nextId + 1 }
  if c.matQ.length + s.followsDue w.coreKey < 8 && c.matSlots.isEmpty then
    (s1.updCore w.coreKey fun c => { c with matQ := c.matQ ++ [o] }).complete w id
  else (s1.updCore w.coreKey fun c => { c with matSlots := c.matSlots ++ [o] }).waits w .slot

/-- A word that needs a feature the kernel does not declare (R47). -/
def State.needFeature (s : State) (w : Who) (feat : Nat) (k : State) : State :=
  if declares w.blk feat then k else s.trap w 0x148

/-- MMA (R177, R178). -/
def execMma (c : TileReg) (a b : SReg) (f : MmaFmt) (aten bten : Bool) (s : State) : Host.Outcome State Fault Refusal :=
  onCur s fun w => s.unlessSlot w (s.onTile w c (s.needFeature w (Instr.needs (.mma c a b f aten bten)) (
    let oa := s.operand w.blk (w.sh.readS a).toNat aten
    let ob := s.operand w.blk (w.sh.readS b).toNat bten
    s.judgedEntries w [opTid oa.word, opTid ob.word] (judgeOperands (s.entryBad w.blk) w.blk f oa ob) fun _ => s.issueMat w (mkMat s w w.sh.pc.toNat c f oa ob))))

/-- An MGEMM operand of step `j` (R185): the tile's X0 advanced, or the offset advanced by the operand size. DESIGN CHOICE (log
99): an offset that no longer fits its 32-bit field stands as the highest one with its alignment, which lies in no store. -/
def stepOperand (f : MmaFmt) (o : MatOperand) (j : Nat) : MatOperand :=
  if o.tensor then { o with word := o.word / 65536 * 65536 + (o.word + j) % 65536 }
  else
    let off := opOffset o.word + j * opBytes f (Entry.scale o.entry)
    { o with word := o.word / 2 ^ 32 * 2 ^ 32 + (if off < 2 ^ 32 then off else 0xFFFFFFF0 + off % 16) }

/-- The three stages of MGEMM's checks (R186): the record, the operand words of the first and the last step, the
buffers. Buffers and store operands of one MGEMM never share a store. -/
def judgeGemm (bad : Nat → Option Nat) (blk : Block) (f : MmaFmt) (a b : MatOperand) (r2 r3 : Nat) : Judged Gemm :=
  let n := bitsOf r3 15 0
  let abuf := bitsOf r2 31 0
  let wbuf := bitsOf r2 63 32
  let runsOut (o : MatOperand) : Bool := o.tensor && bitsOf o.word 15 0 + n > 65536
  let wrong : Bool := bitsOf r3 63 16 != 0 || (!a.tensor && abuf != 0) || (!b.tensor && wbuf != 0) || n == 0 || runsOut a ||
    runsOut b
  let bufBad (o : MatOperand) (off limit : Nat) : Bool :=
    o.tensor && (off % 16 != 0 || off + 2 * opBytes f (Entry.scale o.entry) > limit)
  (need (!wrong) 0x0DA).bind fun _ =>
  (judgeOperands bad blk f a b).bind fun _ =>
  (judgeOperands bad blk f (stepOperand f a (n - 1)) (stepOperand f b (n - 1))).bind fun _ =>
  (need (!bufBad a abuf blk.a.bytes && !bufBad b wbuf blk.w.bytes) 0x0DA).bind fun _ =>
  .ok { n := n, abuf := abuf, wbuf := wbuf, step := 0, issued := 0, half := false, pendingCopies := [], failed := [], dirty := false }

/-- MGEMM (R185, R186): the record stands in four scalar registers. -/
def execMgemm (c : TileReg) (a : SReg) (f : MmaFmt) (aten bten : Bool) (s : State) : Host.Outcome State Fault Refusal :=
  onCur s fun w => s.unlessSlot w (s.onTile w c (s.needFeature w (Instr.needs (.mgemm c a f aten bten)) (
    let r (n : Nat) : Nat := (w.sh.readS (SReg.plus a n)).toNat
    let oa := s.operand w.blk (r 0) aten
    let ob := s.operand w.blk (r 1) bten
    s.judgedEntries w [opTid oa.word, opTid ob.word] (judgeGemm (s.entryBad w.blk) w.blk f oa ob (r 2) (r 3)) fun g =>
      s.issueMat w { mkMat s w w.sh.pc.toNat c f oa ob with gemm := some g })))

/-- MWAIT completes when no operation owns the tile (R182). -/
def execMwait (c : TileReg) (s : State) : Host.Outcome State Fault Refusal :=
  onCur s fun w => s.onTile w c (if s.owned w.coreKey w.b c then s.waits w .other else s.complete w id)

/-! ## Rows -/

/-- What fetching a row gives: its bytes, a fault at an address, or pages to wait for. -/
inductive RowFetch
  | row (bs : List Byte)
  | fault (cause addr : Nat)
  | wait (pages : List Nat)

/-- Physical addresses of an engine's read: each address is translated by `find`; slot 6 or 7 names the engine, and the
fault names the first address at fault (R181, R280, R298). `fatal` lists pages declared fatal while it waited (R282), and `hit`
says of a physical address that its read fails (R295). -/
def State.engineAccess (s : State) (find : Nat → Found) (hit : Nat → Bool) (slot : Nat) (fatal as : List Nat) :
    List Nat ⊕ RowFetch :=
  match checkWith find fatal false slot 1 (as.map fun a => (0, a)) with
  | .trap c _ a => .inr (.fault c a)
  | .wait ps => .inr (.wait ps)
  | .go pas =>
    match (as.zip pas).find? fun e => s.farGone e.2.2, (as.zip pas).find? fun e => hit e.2.2 with
    | some e, _ => .inr (.fault (0x1C8 + slot) e.1)
    | none, some e => .inr (.fault (0x070 + slot) e.1)
    | none, none => .inl (pas.map (·.2))

/-- The line at a virtual address that a read found uncorrectable is poisoned (R295). -/
def State.findAt (s : State) (find : Nat → Found) (a : Nat) : State :=
  match find a with
  | .page pa _ _ => s.findBad [pa / 64]
  | .serv .. | .none => s

/-- A FENCE ties a write to the reads of an operation (R183). -/
def MatOp.follows (o : MatOp) (p : Posted) : Bool := match p.forMma with | some n => decide (n ≤ o.id) | none => false

/-- The byte that an operation's global read finds, and whether the read fails (R183, R295). -/
def State.matByte (s : State) (blk : Block) (o : MatOp) (pa : Nat) : Byte := s.engineByte blk.site blk.core o.h o.follows pa
def State.matHits (s : State) (blk : Block) (o : MatOp) (pa : Nat) : Bool := s.engineHits blk.site blk.core o.h o.follows pa

/-- Bytes of global memory for a core's matrix unit. -/
def State.engineRead (s : State) (blk : Block) (o : MatOp) (as : List Nat) : RowFetch :=
  match s.engineAccess (s.translate blk.site blk.ctx) (s.matHits blk o) 6 o.fatal as with
  | .inl pas => .row (pas.map (s.matByte blk o))
  | .inr x => x

/-- The scale bytes of a row of a tensor tile: one entry for each block (R176, R380). -/
def State.scaleBytes (s : State) (blk : Block) (o : MatOp) : List (Option Nat) → RowFetch
  | [] => .row []
  | none :: t =>
    match State.scaleBytes s blk o t with
    | .row r => .row (leBytes 4 unitScale ++ r)
    | x => x
  | some a :: t =>
    match s.engineRead blk o (range a 4), State.scaleBytes s blk o t with
    | .row b, .row r => .row (b ++ r)
    | .row _, x => x
    | x, _ => x

/-- A row of a tensor tile operand: data, then scale entries (R176). -/
def State.tensorRow (s : State) (blk : Block) (op : MatOp) (o : MatOperand) (nb r : Nat) : RowFetch :=
  let e := o.entry
  let c := opCoords o.word
  let i0 := coord c 0 * Entry.t0 e
  let i1 := 32 * coord c 1 + r
  let at_ (k : Nat) : Option Nat := Entry.byteAt e (i0 * Entry.width e / 8 + k) i1 (coord c 2) (coord c 3)
  match s.engineRead blk op ((range 0 384).filterMap at_) with
  | .row _ =>
    let rd (a : Nat) : Byte := match s.translate blk.site blk.ctx a with
      | .page pa _ _ => s.matByte blk op pa
      | .serv .. | .none => 0
    let data := (range 0 384).map fun k => Entry.rowByte e rd (i0 * Entry.width e / 8 + k) i1 (coord c 2) (coord c 3)
    if !Entry.scale e then .row data
    else
      match s.scaleBytes blk op ((range 0 nb).map fun j =>
        Entry.scaleAt e (i0 + 32 * j) i1 (coord c 2) (coord c 3)) with
      | .row sc => .row (data ++ sc)
      | x => x
  | x => x

/-- A row of a store operand at an offset (R174). -/
def storeRow (st : LStore) (off nb r : Nat) (scaled : Bool) : List Byte :=
  st.readN (off + 384 * r) 384 ++ (if scaled then st.readN (off + 12288 + 4 * (r * nb)) (4 * nb) else [])

/-- Row `n` of an operation, 0 to 31 of A and 32 to 63 of B (R180). An MGEMM reads step STEP's operands from the
stores: its tensor tiles stand in buffer STEP mod 2 (R185). -/
def State.matRow (s : State) (blk : Block) (o : MatOp) (n : Nat) : RowFetch :=
  let isB : Bool := n ≥ 32
  let opnd := if isB then o.b else o.a
  let nb := mmaBlocks o.fmt
  let st := blk.store isB
  let scaled := Entry.scale opnd.entry
  match o.gemm with
  | none =>
    if opnd.tensor then s.tensorRow blk o opnd nb (n % 32) else .row (storeRow st (opOffset opnd.word) nb (n % 32) scaled)
  | some g =>
    let off := if opnd.tensor then (if isB then g.wbuf else g.abuf) + (g.step % 2) * opBytes o.fmt scaled
      else opOffset opnd.word + g.step * opBytes o.fmt scaled
    .row (storeRow st off nb (n % 32) scaled)

/-- The byte of a row at which the granule that byte `p` belongs to begins, and where it ends: 16 bytes of the data or of a
store's scale area, and, of a tensor's scale plane, the entries of the row in one aligned 16 bytes (R183). -/
def MatOp.granule (o : MatOp) (n p : Nat) : Nat × Nat :=
  let opnd := if n ≥ 32 then o.b else o.a
  let e := opnd.entry
  let c := opCoords opnd.word
  let first := if opnd.tensor && o.gemm.isNone then
    (Entry.scaleAt e (coord c 0 * Entry.t0 e) (32 * coord c 1 + n % 32) (coord c 2) (coord c 3)).getD 0 % 16 else 0
  if p < 384 then (p / 16 * 16, p / 16 * 16 + 16)
  else
    let at_ := (p - 384 + first) / 16 * 16
    (max 384 (384 + at_ - first), 384 + at_ + 16 - first)

/-- A row with the granules that were read before in their places. -/
def patchRow (part : List (Nat × List Byte)) (bs : List Byte) : List Byte :=
  part.foldl (fun r (p, x) => r.take p ++ x ++ r.drop (p + x.length)) bs

/-! ## The product -/

/-- Element `k` of a row's data (R174, R55). -/
def rowElem (width : Nat) (row : List Byte) (k : Nat) : Nat :=
  let b (i : Nat) : Nat := (row.getD i 0).toNat
  if width == 4 then (if k % 2 == 0 then b (k / 2) % 16 else b (k / 2) / 16)
  else if width == 8 then b k else b (2 * k) + 256 * b (2 * k + 1)

/-- The scale entry of block `j` of a row, or scale 1 without a scale plane (R66). -/
def rowScale (row : List Byte) (scaled : Bool) (j : Nat) : Nat :=
  if scaled then leNat ((row.drop (384 + 4 * j)).take 4) else unitScale

/-- The element format of an operation. -/
def mmaElem : MmaFmt → Fmt
  | .e2m1 => .e2m1 | .e4m3 => .e4m3 | .e5m2 => .e5m2 | .bf16 => .bf16 | .f16 => .f16 | .s8 => .s8

/-- The elements of block `j` of a row with their special value (R66). -/
def blockElems (f : MmaFmt) (e : Entry) (row : List Byte) (j : Nat) : List Num :=
  let special := if Entry.spec e then some (specialOf (rowScale row (Entry.scale e) j)) else none
  (range (32 * j) 32).map fun k => elemValue (mmaElem f) special (rowElem (mmaWidth f) row k)

/-- One output element of a floating-point operation: a rounding for each block, in ascending k (R67). -/
def matElem (o : MatOp) (ra rb : List Byte) (c : Nat) : Nat :=
  (range 0 (mmaBlocks o.fmt)).foldl (fun acc j =>
    blockStep acc ((blockElems o.fmt o.a.entry ra j).zipWith Num.mul (blockElems o.fmt o.b.entry rb j))
      (scaleValue (rowScale ra (Entry.scale o.a.entry) j)) (scaleValue (rowScale rb (Entry.scale o.b.entry) j))) c

/-- One output element of an .s8 operation (R68). -/
def matElemS8 (ra rb : List Byte) (c : Nat) : Nat :=
  let sum := (range 0 384).foldl (fun acc k =>
    acc + toSigned 8 (rowElem 8 ra k) * toSigned 8 (rowElem 8 rb k)) (0 : Int)
  (((c : Int) + sum) % (2 ^ 32 : Nat)).toNat

/-- The tile after an operation whose rows stand in its operand buffer (R173). -/
def MatOp.product (o : MatOp) (t : Tile) : Tile :=
  (range 0 1024).filterMap fun i =>
    let ra := o.rows.getD (i / 32) []
    let rb := o.rows.getD (32 + i % 32) []
    let c := (Tab.getD t i 0).toNat
    let v := match o.fmt with
      | .s8 => matElemS8 ra rb c
      | .e2m1 | .e4m3 | .e5m2 | .bf16 | .f16 => matElem o ra rb c
    if v = 0 then none else some (i, BitVec.ofNat 32 v)

end Sys2Proof.Machine
end

