-- ==== Sys2Proof/Machine/Transcend.lean ====
section
/-! DEFINITION. Correctly rounded functions whose results are irrational (R98, R197): each is evaluated as a fixed-point
number with `p` bits after the point and a bounded error, at growing precision, until both ends of the error interval
round alike (log 13). -/

namespace Sys2Proof.Machine

/-- A fixed-point number with `p` bits after the point as an exact value. -/
def ofFixed (p : Nat) (v : Int) : Num := .fin (decide (v < 0)) v.natAbs (-(p : Int))

/-- The error, in units of the last place, that no evaluation of this file exceeds. -/
def slack : Int := 65536

/-- The rounding of the value that `f` approximates: the first precision at which both ends round alike. -/
def settle (f : Nat → Int) : List Nat → Nat
  | [] => 0
  | [p] => roundF32 (ofFixed p (f p))
  | p :: q :: ps =>
    let v := f p
    let lo := roundF32 (ofFixed p (v - slack))
    if lo = roundF32 (ofFixed p (v + slack)) then lo else settle f (q :: ps)

/-- The precisions tried. -/
def precisions : List Nat := [256, 512, 1024, 2048]
def settled (f : Nat → Int) : Nat := settle f precisions

/-- A product of two fixed-point numbers. -/
def mulFx (p : Nat) (a b : Int) : Int := a * b / (2 ^ p : Nat)

/-- Sum over odd k of term / k, where each term is the last times `z2`; `alt` alternates the signs. -/
def oddSeries (p : Nat) (z2 : Int) (alt : Bool) : Nat → Int → Nat → Int → Int
  | 0, _, _, acc => acc
  | n + 1, term, k, acc =>
    if term = 0 then acc
    else
      let t := mulFx p term z2
      oddSeries p z2 alt n (if alt then -t else t) (k + 2) (acc + term / (k : Int))

/-- atanh z, for a small z. -/
def atanhFx (p : Nat) (z : Int) : Int := oddSeries p (mulFx p z z) false p z 1 0
/-- atan z, for a small z. -/
def atanSmall (p : Nat) (z : Int) : Int := oddSeries p (mulFx p z z) true p z 1 0

/-- A quotient of naturals. -/
def ratio (p m n : Nat) : Int := ((m * 2 ^ p / n : Nat) : Int)

/-- ln 2. -/
def ln2Fx (p : Nat) : Int := 2 * atanhFx p (ratio p 1 3)

/-- ln of m / 2^(log2 m), a number of [1, 2). -/
def lnUnit (p m : Nat) : Int := 2 * atanhFx p (ratio p (m - 2 ^ m.log2) (m + 2 ^ m.log2))

/-- ln (m · 2^e) for m > 0. -/
def lnFx (p m : Nat) (e : Int) : Int := (e + m.log2) * ln2Fx p + lnUnit p m

/-- π. -/
def piFx (p : Nat) : Int := 4 * (4 * atanSmall p (ratio p 1 5) - atanSmall p (ratio p 1 239))

/-- z / (1 + sqrt(1 + z²)), the tangent of half the angle. -/
def halfAngle (p : Nat) (z : Int) : Int :=
  let one : Int := (2 ^ p : Nat)
  let r : Int := (isqrt ((one + mulFx p z z).toNat * 2 ^ p) : Nat)
  z * one / (one + r)

/-- atan z for 0 ≤ z ≤ 1. -/
def atanFx (p : Nat) (z : Int) : Int := 4 * atanSmall p (halfAngle p (halfAngle p z))

/-- Sum of term, term·y/(k+1), ..., the terms of exp from `term` on. -/
def expSeries (p : Nat) (y : Int) : Nat → Int → Nat → Int → Int
  | 0, _, _, acc => acc
  | n + 1, term, k, acc =>
    if term = 0 then acc else expSeries p y n (mulFx p term y / (k : Int)) (k + 1) (acc + term)
def expFx (p : Nat) (y : Int) : Int := expSeries p y p ((2 ^ p : Nat) : Int) 1 0

/-- Terms of sine (from `k` = 1) and cosine (from `k` = 0), each the last times -r2 / ((k+1)(k+2)). -/
def trigSeries (p : Nat) (r2 : Int) : Nat → Int → Nat → Int → Int
  | 0, _, _, acc => acc
  | n + 1, term, k, acc =>
    if term = 0 then acc
    else trigSeries p r2 n (-(mulFx p term r2) / (((k + 1) * (k + 2) : Nat) : Int)) (k + 2) (acc + term)

/-- sin(x + shift · π/2) for x = (-1)^neg · m · 2^e, by exact reduction with π to 160 bits more (R98). -/
def sinFx (p : Nat) (neg : Bool) (m : Nat) (e : Int) (shift : Nat) : Int :=
  let q := p + 160
  let half := piFx q / 2
  let x : Int := if e ≥ 0 then (m * 2 ^ (e.toNat + q) : Nat)
    else if (-e).toNat ≤ q then (m * 2 ^ (q - (-e).toNat) : Nat) else (m / 2 ^ ((-e).toNat - q) : Nat)
  let xs := if neg then -x else x
  let n := xs / half
  let r := xs - n * half
  let quarter := ((n + shift) % 4).toNat
  let r2 := mulFx q r r
  let v := if quarter % 2 = 0 then trigSeries q r2 q r 1 0 else trigSeries q r2 q ((2 ^ q : Nat) : Int) 0 0
  (if quarter ≥ 2 then -v else v) / (2 ^ 160 : Nat)

/-! ## The functions -/

def nanF32 : Nat := 0x7FC00000
def infF32 (neg : Bool) : Nat := if neg then 0xFF800000 else 0x7F800000
def zeroF32 (neg : Bool) : Nat := if neg then 0x80000000 else 0
def oneF32 : Nat := 0x3F800000

/-- FRCP (R98). -/
def rcpF32 (a : Nat) : Nat := divF32 oneF32 a

/-- FRSQ (R98): ±0 gives ±infinity, +infinity +0. -/
def rsqF32 (a : Nat) : Nat :=
  match decF32 a with
  | .nan => nanF32
  | .inf neg => if neg then nanF32 else 0
  | .fin neg m e =>
    if m = 0 then infF32 neg
    else if neg then nanF32
    else roundF32 (Num.sqrt (Num.div (.fin false 1 0) (.fin false m e)))

/-- FEXP2 (R98): beyond ±200 the result overflows or rounds to +0 as it does at ±200. -/
def exp2F32 (a : Nat) : Nat :=
  match decF32 a with
  | .nan => nanF32
  | .inf neg => if neg then 0 else infF32 false
  | .fin neg m e =>
    let whole := roundInt .rdn neg m e
    if ofInt whole |>.cmp (.fin neg m e) |> (· == some .eq) then roundF32 (.fin false 1 (max (-200) (min 200 whole)))
    else if whole > 200 || whole < -200 then roundF32 (.fin false 1 (max (-200) (min 200 whole)))
    else
      settled fun p =>
        let x : Int := roundInt .rdn neg m (e + p)
        let frac := x - whole * (2 ^ p : Nat)
        let v := expFx p (mulFx p frac (ln2Fx p))
        if whole ≥ 0 then v * (2 ^ whole.toNat : Nat) else v / (2 ^ (-whole).toNat : Nat)

/-- FLOG2 (R98): exact at powers of two. -/
def log2F32 (a : Nat) : Nat :=
  match decF32 a with
  | .nan => nanF32
  | .inf neg => if neg then nanF32 else infF32 false
  | .fin neg m e =>
    if m = 0 then infF32 true
    else if neg then nanF32
    else if m = 2 ^ m.log2 then roundF32 (ofInt (e + m.log2))
    else settled fun p => (e + m.log2) * (2 ^ p : Nat) + lnUnit p m * (2 ^ p : Nat) / ln2Fx p

/-- FSIN and FCOS (R98). -/
def sinF32 (a : Nat) : Nat :=
  match decF32 a with
  | .nan | .inf _ => nanF32
  | .fin neg m e => if m = 0 then zeroF32 neg else settled fun p => sinFx p neg m e 0
def cosF32 (a : Nat) : Nat :=
  match decF32 a with
  | .nan | .inf _ => nanF32
  | .fin neg m e => if m = 0 then oneF32 else settled fun p => sinFx p neg m e 1

/-- FLDEXP (R98): a · 2^b rounded in a mode; beyond ±400 every result is that at ±400. -/
def ldexpF32 (mode : Rnd) (a : Nat) (b : Int) : Nat :=
  match decF32 a with
  | .nan => nanF32
  | .inf neg => infF32 neg
  | .fin neg m e => roundF fF32 (.fin neg m (e + max (-400) (min 400 b))) mode false

/-- ln sqrt(u.re² + u.im²) (R197): ln 0 is -infinity. -/
def lnAbs (re im : Nat) : Nat :=
  match Num.add .rne (Num.mul (decF32 re) (decF32 re)) (Num.mul (decF32 im) (decF32 im)) with
  | .nan => nanF32
  | .inf _ => infF32 false
  | .fin _ m e =>
    if m = 0 then infF32 true
    else if m = 2 ^ m.log2 && e + m.log2 == 0 then 0
    else settled fun p => lnFx p m e / 2

/-- A multiple q/4 of π with a sign, correctly rounded. -/
def quarterPi (neg : Bool) (q : Nat) : Nat :=
  if q = 0 then zeroF32 neg else settled fun p => (if neg then -1 else 1) * (piFx p * q / 4)

/-- atan2 with the special values of IEEE 754 (R197). -/
def atan2F32 (y x : Nat) : Nat :=
  match decF32 y, decF32 x with
  | .nan, _ => nanF32
  | _, .nan => nanF32
  | .inf a, .inf b => quarterPi a (if b then 3 else 1)
  | .inf a, .fin .. => quarterPi a 2
  | .fin a _ _, .inf b => quarterPi a (if b then 4 else 0)
  | .fin a m e, .fin b n f =>
    if m = 0 then quarterPi a (if b then 4 else 0)
    else if n = 0 then quarterPi a 2
    else
      let lo := min e f
      let ay := m * 2 ^ (e - lo).toNat
      let ax := n * 2 ^ (f - lo).toNat
      settled fun p =>
        let t := if ay ≤ ax then atanFx p (ratio p ay ax) else piFx p / 2 - atanFx p (ratio p ax ay)
        let v := if b then piFx p - t else t
        if a then -v else v

end Sys2Proof.Machine
end

