-- ==== Sys2Proof/Machine/Series.lean ====
section
/-! DEFINITION. Arithmetic of the expansion unit (R197, R203 to R206, R209, R210): complex numbers of .f32 parts, each
RoundF32 one fused operation. -/

namespace Sys2Proof.Machine

/-- A .c32 by its patterns. -/
abbrev C32 := Nat × Nat

def cZero : C32 := (0, 0)
def cAdd (u v : C32) : C32 := (addF32 u.1 v.1, addF32 u.2 v.2)
def cSub (u v : C32) : C32 := (subF32 u.1 v.1, subF32 u.2 v.2)
def cNeg (u : C32) : C32 := (negF32 u.1, negF32 u.2)
/-- RoundF32(Exact(a - u·v)). -/
def fmsF32 (a u v : Nat) : Nat := roundF32 (Num.add .rne (decF32 a) (Num.mul (decF32 u) (decF32 v)).neg)
def cMac (acc u v : C32) : C32 :=
  (fmsF32 (fmaF32 u.1 v.1 acc.1) u.2 v.2, fmaF32 u.2 v.1 (fmaF32 u.1 v.2 acc.2))
def cMul (u v : C32) : C32 := cMac cZero u v
/-- `g` a real number, as an exact value. -/
def rMac (acc : C32) (g : Num) (u : C32) : C32 :=
  (roundF32 (Num.add .rne (decF32 acc.1) (Num.mul g (decF32 u.1))),
   roundF32 (Num.add .rne (decF32 acc.2) (Num.mul g (decF32 u.2))))
def rScale (g : Nat) (u : C32) : C32 :=
  (roundF32 (Num.mul (ofInt g) (decF32 u.1)), roundF32 (Num.mul (ofInt g) (decF32 u.2)))
def rDiv (u : C32) (l : Nat) : C32 :=
  (roundF32 (Num.div (decF32 u.1) (ofInt l)), roundF32 (Num.div (decF32 u.2) (ofInt l)))
/-- A zero divisor gives CanonNaN parts. -/
def cRcp (u : C32) : C32 :=
  let n := Num.add .rne (Num.mul (decF32 u.1) (decF32 u.1)) (Num.mul (decF32 u.2) (decF32 u.2))
  (roundF32 (Num.div (decF32 u.1) n), roundF32 (Num.div (decF32 u.2).neg n))
def cLog (u : C32) : C32 := (lnAbs u.1 u.2, atan2F32 u.2 u.1)

/-- The powers 0 to p of a number, each the last times it. -/
def cPowers (u : C32) : Nat → List C32
  | 0 => [(oneF32, 0)]
  | n + 1 =>
    let w := cPowers u n
    w ++ [cMul (w.getLastD cZero) u]

/-- A number of a list. -/
def cAt (l : List C32) (k : Nat) : C32 := l.getD k cZero

/-- (-1)^k · B(n, m) (R69). -/
def signedBinom (k n m : Nat) : Num :=
  let b := decF32 (binomF32 n m)
  if k % 2 = 1 then b.neg else b
/-- (-1)^k. -/
def signedOne (k : Nat) : Num := .fin (k % 2 == 1) 1 0

/-- R203. -/
def xshiftSeries (sc d : List C32) (z0 : C32) (p : Nat) : List C32 :=
  let w := cPowers z0 p
  (range 0 (p + 1)).map fun l =>
    if l = 0 then cAdd (cAt d 0) (cAt sc 0)
    else
      let t := (range 1 l).foldl (fun t k => rMac t (signedBinom 0 (l - 1) (k - 1)) (cMul (cAt sc k) (cAt w (l - k))))
        (cMul (rDiv (cNeg (cAt sc 0)) l) (cAt w l))
      cAdd (cAt d l) t

/-- R204. -/
def xm2lSeries (sc d : List C32) (z0 : C32) (p : Nat) : List C32 :=
  let y := cPowers (cRcp z0) p
  let sy (k : Nat) : C32 := cMul (cAt sc k) (cAt y k)
  (range 0 (p + 1)).map fun l =>
    if l = 0 then
      cAdd (cAt d 0) ((range 1 p).foldl (fun t k => rMac t (signedOne k) (sy k)) (cMul (cAt sc 0) (cLog (cNeg z0))))
    else
      let u := (range 1 p).foldl (fun u k => rMac u (signedBinom k (l + k - 1) (k - 1)) (sy k)) cZero
      cAdd (cAt d l) (cMac (cMul (rDiv (cNeg (cAt sc 0)) l) (cAt y l)) u (cAt y l))

/-- R205. -/
def xl2lSeries (sc d : List C32) (z0 : C32) (p : Nat) : List C32 :=
  let w := cPowers z0 p
  (range 0 (p + 1)).map fun l =>
    cAdd (cAt d l) ((range (l + 1) (p - l)).foldl
      (fun t k => rMac t (signedBinom 0 k l) (cMul (cAt sc k) (cAt w (k - l)))) (cAt sc l))

/-- The terms of XFORM from `k` on for a source of strength `c` at distance `d`; `w` is d^k (R209). -/
def formTerms (c : Nat) (d : C32) (p : Nat) : Nat → Nat → C32 → List C32 → List C32
  | 0, _, _, _ => []
  | n + 1, k, w, e =>
    rMac (cAt e k) (decF32 (roundF32 (Num.div (decF32 c).neg (ofInt k)))) w ::
      formTerms c d p n (k + 1) (if k < p then cMul w d else w) e

/-- One thread's source added to coefficients 0 to p of a multipole (R209). -/
def formSource (e : List C32) (centre : C32) (p x y c : Nat) : List C32 :=
  let d := cSub (x, y) centre
  (addF32 (cAt e 0).1 c, (cAt e 0).2) :: formTerms c d p p 1 d e

/-- Horner's rule from coefficient `k` down to `lo`, `n` steps left (R210). -/
def hornerP (b : List C32) (d : C32) : Nat → C32 → C32
  | 0, acc => acc
  | k + 1, acc => hornerP b d k (cMac (cAt b k) acc d)
def hornerD (b : List C32) (d : C32) : Nat → C32 → C32
  | 0, acc => acc
  | k + 1, acc => if k = 0 then acc else hornerD b d k (cMac (rScale k (cAt b k)) acc d)

/-- The potential and the derivative of a local expansion at a point (R210). -/
def evalLocal (b : List C32) (centre : C32) (p x y : Nat) : C32 × C32 :=
  let d := cSub (x, y) centre
  (hornerP b d p (cAt b p), if p = 0 then cZero else hornerD b d p (rScale p (cAt b p)))

end Sys2Proof.Machine
end

