-- ==== Sys2Proof/Machine/Expand.lean ====
section
/-! DEFINITION. The control instructions of the expansion unit (R193 to R207, R215). -/

namespace Sys2Proof.Machine

/-- The expansion register of a block. -/
def Block.ereg (b : Block) (e : EReg) : ExpReg := b.eregs.get e
def State.setEreg (s : State) (b : Nat) (e : EReg) (r : ExpReg) : State :=
  s.updBlk b fun k => { k with eregs := k.eregs.set e r }

/-- A pattern as a .f32 number, a .c32 of a 64-bit number, and back. -/
def w32 (n : Nat) : W32 := BitVec.ofNat 32 n
def c32Of (n : Nat) : W32 × W32 := (w32 n, w32 (n / 2 ^ 32))
def natC (u : W32 × W32) : C32 := (u.1.toNat, u.2.toNat)
def ofC (u : C32) : W32 × W32 := (w32 u.1, w32 u.2)
/-- The coefficients of a register. -/
def ExpReg.series (r : ExpReg) : List C32 := r.coef.toList.map natC
/-- A register with its first coefficients replaced. -/
def ExpReg.withSeries (r : ExpReg) (l : List C32) : ExpReg :=
  { r with coef := r.coef.mapFinIdx fun i x _ => match l[i]? with | some u => ofC u | none => x }

/-- A pattern is finite. -/
def finiteF32 (w : W32) : Bool := bitsOf w.toNat 30 23 != 255
/-- A radius: finite and not negative (R194, R200). -/
def radiusOk (w : W32) : Bool := finiteF32 w && (!w.getLsbD 31 || w == 0x80000000)
/-- A radius as it is kept: -0 is stored as +0 (R200). -/
def radiusOf (w : W32) : W32 := if w == 0x80000000 then 0 else w

/-- The unit's instructions need `xunit` (R47, R215) and wait for the shuttle's runs (R198). -/
def State.onUnit (s : State) (w : Who) (k : State) : State := s.needFeature w 4 (s.whenDrained w k)

/-- A trap whose record names an expansion register (R199, R202). -/
def State.trapE (s : State) (w : Who) (cause : Nat) (e : EReg) : State := s.raise w { cause := cause, tile := some e.val }

/-- Only the owner writes a register (R199). -/
def State.onOwned (s : State) (w : Who) (e : EReg) (k : State) : State :=
  if (w.blk.ereg e).owner == some w.sh.idx then k else s.trapE w 0x0E6 e

/-- XCLR (R200). -/
def execXclr (e : EReg) (a b : SReg) (s : State) : Host.Outcome State Fault Refusal :=
  onCur s fun w => s.onUnit w (s.onOwned w e (
    let centre := c32Of (w.sh.readS a).toNat
    let d := (w.sh.readS b).toNat
    let radius := w32 d
    if !finiteF32 centre.1 || !finiteF32 centre.2 then s.trapE w 0x0FA e
    else if bitsOf d 63 34 != 0 || bitsOf d 33 32 == 3 || !radiusOk radius then s.trapE w 0x0FB e
    else
      (s.setEreg w.b e { w.blk.ereg e with
        kind := bitsOf d 33 32, centre := centre, radius := radiusOf radius,
        coef := Vector.replicate 32 (0, 0) }).complete w id))

/-- The three translations (R202): the kinds of es and ed, whether z0 is the difference from ed, the series. -/
def State.translateE (s : State) (w : Who) (d e : EReg) (o : OReg) (ks kd : Nat) (fromD : Bool)
    (f : List C32 → List C32 → C32 → Nat → List C32) : State :=
  s.onUnit w (
    if d = e then s.trapE w 0x0F9 d
    else s.onOwned w d (
      let es := w.blk.ereg e
      let ed := w.blk.ereg d
      if es.kind != ks || ed.kind != kd then s.trapE w 0x0EE d
      else
        let p := (w.blk.oregs.get o).toNat
        let z0 := if fromD then cSub (natC ed.centre) (natC es.centre) else cSub (natC es.centre) (natC ed.centre)
        (s.setEreg w.b d (ed.withSeries (f es.series ed.series z0 p))).complete w id))

def execXshift (d e : EReg) (o : OReg) (s : State) : Host.Outcome State Fault Refusal :=
  onCur s fun w => s.translateE w d e o 1 1 false xshiftSeries
def execXm2l (d e : EReg) (o : OReg) (s : State) : Host.Outcome State Fault Refusal :=
  onCur s fun w => s.translateE w d e o 1 2 false xm2lSeries
def execXl2l (d e : EReg) (o : OReg) (s : State) : Host.Outcome State Fault Refusal :=
  onCur s fun w => s.translateE w d e o 2 2 true xl2lSeries

/-- The square of an exact value. -/
def Num.sq (x : Num) : Num := x.mul x

/-- The exact test of XADM (R206). -/
def admissible (ea eb : ExpReg) (theta : Nat) : Bool :=
  let dec (x : W32) : Num := decF32 x.toNat
  let diff (x y : W32) : Num := Num.add .rne (dec x) (dec y).neg
  let lhs := Num.mul (decF32 theta).sq
    (Num.add .rne (diff ea.centre.1 eb.centre.1).sq (diff ea.centre.2 eb.centre.2).sq)
  let rhs := (Num.add .rne (dec ea.radius) (dec eb.radius)).sq
  match Num.cmp lhs rhs with
  | some .lt => false
  | some .eq | some .gt => true
  | none => false

/-- XADM (R206). -/
def execXadm (k : KReg) (a b : SReg) (s : State) : Host.Outcome State Fault Refusal :=
  onCur s fun w => s.onUnit w (
    let pair := (w.sh.readS a).toNat
    let th := (w.sh.readS b).toNat
    if bitsOf pair 7 5 != 0 || bitsOf pair 63 13 != 0 then s.trap w 0x0FA
    else if th ≥ 2 ^ 31 || th == 0 || !finiteF32 (w32 th) then s.trap w 0x0FB
    else s.complete w (·.writeK k
      (admissible (w.blk.ereg (Fin.ofNat 32 pair)) (w.blk.ereg (Fin.ofNat 32 (pair / 256))) th)))

/-- A register's 272-byte image (R196). -/
def ExpReg.image (r : ExpReg) : List Byte :=
  let c (u : W32 × W32) : List Byte := leBytes 4 u.1.toNat ++ leBytes 4 u.2.toNat
  r.coef.toList.flatMap c ++ c r.centre ++ leBytes 4 r.radius.toNat ++ leBytes 4 r.kind

/-- The register that an image gives, or none where the image is malformed (R207); every field is kept as loaded. -/
def ExpReg.load (r : ExpReg) (bs : List Byte) : Option ExpReg :=
  let at_ (i : Nat) : W32 × W32 := c32Of (leNat ((bs.drop i).take 8))
  let tail := leNat ((bs.drop 264).take 8)
  let centre := at_ 256
  if bitsOf tail 63 34 != 0 || bitsOf tail 33 32 == 3 || !finiteF32 centre.1 || !finiteF32 centre.2 ||
      !radiusOk (w32 tail) then none
  else some { r with kind := bitsOf tail 33 32, centre := centre, radius := w32 tail, coef := Vector.ofFn fun i => at_ (8 * i.val) }

/-- A global range of an image: the alignment (R207; that it comes before the range check is a DESIGN CHOICE, log 90), then
the checks at its two ends, which may lie in two pages (R284), then the physical address of each of its 272 bytes. -/
def State.accessImage (s : State) (w : Who) (write : Bool) (va : Nat) (k : (Nat → Nat) → State) : State :=
  if va % 16 != 0 then s.raise w { cause := 0x04D, tmask := 1, addr := va }
  else
  match s.check w.blk.site w.blk.ctx w.sh.fatalPages write 5 16 [(0, va), (0, va + 256)] with
  | .trap c _ a => s.raise w { cause := c, tmask := 1, addr := a }
  | .wait ps => s.waitsOn w ps
  | .go pas =>
    let lo := (pas.headD (0, 0)).2
    let hi := (pas.getLastD (0, 0)).2
    let at_ (i : Nat) : Nat := if (va + i) / 65536 == va / 65536 then lo + i else hi + i - 256
    let all := (range 0 17).map fun i => (0, at_ (16 * i))
    if all.any fun e => s.farGone e.2 then s.raise w { cause := 0x1CD, tmask := 1, addr := va }
    else if !write && !(s.poisoned all).isEmpty then
      (s.findBad (all.map fun e => e.2 / 64)).raise w { cause := 0x075, tmask := 1, addr := va }
    else k at_

/-- The A range of an image (R207). -/
def State.onImageA (s : State) (w : Who) (off : Nat) (k : State) : State :=
  if off % 16 != 0 then s.raise w { cause := 0x08D, tmask := 1, addr := off }
  else if off + 272 > w.blk.a.bytes then s.raise w { cause := 0x085, tmask := 1, addr := off }
  else k

/-- XLD's last check and its effect (R207). -/
def State.loadE (s : State) (w : Who) (e : EReg) (bs : List Byte) : State :=
  match (w.blk.ereg e).load bs with
  | none => s.trapE w 0x0FD e
  | some r => (s.setEreg w.b e r).complete w id

/-- XLD (R207). -/
def execXld (e : EReg) (a : SReg) (local_ : Bool) (s : State) : Host.Outcome State Fault Refusal :=
  onCur s fun w => s.onUnit w (s.onOwned w e (
    let va := (w.sh.readS a).toNat
    if local_ then s.onImageA w (va % 2 ^ 32) (s.loadE w e (w.blk.a.readN (va % 2 ^ 32) 272))
    else s.accessImage w false va fun at_ =>
      s.loadE w e ((range 0 272).map fun i => s.viewByte w.blk.site w.blk.core (at_ i))))

/-- XST (R207) needs no ownership. -/
def execXst (e : EReg) (a : SReg) (local_ : Bool) (s : State) : Host.Outcome State Fault Refusal :=
  onCur s fun w => s.onUnit w (
    let va := (w.sh.readS a).toNat
    let img := (w.blk.ereg e).image
    if local_ then s.onImageA w (va % 2 ^ 32) ((s.writeStore w.b false (va % 2 ^ 32) img).complete w id)
    else s.accessImage w true va fun at_ =>
      (s.postLines (mkPosted w.h w.blk w.sh.pc.toNat va 1 none (s.compressedAt w.blk.site w.blk.ctx va))
        (intoLines (img.zipIdx.map fun (b, i) => (va + i, at_ i, b)))).complete w id)

/-- XOWN.take (R199). -/
def execXownTake (k : KReg) (e : EReg) (s : State) : Host.Outcome State Fault Refusal :=
  onCur s fun w => s.onUnit w (
    let r := w.blk.ereg e
    match r.owner with
    | none => (s.setEreg w.b e { r with owner := some w.sh.idx }).complete w (·.writeK k true)
    | some i => s.complete w (·.writeK k (i == w.sh.idx)))

/-- XOWN.rel (R199). -/
def execXownRel (e : EReg) (s : State) : Host.Outcome State Fault Refusal :=
  onCur s fun w => s.onUnit w (s.onOwned w e (
    (s.setEreg w.b e { w.blk.ereg e with owner := none }).complete w id))

/-- ORD (R201). -/
def execOrd (o : OReg) (a : SReg) (s : State) : Host.Outcome State Fault Refusal :=
  onCur s fun w => s.onUnit w (
    let v := (w.sh.readS a).toNat
    if v ≥ 32 then s.trap w 0x0FA
    else (s.updBlk w.b fun b => { b with oregs := b.oregs.set o (BitVec.ofNat 5 v) }).complete w id)

end Sys2Proof.Machine
end

