-- ==== Sys2Proof/Machine/Operands.lean ====
section
/-! DEFINITION. Lane instructions: the run in progress, guards, operands at every level, destinations, the latch and the
renamed main file (R72, R78 to R80, R87 to R90). -/

namespace Sys2Proof.Machine

/-! ## The run in progress -/

/-- The oldest run of a shuttle changed. -/
def Shuttle.updHead (sh : Shuttle) (f : Run → Run) : Shuttle :=
  match sh.queue with
  | [] => sh
  | r :: rs => { sh with queue := f r :: rs }

/-- A lane instruction: its effect on the shuttle and its oldest run. -/
def onLane (s : State) (f : Who → Run → State) : Host.Outcome State Fault Refusal :=
  match s.who? with
  | none => .fault .noShuttle
  | some w =>
    match w.sh.queue with
    | [] => .fault .noRun
    | r :: _ => .next (f w r)

/-- The selected threads (R87). -/
def guardOf (sh : Shuttle) (hd : Head) : BitVec 8 := if hd.neg then ~~~(sh.readM hd.mask) else sh.readM hd.mask

/-- The threads of a mask, ascending. -/
def threadsOf (g : BitVec 8) : List Nat := (range 0 8).filter fun t => maskBit g t

/-! ## Reading (R88) -/

/-- An unpredictable value drawn in this step (R79, R72): `pos` tells the reads of one instruction apart. -/
def freeAt (s : State) (pos t : Nat) : Nat := (Config.freeWord s.tick (16 * pos + t)).toNat

/-- A word of a line by thread. -/
def Line.at (l : Line) (t : Nat) : Nat := (l.toList.getD t 0).toNat

/-- Thread t's word of v*n*: of its line, or unpredictable when the name is unbound (R79). -/
def readMain (s : State) (sh : Shuttle) (n : Fin 256) (pos t : Nat) : Nat :=
  match sh.v.get n with
  | some l => Line.at l t
  | none => freeAt s pos t

/-- Read(x, t) of R88. -/
def readSrc (s : State) (sh : Shuttle) (r : Run) (x : LSrc) (pos t : Nat) : Nat :=
  match x with
  | .main n _ => readMain s sh n pos t
  | .opf n => Line.at (sh.q.get n) t
  | .lat => if maskBit sh.latOk t then Line.at sh.lat t else freeAt s pos t
  | .uni n => (r.caps.get n).toNat % 2 ^ 32
  | .imm v => v.toNat

/-- The names that a source releases: a main-level source with its last-read bit (R80). -/
def LSrc.released : LSrc → List (Fin 256)
  | .main n true => [n]
  | .main _ false | .opf _ | .lat | .uni _ | .imm _ => []

/-- A name unbound by a last-read bit; its line returns to the pool when the run ends (R80). -/
def releaseName (n : Fin 256) (sh : Shuttle) : Shuttle :=
  if (sh.v.get n).isSome then { sh with v := sh.v.set n none }.updHead fun r => { r with freed := r.freed + 1 } else sh

/-- The releases of an instruction, whether or not its guard selects a thread (R78, R80). -/
def release (srcs : List LSrc) (sh : Shuttle) : Shuttle :=
  (srcs.flatMap LSrc.released).foldl (fun x n => releaseName n x) sh

/-! ## Writing (R89) -/

/-- A line with one thread's word replaced. -/
def Line.put (l : Line) (t : Nat) (x : Nat) : Line := l.setIfInBounds t (BitVec.ofNat 32 x)

/-- v*n* bound before a write: a line set aside, or the line released in this run, whose other threads hold unpredictable
values (R79, R90). -/
def bindName (s : State) (n : Fin 256) (sh : Shuttle) : Shuttle :=
  match sh.v.get n with
  | some _ => sh
  | none =>
    { sh with v := sh.v.set n (some (Vector.ofFn fun t => Config.freeWord s.tick (4096 + 8 * n.val + t.val))) }.updHead
      fun r => if r.aside > 0 then { r with aside := r.aside - 1 } else { r with freed := r.freed - 1 }

/-- Thread t's word of v*n* written. -/
def putMain (s : State) (n : Fin 256) (t x : Nat) (sh : Shuttle) : Shuttle :=
  let sh1 := bindName s n sh
  { sh1 with v := sh1.v.set n ((sh1.v.get n).map fun l => Line.put l t x) }

/-- Thread t's latch (R72). -/
def putLat (t x : Nat) (sh : Shuttle) : Shuttle :=
  { sh with lat := Line.put sh.lat t x, latOk := setMaskBit sh.latOk t true }

/-- Write(dst, t, x) with the latch (R87, R89). -/
def putDst (s : State) (d : LDst) (t x : Nat) (sh : Shuttle) : Shuttle :=
  putLat t x (match d with
    | .main n => putMain s n t x sh
    | .opf n => { sh with q := sh.q.set n (Line.put (sh.q.get n) t x) }
    | .lat => sh)

/-- The words of a group of registers from v*n* up; the latch receives the lowest (R72, R89, R153). -/
def putGroup (s : State) (n : Fin 256) (t : Nat) (sh : Shuttle) : List Nat → Nat → Shuttle
  | [], _ => sh
  | x :: xs, i =>
    let sh1 := putMain s (Fin.ofNat 256 (n.val + i)) t x sh
    putGroup s n t (if i = 0 then putLat t x sh1 else sh1) xs (i + 1)

/-- Every selected thread's write, ascending (R87). -/
def putEach (g : BitVec 8) (f : Nat → Shuttle → Shuttle) (sh : Shuttle) : Shuttle :=
  (threadsOf g).foldl (fun x t => f t x) sh

/-- The instruction is complete: the run goes on at its next word (R71). -/
def Run.onward (r : Run) : Run := { r with off := r.off + 1, since := none, pages := [], fatal := [], gone := [], repl := none, half := none }

/-- A lane instruction completes: its last-read names are released, then its writes are made (R80, R90). -/
def State.laneDone (s : State) (w : Who) (srcs : List LSrc) (f : Shuttle → Shuttle) : State :=
  s.updSh w.h fun sh => (f (release srcs sh)).updHead Run.onward

/-! ## The common shape (R87) -/

/-- The words that the sources give a thread, in the order a, b, c. -/
def readAll (s : State) (w : Who) (r : Run) (srcs : List LSrc) (t : Nat) : List Nat :=
  srcs.zipIdx.map fun (x, i) => readSrc s w.sh r x i t

/-- An instruction that computes one word for each selected thread from that thread's operands. -/
def laneMap (s : State) (hd : Head) (d : LDst) (srcs : List LSrc) (f : List Nat → Nat) :
    Host.Outcome State Fault Refusal :=
  onLane s fun w r =>
    s.laneDone w srcs (putEach (guardOf w.sh hd) fun t => putDst s d t (f (readAll s w r srcs t)))

/-- Functions of one, two and three operands on a thread's words. -/
def fn1 (f : Nat → Nat) (xs : List Nat) : Nat := f (xs.getD 0 0)
def fn2 (f : Nat → Nat → Nat) (xs : List Nat) : Nat := f (xs.getD 0 0) (xs.getD 1 0)
def fn3 (f : Nat → Nat → Nat → Nat) (xs : List Nat) : Nat := f (xs.getD 0 0) (xs.getD 1 0) (xs.getD 2 0)

/-! ## Elements (R50) -/

/-- Element `i` of width `n` of a word. -/
def elemAt (n i x : Nat) : Nat := x / 2 ^ (n * i) % 2 ^ n

/-- A function applied to every element of width `n`; the results stand where the operands stood. -/
def perElem (n : Nat) (f : List Nat → Nat) (xs : List Nat) : Nat :=
  ((range 0 (32 / n)).map fun i => f (xs.map (elemAt n i)) % 2 ^ n * 2 ^ (n * i)).foldl (· + ·) 0

/-- The width and the signedness of class I (R37). -/
def iWidth : IType → Nat
  | .s32 | .n32 => 32
  | .s16x2 | .n16x2 => 16
  | .s8x4 | .n8x4 => 8
def iSigned : IType → Bool
  | .s32 | .s16x2 | .s8x4 => true
  | .n32 | .n16x2 | .n8x4 => false
/-- An element's value. -/
def iVal (t : IType) (x : Nat) : Int := if iSigned t then toSigned (iWidth t) x else (x : Int)

/-- The width of class F (R37). -/
def fWidth : FType → Nat
  | .f32 => 32
  | .f16x2 | .bf16x2 => 16

end Sys2Proof.Machine
end

