-- ==== Sys2Proof/Machine/LaneConv.lean ====
section
/-! DEFINITION. Lane conversions and block quantisation (R99 to R102). -/

namespace Sys2Proof.Machine

/-- Width in bits of a format (R52). -/
def fmtBits : Fmt → Nat
  | .s8 | .n8 | .e4m3 | .e5m2 => 8
  | .s16 | .n16 | .f16 | .bf16 => 16
  | .s32 | .n32 | .f32 => 32
  | .e2m1 => 4

/-- A format's value in a register: copies of the sign above .s8 and .s16, zeros above the others (R99, R153). -/
def extendFmt (f : Fmt) (x : Nat) : Nat :=
  match f with
  | .s8 => (toSigned 8 x % (2 ^ 32 : Nat)).toNat
  | .s16 => (toSigned 16 x % (2 ^ 32 : Nat)).toNat
  | .s32 | .n8 | .n16 | .n32 | .f32 | .f16 | .bf16 | .e4m3 | .e5m2 | .e2m1 => x

/-- CVT (R99). -/
def execLCvt (hd : Head) (df sf : Fmt) (r : Rnd) (sat : Bool) (d : LDst) (a : LSrc) (s : State) :=
  laneMap s hd d [a] (fn1 fun x => extendFmt df (convert df sf r sat x))

/-- CVTPK (R100). -/
def execLCvtpk (hd : Head) (df sf : Fmt) (r : Rnd) (sat : Bool) (d : LDst) (a b : LSrc) (s : State) :=
  laneMap s hd d [a, b] (fn2 fun x y => convert df sf r sat x + 2 ^ fmtBits df * convert df sf r sat y)

/-- SpecialOn (R101): neither zero nor an .e4m3 NaN. -/
def specialOn (v : Nat) : Bool := v != 0 && v % 128 != 127

/-- |x - u| for the quotient x = a / b of exact values, times |b|: what QBLK compares (R101). -/
def distance (a b u : Num) : Num :=
  match Num.add .rne a (Num.mul u b).neg with
  | .nan => .nan
  | .inf _ => .inf false
  | .fin _ m e => .fin false m e

/-- QBLK (R101). -/
def qblk (df : Fmt) (r : Rnd) (sat : Bool) (a b : Nat) : Nat :=
  match ffmtOf df with
  | none => 0
  | some f =>
    let v := decF32 a
    let sc := decodeF fBf16 (bitsOf b 31 16)
    let x := Num.div v sc
    let g := roundF f x r sat
    let finite : Bool := match x with | .fin .. => true | .nan | .inf _ => false
    if df == .e2m1 && finite && specialOn (bitsOf b 15 8) &&
        Num.cmp (distance v sc (decodeF fE4m3 (bitsOf b 15 8))) (distance v sc (decodeF fE2m1 g)) == some .lt then 8
    else g
def execLQblk (hd : Head) (df : Fmt) (r : Rnd) (sat : Bool) (d : LDst) (a b : LSrc) (s : State) :=
  laneMap s hd d [a, b] (fn2 (qblk df r sat))

/-- DQBLK (R102). -/
def dqblk (sf : Fmt) (a b : Nat) : Nat :=
  let sp := bitsOf b 15 8
  roundF32 (Num.mul (elemValue sf (if specialOn sp then some sp else none) a) (decodeF fBf16 (bitsOf b 31 16)))
def execLDqblk (hd : Head) (sf : Fmt) (d : LDst) (a b : LSrc) (s : State) := laneMap s hd d [a, b] (fn2 (dqblk sf))

end Sys2Proof.Machine
end

