-- ==== Sys2Proof/Machine/ScalarMem.lean ====
section
/-! DEFINITION. Scalar loads and stores (R127, R128) and the atomics of the control stream (R289, R291, R292). -/

namespace Sys2Proof.Machine

/-! ## Scalar loads and stores -/

def ldsUSize : LdsU → Nat
  | .n8 => 1 | .n16 => 2 | .n32 => 4 | .b64 => 8
def ldsSSize : LdsS → Nat
  | .s8 => 1 | .s16 => 2 | .s32 => 4
/-- A loaded value: sign-extended for .s types, zero-extended otherwise (R127). -/
def extendBytes (signed : Bool) (bs : List Byte) : W64 :=
  if signed then BitVec.ofInt 64 (toSigned (8 * bs.length) (leNat bs)) else BitVec.ofNat 64 (leNat bs)

/-- The byte address sa + sext64(imm12) (R127). -/
def scalarAddr (sh : Shuttle) (a : SReg) (i : BitVec 12) : Nat := (sh.readS a + imm64 i).toNat

def execLdsG (d a : SReg) (z : LdsU) (i : BitVec 12) (s : State) : Host.Outcome State Fault Refusal :=
  onCur s fun w =>
    s.accessRead w false (ldsUSize z) (scalarAddr w.sh a i) fun _ bs => s.complete w (·.writeS d (extendBytes false bs))

def execLdsGSigned (d a : SReg) (z : LdsS) (i : BitVec 12) (s : State) : Host.Outcome State Fault Refusal :=
  onCur s fun w =>
    s.accessRead w false (ldsSSize z) (scalarAddr w.sh a i) fun _ bs => s.complete w (·.writeS d (extendBytes true bs))

/-- STS to G is posted: it completes once the write buffer has it (R127, R256). -/
def execStsG (d a : SReg) (z : LdsU) (i : BitVec 12) (s : State) : Host.Outcome State Fault Refusal :=
  onCur s fun w =>
    let va := scalarAddr w.sh a i
    s.access w true (ldsUSize z) va fun pa =>
      if s.farGone pa then s.raise w { cause := 0x1CD, tmask := 1, addr := va }
      else (s.postStore w va pa (leBytes (ldsUSize z) (w.sh.readS d).toNat)).complete w id

/-- A scalar access to A: bits 31:0 of the sum, the region, then the alignment (R127, R128). -/
def State.accessA (s : State) (w : Who) (size addr : Nat) (k : Nat → State) : State :=
  let off := addr % 2 ^ 32
  if off + size > w.blk.a.bytes then s.raise w { cause := 0x085, tmask := 1, addr := off }
  else if off % size != 0 then s.raise w { cause := 0x08D, tmask := 1, addr := off }
  else k off

def aSize (wide : Bool) : Nat := if wide then 8 else 4

def execLdsA (d a : SReg) (wide : Bool) (i : BitVec 12) (s : State) : Host.Outcome State Fault Refusal :=
  onCur s fun w =>
    s.accessA w (aSize wide) (scalarAddr w.sh a i) fun off =>
      s.complete w (·.writeS d (extendBytes false (w.blk.a.readN off (aSize wide))))

def execStsA (d a : SReg) (wide : Bool) (i : BitVec 12) (s : State) : Host.Outcome State Fault Refusal :=
  onCur s fun w =>
    s.accessA w (aSize wide) (scalarAddr w.sh a i) fun off =>
      (s.writeStore w.b false off (leBytes (aSize wide) (w.sh.readS d).toNat)).complete w id

/-! ## Atomics (R289) -/

/-- The value that a type of `n` bits reads. -/
def amoVal (signed : Bool) (n x : Nat) : Int := if signed then toSigned n x else ((x % 2 ^ n : Nat) : Int)

/-- The new value of an always successful atomic of `n` bits (R289 Table 4). -/
def amoNew (f : AmoFn) (signed : Bool) (n old x : Nat) : Nat :=
  match f with
  | .add => (old + x) % 2 ^ n
  | .min => if amoVal signed n x < amoVal signed n old then x else old
  | .max => if amoVal signed n old < amoVal signed n x then x else old
  | .and => old &&& x
  | .or => old ||| x
  | .xor => old ^^^ x
  | .xchg => x
  | .incw => if old ≥ x then 0 else (old + 1) % 2 ^ n

/-- The new value of cas and addb, or none when it fails and writes nothing (R289). -/
def amo3New (f : Amo3Fn) (signed : Bool) (n old x c : Nat) : Option Nat :=
  match f with
  | .cas => if old = c then some x else none
  | .addb =>
    let sum := amoVal signed n old + amoVal signed n x
    let top : Int := if signed then ((2 ^ (n - 1) : Nat) : Int) else ((2 ^ n : Nat) : Int)
    let bot : Int := if signed then -((2 ^ (n - 1) : Nat) : Int) else 0
    if amoVal signed n old ≤ amoVal signed n c ∧ bot ≤ sum ∧ sum < top ∧ sum ≤ amoVal signed n c then
      some (sum % (2 ^ n : Nat)).toNat
    else none

/-- One atomic at the home slice, where the core's own writes to its bytes have come first: the old value, and the state after
the new value, if any, is written (R263, R292). -/
def State.atomicG (s : State) (site core pa n : Nat) (comp : Bool) (f : Nat → Option Nat) : Nat × State :=
  let old := leNat (s.mem.readN pa (n / 8))
  match f old with
  | none => (old, s.readHome site core (pa / 64))
  | some v =>
    (old, s.programWrite (pa / 64) site core (cellsFrom pa (leBytes (n / 8) v)) comp)

/-- AMOS (R291). -/
def execAmos (d a b : SReg) (t : CType) (f : AmoFn) (s : State) : Host.Outcome State Fault Refusal :=
  onCur s fun w =>
    let va := (w.sh.readS a).toNat
    let n := cWidth t
    s.accessHome w true (n / 8) va fun s pa =>
      let (old, s1) := s.atomicG w.blk.site w.blk.core pa n (s.compressedAt w.blk.site w.blk.ctx va) fun old =>
        some (amoNew f (cSigned t) n old (cNat t (w.sh.readS b)))
      s1.complete w (·.writeS d (cExt t old))

/-- LR (R292): loads at the home slice after the core's own writes to its bytes, and reserves the granule. -/
def execLr (d a : SReg) (t : CType) (s : State) : Host.Outcome State Fault Refusal :=
  onCur s fun w =>
    let va := (w.sh.readS a).toNat
    s.accessHome w false (cWidth t / 8) va fun s pa =>
      let old := leNat (s.mem.readN pa (cWidth t / 8))
      (s.readHome w.blk.site w.blk.core (pa / 64)).complete w fun sh =>
        { sh.writeS d (cExt t old) with resv := some (pa / 64) }

/-- SC (R292): the core's earlier writes to its bytes, and the shuttle's own to the granule, are performed first and clear the
reservation as any write does; then the write is made exactly when the reservation still names the granule. -/
def execSc (d a b : SReg) (t : CType) (s : State) : Host.Outcome State Fault Refusal :=
  onCur s fun w =>
    let va := (w.sh.readS a).toNat
    let n := cWidth t / 8
    s.access w true n va fun pa =>
      if s.farGone pa then s.raise w { cause := 0x1CD, tmask := 1, addr := va }
      else
        let s1 := s.flushBy w.blk.site w.blk.core (pa / 64) fun p => p.h == w.h || (range pa n).any p.writes
        let good := match s1.sh? w.h with | some sh => sh.resv == some (pa / 64) | none => false
        let s2 := if good then
            (s1.postStore w va pa (leBytes n (w.sh.readS b).toNat)).flushFor w.blk.site w.blk.core pa n
          else s1
        s2.complete w fun sh => { sh.writeS d (if good then 0 else 1) with resv := none }

end Sys2Proof.Machine
end

