-- ==== Sys2Proof/Machine/LaneMem.lean ====
section
/-! DEFINITION. Lane loads, stores and atomics (R152 to R154, R222, R228, R284 to R290). -/

namespace Sys2Proof.Machine

/-- The replacement bytes that ERET under REPL gives some threads (R345). -/
abbrev Repl := Nat → Option (List Byte)
def noRepl : Repl := fun _ => none
/-- The replacement of a thread of a mask from a replacement block (R339, R345). -/
def replFrom (mask : Nat) (block : List Byte) : Repl := fun t =>
  if mask / 2 ^ t % 2 = 1 then some ((block.drop (16 * t)).take 16) else none
/-- The replacement that the run's instruction completes with (R343). -/
def Run.replaced (r : Run) : Repl :=
  match r.repl with
  | some (m, b) => replFrom m b
  | none => noRepl
/-- Pages whose fault was declared fatal while the head run's instruction waited on them (R282). -/
def Who.runFatal (w : Who) : List Nat := match w.sh.queue with | r :: _ => r.fatal | [] => []

/-! ## Waiting and checks -/

/-- The instruction at the run's offset stands, waiting; the wait begins at its first attempt (R141, R229). -/
def State.laneStands (s : State) (w : Who) (pages : List Nat) (waited : Bool) : State :=
  s.updSh w.h (·.updHead fun r =>
    { r with since := match r.since with | some n => some n | none => some s.now, pages := pages,
             waited := r.waited || waited })

/-- The run has waited for a reply from global memory or from a peer (R245). -/
def markWaited (sh : Shuttle) : Shuttle := sh.updHead fun r => { r with waited := true }

/-- A lane trap of the threads of a list, or what follows when the list is empty (R338). -/
def State.laneCheck (s : State) (w : Who) (cause : Nat) (bad : List (Nat × Nat)) (k : State) : State :=
  match bad with
  | [] => k
  | (_, a) :: _ => s.laneTrap w.h cause (maskOf (bad.map (·.1))) a

/-- The threads whose physical addresses meet a condition, with their virtual addresses. -/
def hits (ts pas : List (Nat × Nat)) (p : Nat → Bool) : List (Nat × Nat) :=
  ((ts.zip pas).filter fun e => p e.2.2).map (·.1)

/-- The checks of R284 over every selected thread, then what follows with the physical addresses (R282, R297). -/
def State.laneAccess (s : State) (w : Who) (write : Bool) (size : Nat) (ts : List (Nat × Nat))
    (k : List (Nat × Nat) → State) : State :=
  match s.check w.blk.site w.blk.ctx w.runFatal write 5 size ts with
  | .trap c m a => s.laneTrap w.h c m a
  | .wait ps => (s.request w.blk.site w.blk.ctx ps).laneStands w ps true
  | .go pas => s.laneCheck w 0x1CD (hits ts pas s.farGone) (k pas)

/-- A lane atomic's access at the home slices: the core's own writes to its bytes come first, then the poison check, then what
follows with the state and the physical addresses (R263, R295). -/
def State.laneHome (s : State) (w : Who) (size : Nat) (ts : List (Nat × Nat)) (k : State → List (Nat × Nat) → State) : State :=
  s.laneAccess w true size ts fun pas =>
    let s1 := pas.foldl (fun x e => x.flushFor w.blk.site w.blk.core e.2 size) s
    let bad := hits ts pas fun pa => s1.lineBad (pa / 64)
    (s1.findBad (pas.map fun e => e.2 / 64)).laneCheck w 0x075 bad (k s1 pas)

/-- A lane read of global memory: poisoned lines trap and no thread is served (R295). -/
def State.laneRead (s : State) (w : Who) (size : Nat) (ts : List (Nat × Nat))
    (k : List (Nat × Nat) → State) : State :=
  s.laneAccess w false size ts fun pas =>
    let bad := hits ts pas fun pa => s.hitsBad w.blk.site w.blk.core pa size
    (s.findBad (pas.map fun e => e.2 / 64)).laneCheck w 0x075 bad (k pas)

/-! ## Addresses -/

/-- The 64-bit base of a global access (R284). -/
def globalBase (s : State) (w : Who) (r : Run) (a : LSrc) (t : Nat) : Nat :=
  match a with
  | .uni n => (r.caps.get n).toNat
  | .main n _ => readMain s w.sh n 0 t + 2 ^ 32 * readMain s w.sh (Fin.ofNat 256 (n.val + 1)) 9 t
  | .opf _ | .lat | .imm _ => readSrc s w.sh r a 0 t

/-- Base(t) + sext64(imm32) (R284). -/
def globalAddr (s : State) (w : Who) (r : Run) (a : LSrc) (off : W32) (t : Nat) : Nat :=
  (globalBase s w r a t + (off.signExtend 64).toNat) % 2 ^ 64

/-- (Read(a, t) + imm32) mod 2^32 (R153). -/
def localOff (s : State) (w : Who) (r : Run) (a : LSrc) (off : W32) (t : Nat) : Nat :=
  (readSrc s w.sh r a 0 t + off.toNat) % 2 ^ 32

/-- A thread with a value, for each thread of a list. -/
def forThreads (ts : List Nat) (f : Nat → Nat) : List (Nat × Nat) := ts.map fun t => (t, f t)

/-- The step number that a step qualifier names (R228). -/
def qualStep (q : StepQ) (step : Nat) : Nat :=
  if q.neg then (step + 2 ^ 32 - q.d.val) % 2 ^ 32 else (step + q.d.val) % 2 ^ 32

/-- The offsets after a step qualifier, with its checks (R228). -/
def State.onStep (s : State) (w : Who) (r : Run) (q : Option StepQ) (size : Nat) (ts : List (Nat × Nat))
    (k : List (Nat × Nat) → State) : State :=
  match q with
  | none => k ts
  | some q =>
    let np := (s.core w.coreKey).np
    s.laneCheck w 0x11D (if np.on then [] else ts) (
      s.laneCheck w 0x125 (if q.d.val ≥ np.depth then ts else []) (
        s.laneCheck w 0x085 (ts.filter fun e => e.2 + size > np.buflen) (
          k (ts.map fun e => (e.1, np.bufbase + qualStep q r.step % np.depth * np.buflen + e.2)))))

/-- The target of a local access: the block, whether it is the W store, and, through a window, the member with its
position. -/
structure Target where
  block : Nat
  ws : Bool
  peer : Option (Nat × Member)

/-- The local checks of R153 and R222 over every selected thread, then what follows with the target. -/
def State.onLocal (s : State) (w : Who) (sp : LSpace) (size : Nat) (ts : List (Nat × Nat)) (k : Target → State) : State :=
  let past (n : Nat) : List (Nat × Nat) := ts.filter fun e => e.2 + size > n
  let odd := ts.filter fun e => e.2 % size != 0
  match sp with
  | .g => s
  | .a => s.laneCheck w 0x085 (past w.blk.a.bytes) (s.laneCheck w 0x08D odd (k { block := w.b, ws := false, peer := none }))
  | .w => s.laneCheck w 0x085 (past w.blk.w.bytes) (s.laneCheck w 0x08D odd (k { block := w.b, ws := true, peer := none }))
  | .peer n =>
    match s.window w.blk w.b n.val with
    | none =>
      s.laneCheck w 0x08D odd (s.laneCheck w 0x105 ts (k { block := w.b, ws := false, peer := none }))
    | some m =>
      s.laneCheck w 0x085 (past m.size) (s.laneCheck w 0x08D odd (
        s.laneCheck w 0x10D (if m.lost then ts else []) (k { block := m.block, ws := false, peer := some (n.val, m) })))

/-- A request through a window that expects data: the tenancy check of R222; a refused one traps with 0x10D. -/
def State.onTenant (s : State) (w : Who) (t : Target) (ts : List (Nat × Nat)) (k : State) : State :=
  match t.peer with
  | none => k
  | some (n, m) =>
    if ts.isEmpty || (s.tenant m.block m.tenancy && !m.leaving) then k
    else (s.countStale (w.blk.coreAt n)).laneCheck w 0x10D ts s

/-- Before a read or an atomic of `n` bytes through a window, the shuttle's own packets to those bytes are applied (R257). -/
def State.settled (s : State) (w : Who) (t : Target) (n : Nat) (ts : List (Nat × Nat)) : State :=
  match t.peer with
  | none => s
  | some (_, m) => s.flushPeers w.h m.block n (ts.map (·.2))

/-- The store of a target. -/
def State.storeOf (s : State) (t : Target) : LStore :=
  match s.blk? t.block with
  | some b => b.store t.ws
  | none => { bytes := 0, cells := [], free := none, full := [] }

/-! ## Data -/

/-- Bytes of class M (R153). -/
def mSize : MType → Nat
  | .n8 | .s8 => 1
  | .n16 | .s16 => 2
  | .b32 => 4
  | .b64 => 8
  | .b128 => 16

/-- Extend (R153) of a value of at most 32 bits. -/
def mExtend (t : MType) (x : Nat) : Nat :=
  match t with
  | .s8 => (toSigned 8 x % (2 ^ 32 : Nat)).toNat
  | .s16 => (toSigned 16 x % (2 ^ 32 : Nat)).toNat
  | .n8 | .n16 | .b32 | .b64 | .b128 => x

/-- The 32-bit words of a list of bytes, lowest first. -/
def wordList : List Byte → List Nat
  | [] => []
  | bs => go bs.length bs
where
  /-- At most `n` words. -/
  go : Nat → List Byte → List Nat
    | 0, _ => []
    | _, [] => []
    | n + 1, bs => leNat (bs.take 4) :: go n (bs.drop 4)

/-- A loaded value written to a destination: a word, or a pair or quad upward (R153). -/
def putLoaded (s : State) (d : LDst) (t : MType) (th : Nat) (bs : List Byte) (sh : Shuttle) : Shuttle :=
  match t, d with
  | .b64, .main n | .b128, .main n => putGroup s n th sh (wordList bs) 0
  | _, _ => putDst s d th (mExtend t (leNat bs) % 2 ^ 32) sh

/-- The bytes that a store takes from its source (R153). -/
def storeBytes (s : State) (w : Who) (r : Run) (t : MType) (b : LSrc) (th : Nat) : List Byte :=
  match t, b with
  | .b64, .main n _ | .b128, .main n _ =>
    (range 0 (mSize t / 4)).flatMap fun i => leBytes 4 (readMain s w.sh (Fin.ofNat 256 (n.val + i)) (4 + i) th)
  | _, _ => leBytes (mSize t) (readSrc s w.sh r b 1 th)

/-- Bytes of threads, with physical addresses, gathered by line: the cells, the threads' mask and the first address. -/
def gatherLines : List (Nat × Nat × Nat × List Byte) → Tab (List Host.Cell × Nat × Nat)
  | es => es.foldl (fun t (th, va, pa, bs) =>
      let old := Tab.getD t (pa / 64) ([], 0, va)
      Tab.set t (pa / 64) (old.1 ++ cellsFrom pa bs, old.2.1 ||| 2 ^ th, old.2.2)) []

/-- The posted writes of one lane store, one for each line (R256, R294); `full`: those that cover a line are full writes. -/
def State.postThreads (s : State) (w : Who) (r : Run) (full : Bool) (es : List (Nat × Nat × Nat × List Byte)) : State :=
  (gatherLines es).foldl (fun x (line, cells, mask, va) =>
    x.post { mkPosted w.h w.blk r.lrunPc va mask (some (r.lword, r.off)) (s.compressedAt w.blk.site w.blk.ctx va) with
      line := line, cells := cells, may := full }) s

/-! ## LD, LDW, LDG -/

/-- The threads of a guard that no replacement serves. -/
def unserved (g : BitVec 8) (repl : Repl) : List Nat := (threadsOf g).filter fun t => (repl t).isNone

/-- The bytes of a global load of a thread: what the core reads; of a 16-byte load one half may have been read before (R255). -/
def State.loadBytes (s : State) (w : Who) (t : MType) (th pa : Nat) : List Byte :=
  let rd (a n : Nat) : List Byte := s.view w.blk.site w.blk.core a n
  match w.sh.queue.head?.bind (·.half), t with
  | some (upper, bs), .b128 =>
    let early := ((bs.find? (·.1 == th)).map (·.2)).getD []
    if upper then rd pa 8 ++ early else early ++ rd (pa + 8) 8
  | _, _ => rd pa (mSize t)

/-- A global load: `addr` gives each thread's address; replaced threads take their bytes from the replacement (R345). -/
def State.loadG (s : State) (w : Who) (hd : Head) (t : MType) (d : LDst) (inv : Bool) (srcs : List LSrc)
    (repl : Repl) (addr : Nat → Nat) : State :=
  let g := guardOf w.sh hd
  s.laneRead w (mSize t) (forThreads (unserved g repl) addr) fun pas =>
    let s1 := if inv then s.invTake w.blk.ctx w.blk.site w.blk.core (mSize t) (pas.map (·.2)) else s
    let bytes (th : Nat) : List Byte :=
      match repl th with
      | some bs => bs.take (mSize t)
      | none =>
        match pas.find? (·.1 == th) with
        | some (_, pa) =>
          if inv then s1.invView w.blk.ctx w.blk.site w.blk.core pa (mSize t) else s.loadBytes w t th pa
        | none => []
    (s1.laneDone w srcs (putEach g fun th => putLoaded s d t th (bytes th))).updSh w.h markWaited

/-- The granules that offsets name, without repeats. -/
def granulesOf (size : Nat) (ts : List (Nat × Nat)) : List Nat :=
  (ts.flatMap fun e => granules e.2 size).foldl insertNat []

/-- A message that a block has posted a receive for will fill one of the granules (R243, R245). -/
def State.awaitsMessage (s : State) (w : Who) (tg : Target) (gs : List Nat) : Bool :=
  !tg.ws && tg.peer.isNone && (s.core w.coreKey).recvs.any fun r => r.block == w.b && (granules r.offset (16 + 16 * r.cap)).any gs.contains

/-- A local load, A, W or through a window (R153). -/
def State.loadL (s : State) (w : Who) (r : Run) (hd : Head) (t : MType) (mc : MemCtl) (d : LDst) (a : LSrc) (off : W32) :
    State :=
  let g := guardOf w.sh hd
  s.onStep w r mc.step (mSize t) (forThreads (threadsOf g) (localOff s w r a off)) fun ts =>
    s.onLocal w mc.space (mSize t) ts fun tg => s.onTenant w tg ts (
      let s := s.settled w tg (mSize t) ts
      let st := s.storeOf tg
      let gs := granulesOf (mSize t) ts
      if mc.wf && !(gs.all st.isFull) then s.laneStands w [] (tg.peer.isSome || s.awaitsMessage w tg gs)
      else
        let s1 := if mc.clr then s.markEmpty tg.block tg.ws gs else s
        let bytes (th : Nat) : List Byte :=
          match ts.find? (·.1 == th) with
          | some (_, o) => st.readN o (mSize t)
          | none => []
        let s2 := s1.laneDone w [a] (putEach g fun th => putLoaded s d t th (bytes th))
        if tg.peer.isSome then s2.updSh w.h markWaited else s2)

/-- LD in any space (R152, R153, R284). -/
def laneLd (hd : Head) (t : MType) (mc : MemCtl) (d : LDst) (a : LSrc) (off : W32) (repl : Repl) (s : State) (w : Who)
    (r : Run) : State :=
  match mc.space with
  | .g => s.loadG w hd t d mc.inv [a] repl (globalAddr s w r a off)
  | .a | .w | .peer _ => s.loadL w r hd t mc d a off

def execLLd (hd : Head) (t : MType) (mc : MemCtl) (d : LDst) (a : LSrc) (off : W32) (s : State) :
    Host.Outcome State Fault Refusal := onLane s fun w r => laneLd hd t mc d a off r.replaced s w r

/-- LDW (R152). -/
def execLLdw (hd : Head) (t : MType) (wf clr : Bool) (d : LDst) (a : LSrc) (off : W32) (s : State) :
    Host.Outcome State Fault Refusal :=
  onLane s fun w r => s.loadL w r hd t { space := .w, step := none, wf := wf, clr := clr, inv := false } d a off

/-- LDG (R286). -/
def laneLdg (hd : Head) (wide : Bool) (d : LDst) (a : SReg) (b : LSrc) (off : W32) (repl : Repl) (s : State) (w : Who)
    (r : Run) : State :=
  let t : MType := if wide then .b64 else .b32
  s.loadG w hd t d false [b] repl fun th =>
    ((r.caps.get a).toNat + mSize t * readSrc s w.sh r b 1 th + (off.signExtend 64).toNat) % 2 ^ 64

def execLLdg (hd : Head) (wide : Bool) (d : LDst) (a : SReg) (b : LSrc) (off : W32) (s : State) :
    Host.Outcome State Fault Refusal := onLane s fun w r => laneLdg hd wide d a b off r.replaced s w r

/-! ## ST -/

/-- A store to the block's own store: ascending threads, then the full bits (R153). -/
def State.storeOwn (s : State) (tg : Target) (fill : Bool) (size : Nat) (ts : List (Nat × Nat)) (data : Nat → List Byte) :
    State :=
  let s1 := ts.foldl (fun x e => x.writeStore tg.block tg.ws e.2 (data e.1)) s
  if fill then s1.markFull tg.block tg.ws (granulesOf size ts) else s1

/-- A store through a window: one packet with the bytes of every selected thread, ascending, so that the target applies the
instruction as one step and drops it as one (R153, R222; that it is one packet is DEDUCED, log 78); a store through the
window onto the block's own region is applied at once, as its other accesses to the region are (R256, R257). -/
def State.storePeer (s : State) (w : Who) (r : Run) (n : Nat) (m : Member) (fill : Bool) (ts : List (Nat × Nat))
    (data : Nat → List Byte) : State :=
  if ts.isEmpty then s
  else s.sendPeer
    { core := w.blk.coreAt n, block := m.block, tenancy := m.tenancy, h := w.h, ipc := r.lrunPc, copy := none,
      req := .write (ts.map fun e => (e.2, data e.1)) fill }

/-- ST (R152, R153, R284). -/
def execLSt (hd : Head) (t : MType) (mc : MemCtl) (a b : LSrc) (off : W32) (s : State) :
    Host.Outcome State Fault Refusal :=
  onLane s fun w r =>
    let g := guardOf w.sh hd
    let data := storeBytes s w r t b
    match mc.space with
    | .g =>
      let ts := forThreads (threadsOf g) (globalAddr s w r a off)
      s.laneAccess w true (mSize t) ts fun pas =>
        (s.postThreads w r true ((ts.zip pas).map fun (e, p) => (e.1, e.2, p.2, data e.1))).laneDone w [a, b] id
    | .a | .w | .peer _ =>
      s.onStep w r mc.step (mSize t) (forThreads (threadsOf g) (localOff s w r a off)) fun ts =>
        s.onLocal w mc.space (mSize t) ts fun tg =>
          match tg.peer with
          | none => (s.storeOwn tg mc.wf (mSize t) ts data).laneDone w [a, b] id
          | some (n, m) =>
            let s1 := if m.block == w.b && !m.leaving then s.storeOwn tg mc.wf (mSize t) ts data
              else s.storePeer w r n m mc.wf ts data
            (s1.laneDone w [a, b] id).updSh w.h markWaited

/-! ## Buffer records (R287, R288) -/

/-- The four registers of a record as captured, as a 256-bit number. -/
def recordOf (r : Run) (a : SReg) : Nat :=
  (r.caps.get a).toNat + 2 ^ 64 * (r.caps.get (SReg.plus a 1)).toNat + 2 ^ 128 * (r.caps.get (SReg.plus a 2)).toNat +
    2 ^ 192 * (r.caps.get (SReg.plus a 3)).toNat

def bufBase (r : Nat) : Nat := bitsOf r 56 0
def bufExtent (r : Nat) : Nat := bitsOf r 120 64
def bufStrideI (r : Nat) : Nat := bitsOf r 159 128
def bufStrideT (r : Nat) : Nat := bitsOf r 191 160
def bufBounds (r : Nat) : Nat := bitsOf r 199 198
/-- The element format of a record's FMT 0 to 10 (R33). -/
def bufFmt (r : Nat) : Fmt :=
  match bitsOf r 196 192 with
  | 0 => .s8 | 1 => .s16 | 2 => .s32 | 3 => .n8 | 4 => .n16 | 5 => .n32 | 6 => .f32 | 7 => .f16 | 8 => .bf16 | 9 => .e4m3
  | _ => .e5m2
def bufBad (r : Nat) : Bool :=
  bitsOf r 63 57 != 0 || bitsOf r 127 121 != 0 || bitsOf r 255 200 != 0 || bitsOf r 197 197 != 0 || bufBounds r == 3 ||
    bitsOf r 196 192 > 10

/-- off(t) of R288. -/
def bufOff (r b t : Nat) (off : W32) : Nat := b * bufStrideI r + t * bufStrideT r + off.toNat
def bufOob (r o : Nat) : Bool := o + fmtBits (bufFmt r) / 8 > bufExtent r

/-- A memory element as a register value (R288): integers extended, floats converted exactly to .f32. -/
def bufLoad (f : Fmt) (x : Nat) : Nat :=
  match f with
  | .f32 => x
  | .f16 | .bf16 | .e4m3 | .e5m2 | .e2m1 => roundF32 (decodeFmt f x)
  | .s8 | .s16 | .s32 | .n8 | .n16 | .n32 => extendFmt f x
/-- A register value as a memory element (R288). -/
def bufStore (f : Fmt) (x : Nat) : Nat :=
  match ffmtOf f with
  | some k => roundF k (decF32 x) .rne false
  | none => x % 2 ^ fmtBits f

/-- The checks of R288: the record, the bounds, and R284 over the threads that reach memory. -/
def State.onBuffer (s : State) (w : Who) (rec : Nat) (write : Bool) (offs : List (Nat × Nat))
    (k : List (Nat × Nat) → List (Nat × Nat) → State) : State :=
  if bufBad rec then s.laneTrap w.h 0x07A 0 0
  else
    let oob := offs.filter fun e => bufOob rec e.2
    let ts := (offs.filter fun e => !bufOob rec e.2 || bufBounds rec == 2).map fun e => (e.1, bufBase rec + e.2)
    s.laneCheck w 0x065 (if bufBounds rec == 0 then oob.map fun e => (e.1, bufBase rec + e.2) else []) (
      if write then s.laneAccess w true (fmtBits (bufFmt rec) / 8) ts (k ts)
      else s.laneRead w (fmtBits (bufFmt rec) / 8) ts (k ts))

/-- BLD (R288). -/
def laneBld (hd : Head) (d : LDst) (rec : SReg) (b : LSrc) (off : W32) (repl : Repl) (s : State) (w : Who) (r : Run) :
    State :=
  let g := guardOf w.sh hd
  let q := recordOf r rec
  let f := bufFmt q
  s.onBuffer w q false (forThreads (unserved g repl) fun t => bufOff q (readSrc s w.sh r b 1 t) t off) fun _ pas =>
    let val (th : Nat) : Nat :=
      match repl th with
      | some bs => bufLoad f (leNat (bs.take (fmtBits f / 8)))
      | none =>
        match pas.find? (·.1 == th) with
        | some (_, pa) => bufLoad f (leNat (s.view w.blk.site w.blk.core pa (fmtBits f / 8)))
        | none => 0
    (s.laneDone w [b] (putEach g fun th => putDst s d th (val th))).updSh w.h markWaited

def execLBld (hd : Head) (d : LDst) (rec : SReg) (b : LSrc) (off : W32) (s : State) : Host.Outcome State Fault Refusal :=
  onLane s fun w r => laneBld hd d rec b off r.replaced s w r

/-- BST (R288). -/
def execLBst (hd : Head) (rec : SReg) (b c : LSrc) (off : W32) (s : State) : Host.Outcome State Fault Refusal :=
  onLane s fun w r =>
    let q := recordOf r rec
    let f := bufFmt q
    s.onBuffer w q true (forThreads (threadsOf (guardOf w.sh hd)) fun t => bufOff q (readSrc s w.sh r b 1 t) t off)
      fun ts pas =>
        (s.postThreads w r false ((ts.zip pas).map fun (e, p) =>
          (e.1, e.2, p.2, leBytes (fmtBits f / 8) (bufStore f (readSrc s w.sh r c 2 e.1))))).laneDone w [b, c] id

/-! ## AMO and AMO3 (R290) -/

/-- The threads' atomics in ascending order: old values with success, and the state after. `one` performs a thread's. -/
def atomicEach (one : State → Nat → Nat → Nat × Bool × State) :
    List (Nat × Nat) → State → List (Nat × Nat × Bool) × State
  | [], s => ([], s)
  | (t, p) :: ts, s =>
    let (old, ok, s1) := one s t p
    let (rest, s2) := atomicEach one ts s1
    ((t, old, ok) :: rest, s2)

/-- One thread's atomic at the home slice. -/
def oneG (w : Who) (ctxVa : Nat → Nat) (f : Nat → Nat → Option Nat) (s : State) (t pa : Nat) : Nat × Bool × State :=
  let (old, s1) := s.atomicG w.blk.site w.blk.core pa 32 (s.compressedAt w.blk.site w.blk.ctx (ctxVa t)) (f t)
  (old, (f t old).isSome, s1)
/-- One thread's atomic in a local store. -/
def oneL (tg : Target) (f : Nat → Nat → Option Nat) (s : State) (t off : Nat) : Nat × Bool × State :=
  let old := leNat ((s.storeOf tg).readN off 4)
  match f t old with
  | none => (old, false, s)
  | some v => (old, true, s.writeStore tg.block tg.ws off (leBytes 4 v))

/-- The results of an atomic: old values to the destination and, under AMO3, success to a mask (R290); a replaced
thread's old value is its replacement and it reports failure (R345). `far`: the old values came from global memory or from a
peer (R245). -/
def atomicDone (s0 : State) (w : Who) (g : BitVec 8) (d : LDst) (res : MReg) (srcs : List LSrc) (repl : Repl) (far : Bool)
    (out : List (Nat × Nat × Bool)) (s : State) : State :=
  let old (t : Nat) : Nat :=
    match repl t with
    | some bs => leNat (bs.take 4)
    | none => match out.find? (·.1 == t) with | some (_, x, _) => x | none => 0
  let ok (t : Nat) : Bool := match out.find? (·.1 == t) with | some (_, _, b) => b | none => false
  let s1 := s.laneDone w srcs fun sh => putMask res g ok (putEach g (fun t => putDst s0 d t (old t)) sh)
  if far then s1.updSh w.h markWaited else s1
where
  /-- One bit of a mask for each selected thread; m0 discards it. -/
  putMask (m : MReg) (g : BitVec 8) (f : Nat → Bool) (sh : Shuttle) : Shuttle :=
    putEach g (fun t x => x.writeM m (setMaskBit (x.readM m) t (f t))) sh

/-- AMO and AMO3: `f` gives each thread's new value from the old one, none where it fails. -/
def laneAtomic (hd : Head) (sp : LSpace) (res : MReg) (d : LDst) (a : LSrc) (off : W32) (srcs : List LSrc)
    (f : State → Who → Run → Nat → Nat → Option Nat) (repl : Repl) (s : State) (w : Who) (r : Run) : State :=
  let g := guardOf w.sh hd
  match sp with
  | .g =>
    let va := globalAddr s w r a off
    s.laneHome w 4 (forThreads (unserved g repl) va) fun s1 pas =>
      let (out, s2) := atomicEach (oneG w va (f s w r)) pas s1
      atomicDone s w g d res srcs repl true out s2
  | .a | .w | .peer _ =>
    let ts := forThreads (threadsOf g) (localOff s w r a off)
    s.onLocal w sp 4 ts fun tg => s.onTenant w tg ts (
      let (out, s1) := atomicEach (oneL tg (f s w r)) ts (s.settled w tg 4 ts)
      atomicDone s w g d res srcs noRepl tg.peer.isSome out s1)

/-- AMO's new value. -/
def amoF (f : AmoFn) (signed : Bool) (b : LSrc) (s : State) (w : Who) (r : Run) (t old : Nat) : Option Nat :=
  some (amoNew f signed 32 old (readSrc s w.sh r b 1 t))
/-- AMO3's new value. -/
def amo3F (f : Amo3Fn) (signed : Bool) (b c : LSrc) (s : State) (w : Who) (r : Run) (t old : Nat) : Option Nat :=
  amo3New f signed 32 old (readSrc s w.sh r b 1 t) (readSrc s w.sh r c 2 t)

def laneAmo (hd : Head) (f : AmoFn) (signed : Bool) (sp : LSpace) (d : LDst) (a b : LSrc) (off : W32) (repl : Repl)
    (s : State) (w : Who) (r : Run) : State := laneAtomic hd sp 0 d a off [a, b] (amoF f signed b) repl s w r
def laneAmo3 (hd : Head) (f : Amo3Fn) (signed : Bool) (sp : LSpace) (res : MReg) (d : LDst) (a b c : LSrc) (repl : Repl)
    (s : State) (w : Who) (r : Run) : State := laneAtomic hd sp res d a 0 [a, b, c] (amo3F f signed b c) repl s w r

def execLAmo (hd : Head) (f : AmoFn) (signed : Bool) (sp : LSpace) (d : LDst) (a b : LSrc) (off : W32) (s : State) :
    Host.Outcome State Fault Refusal :=
  onLane s fun w r => laneAmo hd f signed sp d a b off r.replaced s w r
def execLAmo3 (hd : Head) (f : Amo3Fn) (signed : Bool) (sp : LSpace) (res : MReg) (d : LDst) (a b c : LSrc) (s : State) :
    Host.Outcome State Fault Refusal :=
  onLane s fun w r => laneAmo3 hd f signed sp res d a b c r.replaced s w r

end Sys2Proof.Machine
end

