-- ==== Sys2Proof/Machine/Quad.lean ====
section
/-! DEFINITION. Sharing groups (R218 to R221) and neighbour-paced mode (R225 to R227, R230). -/

namespace Sys2Proof.Machine

/-! ## Sharing groups -/

/-- SGJOIN's effect on the group table of a quad: the table when the block is in, none when it is refused (R220). -/
def joinGroup (gs : List Group) (ctx tag pos : Nat) (m : Member) : Option (List Group) :=
  match gs.findIdx? fun g => g.ctx == ctx && g.tag == tag with
  | some i =>
    match gs[i]? with
    | some g =>
      if (Tab.get? g.members pos).isSome then none else some (setAt gs i { g with members := Tab.set g.members pos m })
    | none => none
  | none => if gs.length ≥ 8 then none else some (gs ++ [{ ctx := ctx, tag := tag, members := [(pos, m)] }])

/-- SGJOIN (R219, R220). No group uses a fenced quad (R347): there it is refused (DEDUCED, log 105). -/
def execSgjoin (k : KReg) (a : SReg) (s : State) : Host.Outcome State Fault Refusal :=
  onCur s fun w => s.whenDrained w (
    let tag := (w.sh.readS a).toNat
    let q := w.blk.quadKey
    if tag ≥ 65536 then s.trap w 0x112
    else
      match s.groupOf q w.b with
      | some g => if g.ctx == w.blk.ctx && g.tag == tag then s.complete w (·.writeK k true) else s.trap w 0x112
      | none =>
        if (s.quad q).fenced then s.complete w (·.writeK k false)
        else
        match joinGroup (s.quad q).groups w.blk.ctx tag w.blk.pos
            { block := w.b, tenancy := w.blk.tenancy, base := w.blk.abase, size := w.blk.a.bytes, lost := false,
              leaving := false } with
        | some gs => (s.updQuad q fun x => { x with groups := gs }).complete w (·.writeK k true)
        | none => s.complete w (·.writeK k false))

/-- A block's member entry cleared; a group of no member, or of lost ones only, is freed (R218, R221, R223). -/
def leaveGroup (b : Nat) (gs : List Group) : List Group :=
  (gs.map fun g =>
    if g.members.any fun e => e.2.block == b then { g with members := g.members.filter fun e => e.2.block != b } else g).filter
    fun g => !(g.members.all fun e => e.2.lost)

/-- Peer accesses accepted into a block's store or issued by the block are still under way (R221). -/
def State.peersOpen (s : State) (b c : Nat) : Bool :=
  (s.peers.any fun p => p.block == b || blockOf p.h == b) ||
    (s.core c).copyQ.any fun k => k.block == b && (match k.src, k.dst with
      | .peer .., _ => true
      | _, .peer .. => true
      | _, _ => false)

/-- The member entry of a block marked as leaving. -/
def markLeaving (b : Nat) (gs : List Group) : List Group :=
  gs.map fun g => { g with members := g.members.map fun (n, m) => (n, if m.block == b then { m with leaving := true } else m) }

/-- SGLEAVE (R221). -/
def execSgleave (s : State) : Host.Outcome State Fault Refusal :=
  onCur s fun w => s.whenDrained w (
    let q := w.blk.quadKey
    match s.groupOf q w.b with
    | none => s.trap w 0x110
    | some _ =>
      if s.peersOpen w.b w.coreKey then (s.updQuad q fun x => { x with groups := markLeaving w.b x.groups }).waits w .other
      else (s.updQuad q fun x => { x with groups := leaveGroup w.b x.groups }).complete w id)

/-! ## Neighbour-paced mode -/

/-- x ≥ y as step numbers (R225). -/
def stepGe (x y : Nat) : Bool := (x + 2 ^ 32 - y % 2 ^ 32) % 2 ^ 32 < 2 ^ 31

/-- The bytes of a list word; none when a byte follows 0xFF, or names a core that may not be named (R226). -/
def coreList (ok : Nat → Bool) : List Byte → Bool → List Nat → Option (List Nat)
  | [], _, acc => some acc
  | b :: bs, ended, acc =>
    if b == 0xFF then coreList ok bs true acc
    else if ended || !ok b.toNat || acc.contains b.toNat then none
    else coreList ok bs false (acc ++ [b.toNat])

/-- A core that a list of the issuing block's core may name (R226). -/
def State.mayName (s : State) (blk : Block) (n : Nat) : Bool :=
  n < Config.cores blk.site && n != blk.core && !(s.core (128 * blk.site + n)).fenced

/-- The mode's state as NPENTER's record gives it, or none when the record is refused (R226); `ok`: the cores that its
lists may name. -/
def entryWith (ok : Nat → Bool) (blk : Block) (r : List W64) : Option Paced :=
  let r0 := (r.getD 0 0).toNat
  let r1 := (r.getD 1 0).toNat
  let r2 := (r.getD 2 0).toNat
  let r3 := (r.getD 3 0).toNat
  let depth := bitsOf r3 12 8
  let skew := bitsOf r3 3 0
  let buflen := bitsOf r2 55 32
  let bufbase := bitsOf r2 31 0
  match coreList ok (leBytes 8 r0) false [], coreList ok (leBytes 8 r1) false [] with
  | some wl, some hl =>
    if bitsOf r2 63 56 != 0 || bitsOf r3 31 13 != 0 || bitsOf r3 7 4 != 0 || depth < 2 || depth > 16 || skew < 1 ||
        skew > depth - 1 || buflen == 0 || buflen % 16 != 0 || bufbase % 16 != 0 ||
        bufbase + depth * buflen > blk.a.bytes then none
    else some { Paced.off with
      on := true, step := bitsOf r3 63 32, done := (bitsOf r3 63 32 + 2 ^ 32 - 1) % 2 ^ 32,
      published := (bitsOf r3 63 32 + 2 ^ 32 - 1) % 2 ^ 32, waiton := wl, heldby := hl, skew := skew, depth := depth,
      bufbase := bufbase, buflen := buflen }
  | _, _ => none

/-- The record as NPENTER checks it. -/
def State.entryRecord (s : State) (blk : Block) (r : List W64) : Option Paced := entryWith (s.mayName blk) blk r

/-- An instruction of the mode needs `npmode` and waits for the shuttle's runs (R47, R219). -/
def State.onPaced (s : State) (w : Who) (k : Paced → State) : State :=
  s.needFeature w 8 (s.whenDrained w (k (s.core w.coreKey).np))

/-- A change of the core's neighbour-paced state. -/
def State.setPaced (s : State) (c : Nat) (f : Paced → Paced) : State := s.updCore c fun k => { k with np := f k.np }

/-- NPENTER (R226): the shuttle, once its record has passed the checks, stands in the core's list until NP_ENTRY_COMPLETE. -/
def execNpenter (a : SReg) (s : State) : Host.Outcome State Fault Refusal :=
  onCur s fun w => s.onPaced w fun np =>
    let r := (range 0 4).map fun n => w.sh.readS (SReg.plus a n)
    let foreign : Bool := np.entering.any fun h => blockOf h != w.b
    if np.entering.contains w.h then s.waits w .paced
    else if np.on || foreign then s.trap w 0x118
    else if (s.entryRecord w.blk r).isNone then s.trap w 0x11A
    else if np.entering.isEmpty then
      (s.setPaced w.coreKey fun p => { p with entering := [w.h], record := r }).waits w .paced
    else if np.record != r then s.trap w 0x11A
    else (s.setPaced w.coreKey fun p => { p with entering := p.entering ++ [w.h] }).waits w .paced

/-- A STEPDONE or NPEXIT that completed while its shuttle was stopped completes now (R227, R230). -/
def State.unlessPassed (s : State) (w : Who) (np : Paced) (k : State) : State :=
  if np.passed.contains w.h then
    (s.setPaced w.coreKey fun p => { p with passed := p.passed.filter (· != w.h) }).complete w id
  else if !np.on || np.owner != some w.b then s.trap w 0x118
  else k

/-- STEPDONE (R227): the shuttle's accesses, and the writes that its loads saw, are performed at .die, then it arrives, once;
the last arrival sets DONE. -/
def execStepdone (s : State) : Host.Outcome State Fault Refusal :=
  onCur s fun w => s.onPaced w fun np => s.unlessPassed w np (
    if np.arrived.contains w.h then s.waits w .paced
    else if s.ownPosted w.h false .die || s.streamPeers w.h || s.seenPosted w.blk.site w.blk.core .die then s.waits w .memory
    else ((s.setPaced w.coreKey fun p => { p with arrived := p.arrived ++ [w.h] }).waits w .paced).npCheck w.coreKey)

/-- NPEXIT (R230): the shuttle stands in the core's list until NP_EXIT_COMPLETE. -/
def execNpexit (s : State) : Host.Outcome State Fault Refusal :=
  onCur s fun w => s.onPaced w fun np => s.unlessPassed w np (
    if np.leaving.contains w.h then s.waits w .paced
    else (s.setPaced w.coreKey fun p => { p with leaving := p.leaving ++ [w.h] }).waits w .paced)

end Sys2Proof.Machine
end

