-- ==== Sys2Proof/Machine/LaneStep.lean ====
section
/-! DEFINITION. RLD (R229) and the lane instructions of the expansion unit (R208 to R211). -/

namespace Sys2Proof.Machine

/-! ## RLD -/

/-- One thread of an RLD: the core named, the step, the offset. -/
structure StepRead where
  t : Nat
  core : Nat
  step : Nat
  off : Nat

/-- DONE of a core as a core of the die sees it: its own at once, another's once the notice has travelled (R227). -/
def State.doneSeen (s : State) (blk : Block) (core : Nat) : Nat :=
  let np := (s.core (128 * blk.site + core)).np
  if core == blk.core then np.done else np.published

/-- The neighbour-paced state of a core of the block's die. -/
def State.npOf (s : State) (blk : Block) (core : Nat) : Paced := (s.core (128 * blk.site + core)).np

/-- The threads of an RLD. -/
def stepReads (s : State) (w : Who) (r : Run) (hd : Head) (a b c : LSrc) (off : W32) : List StepRead :=
  (threadsOf (guardOf w.sh hd)).map fun t =>
    { t := t, core := readSrc s w.sh r b 1 t, step := readSrc s w.sh r c 2 t, off := localOff s w r a off t }

/-- The threads that meet a condition, with their offsets. -/
def failingReads (rs : List StepRead) (p : StepRead → Bool) : List (Nat × Nat) :=
  (rs.filter p).map fun x => (x.t, x.off)

/-- The buffer of a step at its core (R229). -/
def State.stepBytes (s : State) (blk : Block) (size : Nat) (x : StepRead) : List Byte :=
  let np := s.npOf blk x.core
  match np.owner with
  | none => []
  | some o =>
    match s.blk? o with
    | some k => k.a.readN (np.bufbase + x.step % np.depth * np.buflen + x.off) size
    | none => []

/-- The threads of an RLD whose condition is not met yet (R229). -/
def State.unmet (s : State) (blk : Block) (rs : List StepRead) : List (Nat × Nat) :=
  failingReads rs fun x => !((s.npOf blk x.core).on && stepGe (s.doneSeen blk x.core) x.step)

/-- RLD (R229). The wait and the read are an acquire at .die. A read of another core's buffer is one of a peer's store for
R245 (log 42). -/
def laneRld (hd : Head) (t : MType) (d : LDst) (a b c : LSrc) (off : W32) (s : State) (w : Who) (r : Run) : State :=
  let rs := stepReads s w r hd a b c off
  let np := (s.core w.coreKey).np
  let size := mSize t
  let all := failingReads rs fun _ => true
  s.laneCheck w 0x118 (if np.on then [] else all) (
    s.laneCheck w 0x11B (failingReads rs fun x => x.core != w.blk.core && !np.waiton.contains x.core) (
      s.laneCheck w 0x08D (failingReads rs fun x => x.off % size != 0) (
        s.laneCheck w 0x123 (failingReads rs fun x => r.gone.contains x.core) (
          if rs.any fun x => !(s.npOf w.blk x.core).on then s.laneStands w [] false
          else
            s.laneCheck w 0x085 (failingReads rs fun x => x.off + size > (s.npOf w.blk x.core).buflen) (
              if !(s.unmet w.blk rs).isEmpty then s.laneStands w [] false
              else
                s.laneCheck w 0x124 (failingReads rs fun x =>
                    stepGe (((s.npOf w.blk x.core).step + 2 ^ 32 - x.step % 2 ^ 32) % 2 ^ 32) (s.npOf w.blk x.core).depth) (
                  let bytes (th : Nat) : List Byte :=
                    match rs.find? (·.t == th) with
                    | some x => s.stepBytes w.blk size x
                    | none => []
                  let s1 := (s.refresh w.blk.site w.blk.core .die).laneDone w [a, b, c]
                    (putEach (guardOf w.sh hd) fun th => putLoaded s d t th (bytes th))
                  if rs.any fun x => x.core != w.blk.core then s1.updSh w.h markWaited else s1))))))

def execLRld (hd : Head) (t : MType) (d : LDst) (a b c : LSrc) (off : W32) (s : State) : Host.Outcome State Fault Refusal :=
  onLane s (laneRld hd t d a b c off s)

/-! ## The expansion unit -/

/-- The order that a run captured (R208). -/
def Run.order (r : Run) (o : OReg) : Nat := (r.ords.get o).toNat

/-- XFORM (R209): one indivisible step over the selected threads, ascending. It writes no register. -/
def execLXform (hd : Head) (e : EReg) (o : OReg) (a b c : LSrc) (s : State) : Host.Outcome State Fault Refusal :=
  onLane s fun w r =>
    let reg := w.blk.ereg e
    let series := (threadsOf (guardOf w.sh hd)).foldl (fun l t =>
      formSource l (natC reg.centre) (r.order o) (readSrc s w.sh r a 0 t) (readSrc s w.sh r b 1 t) (readSrc s w.sh r c 2 t) ++
        l.drop (r.order o + 1)) reg.series
    (s.setEreg w.b e (reg.withSeries series)).laneDone w [a, b, c] id

/-- A NaN as R61 returns it. -/
def canonF32 (x : Nat) : Nat := match decF32 x with | .nan => nanF32 | .inf _ | .fin .. => x

/-- XEVAL (R210): the potential and the field at each thread's point; CanonNaN from a register that is not local. The third
result is D.im with its sign inverted (R210), and CanonNaN where that is a NaN (R61; log 79). -/
def execLXeval (hd : Head) (d : Fin 256) (e : EReg) (o : OReg) (a b : LSrc) (s : State) :
    Host.Outcome State Fault Refusal :=
  onLane s fun w r =>
    let reg := w.blk.ereg e
    s.laneDone w [a, b] (putEach (guardOf w.sh hd) fun t sh =>
      let v : C32 × C32 :=
        if reg.kind != 2 then ((nanF32, nanF32), (nanF32, nanF32))
        else evalLocal reg.series (natC reg.centre) (r.order o) (readSrc s w.sh r a 0 t) (readSrc s w.sh r b 1 t)
      putGroup s d t sh [canonF32 v.1.1, canonF32 v.2.1, canonF32 (negF32 v.2.2)] 0)

/-- One append of XNEAR (R211): an indivisible step on the list's header, whose reserved word stays zero (R11). -/
def State.append (s : State) (b off pair : Nat) : State :=
  match s.blk? b with
  | none => s
  | some blk =>
    let rd (o : Nat) : Nat := leNat (blk.a.readN (off + o) 4)
    let e := off + 16 + 4 * rd 0
    let header (count dropped : Nat) : List Byte := leBytes 4 count ++ leBytes 4 (rd 4) ++ leBytes 4 dropped ++ leBytes 4 0
    if rd 0 < rd 4 && e + 4 ≤ blk.a.bytes then
      (s.writeStore b false e (leBytes 4 pair)).writeStore b false off (header (rd 0 + 1) (rd 8))
    else s.writeStore b false off (header (rd 0) (min (rd 8 + 1) 0xFFFFFFFF))

/-- XNEAR (R211): the address checks of every thread, then the appends. -/
def execLXnear (hd : Head) (a b : LSrc) (off : W32) (s : State) : Host.Outcome State Fault Refusal :=
  onLane s fun w r =>
    let ts := forThreads (threadsOf (guardOf w.sh hd)) (localOff s w r a off)
    s.laneCheck w 0x08D (ts.filter fun e => e.2 % 16 != 0) (
      s.laneCheck w 0x085 (ts.filter fun e => e.2 + 16 > w.blk.a.bytes) (
        (ts.foldl (fun x e => x.append w.b e.2 (readSrc s w.sh r b 1 e.1)) s).laneDone w [a, b] id))

end Sys2Proof.Machine
end

