-- ==== Sys2Proof/Machine/Eret.lean ====
section
/-! DEFINITION. ERET (R343) and completion under REPL (R345). -/

namespace Sys2Proof.Machine

/-- The fields of a frame that ERET reads: SAVE60, SAVE61, REPL, SKIP, CPC and the replacements (R339). -/
structure Frame where
  word : Nat
  block : List Byte

def Frame.save60 (f : Frame) : W64 := BitVec.ofNat 64 (bitsOf f.word 575 512)
def Frame.save61 (f : Frame) : W64 := BitVec.ofNat 64 (bitsOf f.word 639 576)
def Frame.repl (f : Frame) : Bool := bitsOf f.word 24 24 == 1
def Frame.skip (f : Frame) : Bool := bitsOf f.word 25 25 == 1
def Frame.cpc (f : Frame) : Nat := bitsOf f.word 120 64

/-- The word of a run at its offset. -/
def Run.word (r : Run) : Option Instr :=
  match r.words[r.off]? with
  | some x => (match decodeLane x with
    | .ok i => some i
    | .error _ => none)
  | none => none

/-- The lane instructions of R345 Table 3, completed under REPL. -/
def replLane (i : Instr) (repl : Repl) : Option (State → Who → Run → State) :=
  match i with
  | .lLd hd t mc d a off => some (laneLd hd t mc d a off repl)
  | .lLdg hd wide d a b off => some (laneLdg hd wide d a b off repl)
  | .lBld hd d rec b off => some (laneBld hd d rec b off repl)
  | .lAmo hd f sg sp d a b off => some (laneAmo hd f sg sp d a b off repl)
  | .lAmo3 hd f sg sp res d a b c => some (laneAmo3 hd f sg sp res d a b c repl)
  | _ => none

/-- The control instructions of R345 Table 3, completed under REPL from thread 0's replacement. -/
def replControl (i : Instr) (bs : List Byte) : Option (Shuttle → Shuttle) :=
  match i with
  | .ldsG d _ z _ => some (·.writeS d (extendBytes false (bs.take (ldsUSize z))))
  | .ldsGSigned d _ z _ => some (·.writeS d (extendBytes true (bs.take (ldsSSize z))))
  | .lr d _ t => some (·.writeS d (cExt t (leNat (bs.take (cWidth t / 8)) : Nat)))
  | .amos d _ _ t _ => some (·.writeS d (cExt t (leNat (bs.take (cWidth t / 8)) : Nat)))
  | _ => none

/-- The control word at a position of the shuttle's stream, decoded. -/
def State.wordAt (s : State) (w : Who) (pc : Nat) : Option Instr :=
  match s.fetchControl { w with sh := { w.sh with pc := BitVec.ofNat 64 pc } } with
  | .bytes x => (match decodeCtl x with
    | .ok i => some i
    | .error _ => none)
  | .trap _ | .swap _ | .wait => none

/-- The control instruction that a trap was raised by. -/
def TrapRec.instr (r : TrapRec) : Option Instr :=
  r.code.bind fun x => match decodeCtl x with
    | .ok i => some i
    | .error _ => none

/-- The instruction that a trap concerns can be completed under REPL (R345). -/
def TrapRec.replaceable (r : TrapRec) (w : Who) : Bool :=
  if r.lane then
    match w.sh.queue with
    | q :: _ => (match q.word with | some i => (replLane i noRepl).isSome | none => false)
    | [] => false
  else
    match r.instr with
    | some i => (replControl i []).isSome
    | none => false

/-- The conditions under which a resume is rejected (R343). -/
def State.resumeBad (s : State) (w : Who) (r : TrapRec) (f : Frame) : Bool :=
  (f.repl && f.skip) || (f.repl && !(r.cause == 0x075 && r.replaceable w)) || (r.defer && (f.repl || f.skip)) ||
    (f.cpc != r.cpc && !s.validTarget w.blk.ctx (BitVec.ofNat 64 f.cpc))

/-- A shuttle is memory-bound (R245). -/
def Shuttle.memoryBound (sh : Shuttle) : Bool := ((range 0 64).filter fun i => sh.hist.getLsbD i).length > 32

/-- A stopped run goes on: it competes for a lane again, or ends when it is past its boundary word (R343). That of a
memory-bound shuttle competes once R246 lets it. -/
def resumeRun (bound : Bool) (now : Nat) (r : Run) : Run := if bound then r else { r with phase := .ready now }

/-- What becomes of the stopped run after a lane trap (R343, R81). Under REPL the instruction completes at once, or, where a
thread outside the mask waits for a page, with the replacement once the page is there (R345). -/
def State.resumeLane (s : State) (w : Who) (r : TrapRec) (f : Frame) : State :=
  if r.cause == 0x031 then
    s.updSh w.h fun sh =>
      if f.skip then { sh with queue := sh.queue.tail }
      else sh.updHead fun q => { q with phase := .queued, off := 0 }
  else
    let s1 := s.updSh w.h (·.updHead (resumeRun w.sh.memoryBound s.now))
    if f.skip then s1.updSh w.h (·.updHead Run.onward)
    else if f.repl then
      let s2 := s1.updSh w.h (·.updHead fun q => { q with repl := some (r.tmask, f.block) })
      match w.sh.queue with
      | q :: _ =>
        (match q.word with
        | some i => (match replLane i (replFrom r.tmask f.block) with
          | some k => k s2 w q
          | none => s2)
        | none => s2)
      | [] => s2
    else s1

/-- Where the control stream resumes after a precise control trap, and what the word completes with (R343). -/
def State.resumeControl (s : State) (w : Who) (r : TrapRec) (f : Frame) (cpc : Nat) : State :=
  let i := r.instr
  let width : Nat := match i with | some (.cpym ..) => 8 | _ => 4
  let skipped (x : State) : State := x.updCore w.coreKey fun c =>
    { c with np := { c.np with passed := c.np.passed.filter (· != w.h) } }
  if cpc != r.cpc then skipped (s.updSh w.h (·.jump (BitVec.ofNat 64 cpc)))
  else if f.repl then
    match i with
    | some j => (match replControl j (f.block.take 16) with
      | some k => s.updSh w.h fun sh => (k sh).jump (BitVec.ofNat 64 (r.cpc + 4))
      | none => s)
    | none => s
  else if f.skip then skipped (s.updSh w.h (·.jump (BitVec.ofNat 64 (r.cpc + width))))
  else s.updSh w.h (·.jump (BitVec.ofNat 64 r.cpc))

/-- The oldest pending deferred trap is delivered before anything resumes (R342, R343). -/
def State.deliverPending (s : State) (h : Nat) : State :=
  match s.sh? h with
  | none => s
  | some sh =>
    match sh.deferred with
    | [] => s
    | d :: ds => s.deliver h d fun x => { x with deferred := ds }

/-- What the frame's trap stopped goes on, with the control stream at `cpc` (R343). -/
def State.resumeWith (s : State) (w : Who) (r : TrapRec) (f : Frame) (cpc : Nat) : State :=
  if r.defer then s.updSh w.h fun x =>
    { x.jump (BitVec.ofNat 64 cpc) with held := if cpc = r.cpc then x.held else none }
  else if r.lane then (s.updSh w.h (·.jump (BitVec.ofNat 64 cpc))).resumeLane w r f
  else s.resumeControl w r f cpc

/-- While a deferred trap is pending it is delivered first, and what the frame's trap stopped goes on after its handler's
ERET (R342, R343): the shuttle keeps what is owed. A control trap whose CPC changed is over. -/
def State.oweFirst (s : State) (w : Who) (r : TrapRec) (f : Frame) : State :=
  if !r.defer && !r.lane && f.cpc != r.cpc then (s.resumeControl w r f f.cpc).deliverPending w.h
  else
    (s.updSh w.h fun sh =>
      { sh.jump (BitVec.ofNat 64 f.cpc) with
          owed := if r.defer then sh.owed else some (r, f.word, f.block)
          held := if f.cpc = r.cpc then sh.held else none }).deliverPending w.h

/-- The return from handler mode with its frame read (R343). -/
def State.returnFrom (s : State) (w : Who) (r : TrapRec) (f : Frame) : State :=
  let s1 := s.updSh w.h fun sh => { sh with s := (sh.s.set 60 f.save60).set 61 f.save61 }
  if s.resumeBad w r f then s1.fatalTrap w.h 0x1A8 r
  else
    let s2 := (s1.leaveCode (· == w.h)).updSh w.h fun sh => { sh with handler := false, trap := none, record := none }
    let w2 := { w with sh := { w.sh with handler := false, trap := none, s := (w.sh.s.set 60 f.save60).set 61 f.save61 } }
    if !w.sh.deferred.isEmpty then s2.oweFirst w2 r f
    else
      match r.defer, w.sh.owed with
      | true, some (r0, word, block) =>
        (s2.updSh w.h fun sh => { sh with owed := none }).resumeWith w2 r0 { word := word, block := block } f.cpc
      | _, _ => s2.resumeWith w2 r f f.cpc

/-- The frame read as the handler's own access; a fault of the read is a trap within the handler (R341, R343). -/
def State.readFrame (s : State) (w : Who) (fa : Nat) (k : Frame → State) : State :=
  match s.check w.blk.site w.blk.ctx w.sh.fatalPages false 5 1 [(0, fa), (1, fa + 255)] with
  | .trap c _ a => s.raise w { cause := c, tmask := 1, addr := a }
  | .wait ps => s.waitsOn w ps
  | .go pas =>
    let lo := (pas.headD (0, 0)).2
    let hi := (pas.getLastD (0, 0)).2
    let at_ (i : Nat) : Nat := if fa / 65536 == (fa + i) / 65536 then lo + i else hi + i - 255
    let all := (range 0 256).map fun i => (0, at_ i)
    if all.any fun e => s.farGone e.2 then s.raise w { cause := 0x1CD, tmask := 1, addr := fa }
    else if !(s.poisoned all).isEmpty then
      (s.findBad (all.map fun e => e.2 / 64)).raise w { cause := 0x075, tmask := 1, addr := fa }
    else
      let bs := all.map fun e => s.viewByte w.blk.site w.blk.core e.2
      k { word := leNat (bs.take 128), block := bs.drop 128 }

/-- ERET (R343). -/
def execEret (s : State) : Host.Outcome State Fault Refusal :=
  onCur s fun w => s.whenDrained w (
    match w.sh.trap, s.ctx? w.blk.ctx with
    | some r, some e =>
      if !w.sh.handler then s.trap w 0x188
      else s.readFrame w (frameAddr e w.blk w.sh.idx) (s.returnFrom w r)
    | _, _ => s.trap w 0x188)

end Sys2Proof.Machine
end

