-- ==== Sys2Proof/Machine/EvCore.lean ====
section
/-! DEFINITION. Steps of a core's register pool and lanes: RUN_READY (R81, R82, R246), LANE_ARBITRATION (R328), RUN_END
(R71), the breaker (R83), the end of draining (R85), and the waits of runs that end (R140, R141). -/

namespace Sys2Proof.Machine

/-! ## The names that a run writes (R81) -/

/-- A name and the ones above it. -/
def namesFrom (n : Fin 256) (k : Nat) : List (Fin 256) := (range 0 k).map fun i => Fin.ofNat 256 (n.val + i)

/-- The main-file names of a destination with `k` registers. -/
def dstNames (d : LDst) (k : Nat) : List (Fin 256) :=
  match d with
  | .main n => namesFrom n k
  | .opf _ | .lat => []

/-- Registers of a loaded value (R36, R153). -/
def mRegs (t : MType) : Nat := (mSize t + 3) / 4

/-- The main-file names that a lane instruction writes. -/
def laneWrites (i : Instr) : List (Fin 256) :=
  match i with
  | .lMulfull _ _ d _ _ => namesFrom d 2
  | .lXeval _ d _ _ _ _ => namesFrom d 3
  | .lLd _ t _ d _ _ | .lLdw _ t _ _ d _ _ | .lRld _ t d _ _ _ _ => dstNames d (mRegs t)
  | .lLdg _ wide d _ _ _ => dstNames d (if wide then 2 else 1)
  | .lAdd _ _ _ d _ _ | .lSub _ _ _ d _ _ | .lMul _ _ _ d _ _ | .lMulhi _ _ d _ _ | .lMad _ _ _ d _ _ _
  | .lMin _ _ d _ _ | .lMax _ _ d _ _ | .lAbs _ _ _ d _ | .lNeg _ _ _ d _ | .lSum3 _ _ _ d _ _ _
  | .lClamp _ _ _ d _ _ _ | .lQdot _ _ _ d _ _ _ | .lHdot _ _ _ d _ _ _ | .lAnd _ d _ _ | .lOr _ d _ _
  | .lXor _ d _ _ | .lNot _ d _ | .lShl _ d _ _ | .lShr _ d _ _ | .lSra _ _ d _ _ | .lRot _ d _ _ | .lPopc _ d _
  | .lClz _ d _ | .lBrev _ d _ | .lBfx _ _ d _ _ _ | .lBfi _ d _ _ _ | .lBytesel _ d _ _ _ | .lTruth _ d _ _ _ _
  | .lScadd _ d _ _ _ | .lFunnel _ _ d _ _ _ | .lFadd _ _ _ d _ _ | .lFsub _ _ _ d _ _ | .lFmul _ _ _ d _ _
  | .lFma _ _ _ d _ _ _ | .lFdot2 _ _ _ d _ _ _ | .lFmin _ _ d _ _ | .lFmax _ _ d _ _ | .lFclamp _ _ d _ _ _
  | .lFabs _ _ d _ | .lFneg _ _ d _ | .lFcpsgn _ _ d _ _ | .lFrnd _ _ _ d _ | .lFdiv _ d _ _ | .lFsqrt _ d _
  | .lFrcp _ d _ | .lFrsq _ d _ | .lFexp2 _ d _ | .lFlog2 _ d _ | .lFsin _ d _ | .lFcos _ d _ | .lFldexp _ _ d _ _
  | .lFclass _ d _ | .lCvt _ _ _ _ _ d _ | .lCvtpk _ _ _ _ _ d _ _ | .lQblk _ _ _ _ d _ _ | .lDqblk _ _ d _ _
  | .lSel _ d _ _ _ | .lPass _ _ d _ _ | .lScan _ _ _ d _ | .lMov _ d _ | .lLtid _ d | .lBld _ d _ _ _
  | .lAmo _ _ _ _ d _ _ _ | .lAmo3 _ _ _ _ _ d _ _ _ => dstNames d 1
  | _ => []

/-- The distinct names that words write and that are unbound, each with the run offset of its first write (R81). -/
def unboundWrites (sh : Shuttle) : Nat → List Nat → List (Nat × Fin 256) → List (Nat × Fin 256)
  | _, [], acc => acc
  | off, x :: xs, acc =>
    let names := match decodeLane x with
      | .ok i => laneWrites i
      | .error _ => []
    unboundWrites sh (off + 1) xs (names.foldl (fun a n =>
      if (sh.v.get n).isSome || a.any fun e => e.2 == n then a else a ++ [(off, n)]) acc)

/-! ## Lines -/

/-- A run is frozen in handler mode and while its shuttle waits to enter it (R340, R341). -/
def Shuttle.frozen (sh : Shuttle) : Bool :=
  sh.handler || (sh.wait == .memory && (!sh.deferred.isEmpty || sh.laneTrap.isSome || sh.held.isSome))

/-- A shuttle whose queued runs may compete: its block is resident and not being stopped (R331, R341). -/
def State.competes (s : State) (h : Nat) (sh : Shuttle) : Bool :=
  sh.status == .running && !sh.frozen &&
    match s.blk? (blockOf h) with
    | some b => b.status == .resident && !b.stopping
    | none => false

/-- The pool can supply a need (R82, R83, R316): the supervisor's lines are set apart, the favoured shuttle draws on the
reserve, others never reduce the free lines below it. -/
def State.supplies (s : State) (c h need : Nat) : Bool :=
  s.isSuper (blockOf h) || need == 0 || ((s.core c).favoured == some h && need ≤ s.freeLines c) ||
    need + s.reserve c ≤ s.freeLines c

/-- Lines are set aside and the run competes (R81). -/
def State.setAside (s : State) (h need : Nat) : State :=
  s.updSh h (·.updHead fun r => { r with phase := .ready s.now, aside := need, since := none })

/-- The head run's need. -/
def Shuttle.need (sh : Shuttle) : Nat :=
  match sh.queue with
  | r :: _ => (unboundWrites sh 0 r.words []).length
  | [] => 0

/-- Freed lines go to waiting shuttles, oldest first, while they suffice (R82). -/
def State.grantEach (s : State) (c : Nat) : List Nat → State
  | [] => s
  | h :: hs =>
    match s.sh? h with
    | some sh => if s.supplies c h sh.need then State.grantEach (s.setAside h sh.need) c hs else s
    | none => State.grantEach s c hs

/-- A number put before the first with a greater key. -/
def insertBy (key : Nat → Nat) : List Nat → Nat → List Nat
  | [], x => [x]
  | y :: t, x => if key x < key y then x :: y :: t else y :: insertBy key t x

/-- The age of a shuttle: block admission, then index (R82). -/
def State.age (s : State) (h : Nat) : Nat :=
  match s.blk? (blockOf h) with
  | some b => 64 * b.admitted + h % 64
  | none => 0

/-- The shuttles of a core in enlarge wait, oldest first. -/
def State.waitingLines (s : State) (c : Nat) : List Nat :=
  ((s.residents c).filter fun e => match e.2.queue with | r :: _ => r.phase == .enlarge | [] => false).foldl
    (fun l e => insertBy s.age l e.1) []

/-- What the core grants after lines came free: the favoured shuttle first (R83). -/
def State.grantLines (s : State) (c : Nat) : State :=
  let ws := s.waitingLines c
  match (s.core c).favoured with
  | some f => s.grantEach c ((ws.filter (· == f)) ++ ws.filter (· != f))
  | none => s.grantEach c ws

/-! ## RUN_READY -/

/-- Memory-bound shuttles of a core that have a run competing (R246). -/
def State.boundCompeting (s : State) (c : Nat) : Nat :=
  ((s.residents c).filter fun e => e.2.memoryBound && match e.2.queue with
    | r :: _ => (match r.phase with | .ready _ | .enlarge => true | .queued | .running _ | .stopped => false)
    | [] => false).length

/-- The head run stopped, and no trap keeps it (R246, R343). -/
def Shuttle.restarts (sh : Shuttle) (r : Run) : Bool :=
  r.phase == .stopped && sh.laneTrap.isNone && sh.owed.isNone && !sh.handler

/-- The head run has been held back since a time (R246). -/
def Shuttle.heldSince (sh : Shuttle) : Option Nat :=
  match sh.queue with
  | r :: _ => if r.phase == .queued || sh.restarts r then r.since else none
  | [] => none

/-- R246 holds the shuttle's run back: the cap is reached, or another has been held back for longer. -/
def State.heldBack (s : State) (c : Nat) (sh : Shuttle) : Bool :=
  sh.memoryBound && (s.boundCompeting c ≥ (s.core c).cap || (s.residents c).any fun e =>
    e.2.memoryBound && match e.2.heldSince, sh.heldSince with
      | some x, some y => decide (x < y)
      | some _, none => true
      | none, _ => false)

/-- The oldest run is about to compete (R81): the trap of a peak exceeded, enlarge wait, or its lines set aside. -/
def State.compete (s : State) (c h : Nat) (sh : Shuttle) (r : Run) : State :=
  let ws := unboundWrites sh 0 r.words []
  let peak := s.peakOf h
  if sh.bound + ws.length > peak then
    let off := (ws.getD (peak - sh.bound) (0, 0)).1
    s.updSh h fun x => { x.updHead fun q => { q with phase := .stopped, since := none } with
      laneTrap := some { cause := 0x031, lane := true, lword := r.lword, roff := off } }
  else if s.supplies c h ws.length then s.setAside h ws.length
  else s.updSh h (·.updHead fun q => { q with phase := .enlarge, since := none })

/-- A queued run comes to compete; one that stopped part-way competes again (R246, R343). -/
def State.runReady (s : State) (h : Nat) : State :=
  match s.sh? h, s.blk? (blockOf h) with
  | some sh, some blk =>
    match sh.queue with
    | r :: _ =>
      if !(r.phase == .queued || sh.restarts r) || !s.competes h sh then s
      else if s.heldBack blk.coreKey sh then
        s.updSh h (·.updHead fun q => { q with since := match q.since with | some n => some n | none => some s.now })
      else if r.phase == .queued then s.compete blk.coreKey h sh r
      else s.updSh h (·.updHead fun q => { q with phase := .ready s.now, since := none })
    | [] => s
  | _, _ => s

/-- RUN_READY (R81). -/
def execRunReady (h : Nat) (s : State) : Host.Outcome State Fault Refusal := .next (s.runReady h)

/-! ## LANE_ARBITRATION -/

/-- The cycle from which the head run is ready. -/
def Shuttle.readySince (sh : Shuttle) : Option Nat :=
  match sh.queue with
  | r :: _ => (match r.phase with | .ready n => some n | .queued | .enlarge | .running _ | .stopped => none)
  | [] => none

/-- A lane of a core is taken. -/
def State.laneTaken (s : State) (c lane : Nat) : Bool :=
  (s.residents c).any fun e => match e.2.queue with | r :: _ => r.phase == .running lane | [] => false

/-- Of two candidates the one ready earlier, and on a tie the one in the lower slot (R328). -/
def earlier (x y : Nat × Shuttle) : Nat × Shuttle :=
  match x.2.readySince, y.2.readySince with
  | some a, some b => if b < a || (a == b && y.2.slot < x.2.slot) then y else x
  | _, some _ => y
  | _, none => x

/-- The run that a free lane takes (R328). -/
def State.nextRun (s : State) (c lane : Nat) : Option Nat :=
  let cands := (s.residents c).filter fun e =>
    s.competes e.1 e.2 && match e.2.queue, e.2.readySince with | r :: _, some _ => decide (r.off < r.words.length) | _, _ => false
  let pick (l : List (Nat × Shuttle)) : Option Nat :=
    match l with
    | [] => none
    | x :: xs => some (xs.foldl earlier x).1
  match pick (cands.filter fun e => match e.2.readySince with | some n => decide (n + 4096 ≤ s.now) | none => false) with
  | some h => some h
  | none => pick (cands.filter fun e => e.2.slot % (Config.lanes (c / 128) / 8) == lane / 8)

def State.laneArbitration (s : State) (c lane : Nat) : State :=
  if lane ≥ Config.lanes (c / 128) || s.laneTaken c lane then s
  else
    match s.nextRun c lane with
    | none => s
    | some h => s.updSh h fun sh =>
        { sh.updHead fun r => { r with phase := .running lane } with
          latOk := match sh.queue with | r :: _ => if r.off = 0 then 0 else sh.latOk | [] => sh.latOk }

/-- LANE_ARBITRATION (R328). The latch of a run that begins is not written yet (R72). -/
def execLaneArbitration (c lane : Nat) (s : State) : Host.Outcome State Fault Refusal := .next (s.laneArbitration c lane)

/-! ## RUN_END -/

/-- The history takes the bit of a run that ended (R245). -/
def pushHist (h : BitVec 64) (b : Bool) : BitVec 64 := (h <<< 1) ||| (if b then 1 else 0)

def State.runEnd (s : State) (h : Nat) : State :=
  match s.sh? h, s.blk? (blockOf h) with
  | some sh, some blk =>
    match sh.queue with
    | r :: rs =>
      let inLane : Bool := match r.phase with
        | .running _ | .ready _ => true
        | .stopped => sh.restarts r
        | .queued | .enlarge => false
      if inLane && r.off ≥ r.words.length && !sh.frozen then
        (s.updSh h fun x => { x with queue := rs, hist := pushHist x.hist r.waited }).grantLines blk.coreKey
      else s
    | [] => s
  | _, _ => s

/-- RUN_END (R71, R80): the lines set aside and not bound, and the lines released, return to the pool. -/
def execRunEnd (h : Nat) (s : State) : Host.Outcome State Fault Refusal := .next (s.runEnd h)

/-! ## The waits of runs -/

/-- The lane instruction that the head run executes, of a shuttle that holds a lane. -/
def State.laneWord (s : State) (h : Nat) : Option (Who × Run × Instr) :=
  match s.sh? h, s.blk? (blockOf h) with
  | some sh, some blk =>
    match sh.queue with
    | r :: _ =>
      let holds : Bool := match r.phase with | .running _ => true | .queued | .enlarge | .ready _ | .stopped => false
      if holds && !sh.frozen && sh.status == .running && blk.status == .resident then
        (match r.word with | some i => some ({ h := h, sh := sh, blk := blk }, r, i) | none => none)
      else none
    | [] => none
  | _, _ => none

/-- A `.wf` load: its offsets' parts. -/
structure WfLoad where
  hd : Head
  t : MType
  mc : MemCtl
  a : LSrc
  off : W32

/-- The `.wf` load that an instruction is (R152). -/
def wfLoad (i : Instr) : Option WfLoad :=
  match i with
  | .lLd hd t mc _ a off => if mc.wf then some { hd := hd, t := t, mc := mc, a := a, off := off } else none
  | .lLdw hd t wf clr _ a off =>
    if wf then some { hd := hd, t := t, mc := { space := .w, step := none, wf := wf, clr := clr, inv := false }, a := a, off := off }
    else none
  | _ => none

/-- The offsets of a `.wf` load whose checks have passed. -/
def State.wfOffsets (s : State) (w : Who) (r : Run) (l : WfLoad) : List (Nat × Nat) :=
  let np := (s.core w.coreKey).np
  (forThreads (threadsOf (guardOf w.sh l.hd)) (localOff s w r l.a l.off)).map fun e =>
    match l.mc.step with
    | none => e
    | some q => (e.1, np.bufbase + qualStep q r.step % np.depth * np.buflen + e.2)

/-- The store that a space of a block names. -/
def State.spaceStore (s : State) (w : Who) (sp : LSpace) : LStore :=
  match sp with
  | .w => w.blk.w
  | .a | .g => w.blk.a
  | .peer n =>
    match s.window w.blk w.b n.val with
    | some m => s.storeOf { block := m.block, ws := false, peer := none }
    | none => { bytes := 0, cells := [], free := none, full := [] }

/-- The threads of a `.wf` load whose granules are empty (R141). -/
def State.emptyThreads (s : State) (w : Who) (r : Run) (l : WfLoad) : List (Nat × Nat) :=
  let st := s.spaceStore w l.mc.space
  (s.wfOffsets w r l).filter fun e => !((granules e.2 (mSize l.t)).all st.isFull)

/-- A waiting `.wf` load executes again (R140). -/
def State.wfRelease (s : State) (h : Nat) : State :=
  match s.laneWord h with
  | some (w, r, .lLd hd t mc d a off) => if mc.wf && r.since.isSome then laneLd hd t mc d a off noRepl s w r else s
  | some (w, r, .lLdw hd t wf clr d a off) =>
    if wf && r.since.isSome then s.loadL w r hd t { space := .w, step := none, wf := wf, clr := clr, inv := false } d a off
    else s
  | _ => s

/-- WF_WAIT_RELEASE (R140): the load finds its granules full, reads and clears in one step; otherwise it waits on. -/
def execWfWaitRelease (h : Nat) (s : State) : Host.Outcome State Fault Refusal := .next (s.wfRelease h)

def State.wfExpired (s : State) (h : Nat) : State :=
  match s.laneWord h with
  | some (w, r, i) =>
    match wfLoad i, r.since with
    | some l, some t0 =>
      let bad := s.emptyThreads w r l
      if t0 + 2 ^ 20 ≤ s.now && r.pages.isEmpty && !bad.isEmpty then s.laneCheck w 0x0AD bad s else s
    | _, _ => s
  | none => s

/-- FULL_EMPTY_WAIT_EXPIRED (R141). -/
def execFullEmptyWaitExpired (h : Nat) (s : State) : Host.Outcome State Fault Refusal := .next (s.wfExpired h)

/-! ## The breaker (R83) -/

/-- Something of the shuttle's is under way in the machine: a posted write, a command, an operation, a message, a
packet (R83, R85, R184). -/
def State.busy (s : State) (h c : Nat) : Bool :=
  let k := s.core c
  (s.posted.any fun p => p.h == h) || s.ownPeers h || s.ownColl h || (k.copyQ.any (·.h == h)) || (k.copySlots.any (·.h == h)) ||
    (k.matQ.any (·.h == h)) || (k.matSlots.any (·.h == h)) || (k.sendQ.any (·.h == h)) || k.sendSlots.any (·.h == h)

/-- The shuttle is in enlarge wait. -/
def Shuttle.enlarging (sh : Shuttle) : Bool := match sh.queue with | r :: _ => r.phase == .enlarge | [] => false

/-- The shuttle is blocked on a barrier object, a granule, or a neighbour-paced step, and on nothing else: nothing of its own
is under way. DESIGN CHOICE (log 83): a shuttle whose lane waits counts although its control stream may go on, as one in
enlarge wait does. -/
def State.blockedLocally (s : State) (h c : Nat) (sh : Shuttle) : Bool :=
  let lane : Bool := match s.laneWord h with
    | some (_, r, i) => r.since.isSome && r.pages.isEmpty && ((wfLoad i).isSome || match i with | .lRld .. => true | _ => false)
    | none => false
  let control : Bool := match sh.wait with
    | .barrier _ => true
    | .paced => true
    | .none | .woken | .gbar | .slot | .memory | .newUse _ | .other => false
  (lane || (control && (sh.queue.isEmpty || sh.handler))) && !s.busy h c

/-- The breaker's condition over the shuttles of a core (R83, R316). DESIGN CHOICE (log 83): that no response is outstanding
is asked of the shuttles that are blocked otherwise, and not of those in enlarge wait. -/
def State.stuck (s : State) (c : Nat) : Bool :=
  let hs := (s.residents c).filter fun e => e.2.status == .running && !s.isSuper (blockOf e.1)
  hs.any (fun e => e.2.enlarging) && hs.all fun e => e.2.enlarging || s.blockedLocally e.1 c e.2

def State.breaker1 (s : State) (c : Nat) : State :=
  if s.stuck c && (s.core c).favoured.isNone then
    match (s.waitingLines c).filter fun h => !s.isSuper (blockOf h) with
    | h :: _ => (s.updCore c fun k => { k with favoured := some h }).grantLines c
    | [] => s
  else s

/-- BREAKER_STAGE1 (R83). -/
def execBreakerStage1 (c : Nat) (s : State) : Host.Outcome State Fault Refusal := .next (s.breaker1 c)

/-- A block holds its core in neighbour-paced mode (R225). -/
def State.inMode (s : State) (b : Nat) (k : Block) : Bool :=
  (s.core k.coreKey).np.owner == some b && (s.core k.coreKey).np.on

/-- The blocks that a block takes along directly: the members of its group (R224), and, where `grid`, the neighbour-paced
blocks of its grid on its die (R231, R330). -/
def State.goesWith (s : State) (grid : Bool) (b : Nat) : List Nat :=
  match s.blk? b with
  | none => []
  | some blk =>
    (match s.groupOf blk.quadKey b with
      | some g => g.members.map fun e => e.2.block
      | none => []) ++
    (if grid && s.inMode b blk then
      (s.blocks.filter fun e => e.2.launch == blk.launch && e.2.site == blk.site && s.inMode e.1 e.2).map (·.1) else [])

/-- A list with all that its members take along, and what those take along; `n` bounds the rounds. -/
def closure (f : Nat → List Nat) : Nat → List Nat → List Nat
  | 0, bs => bs
  | n + 1, bs =>
    let all := (bs.flatMap f).foldl insertNat bs
    if all == bs then bs else closure f n all

/-- The blocks that leave together with one. A swap-out takes its group along (R224); the other blocks of a neighbour-paced
grid stay, and its core stays its own (R231). -/
def State.together (s : State) (grid : Bool) (b : Nat) : List Nat :=
  closure (s.goesWith grid) s.blocks.length [b]

/-- Two blocks belong to one gang of their launch (R325). -/
def State.sameGang (s : State) (j k : Block) : Bool :=
  j.launch == k.launch && match s.launch? k.launch with
    | some l => l.place == 2 || (l.place == 1 && j.linear / 4 == k.linear / 4)
    | none => false

/-- A block gives back the place that it has not been admitted to. -/
def Block.unplaced (k : Block) : Block := { k with status := .saved, tiles := [] }

/-- Placed blocks give back their places, for the last NPENTER of a core has been executed (R226). -/
def State.unplaceAll (s : State) (bs : List Nat) : State := bs.foldl (fun x b => x.updBlk b Block.unplaced) s

/-- The core of one of the blocks admits no further block (R226). -/
def State.entryBars (s : State) (bs : List Nat) : Bool :=
  bs.any fun b => match s.blk? b with | some k => s.entryPending k.coreKey | none => false

/-- Blocks begin to stop (R331); a partition's supervisor block never does (R315). One that is placed and not yet admitted
gives back its place, with its gang (R325). -/
def State.stopBlocks (s : State) (bs : List Nat) (f : Block → Block) : State :=
  let placed := s.blocks.filter fun e => bs.contains e.1 && e.2.status == .placed && !e.2.supervisor
  { s with blocks := s.blocks.map fun (j, k) =>
      (j, if bs.contains j && k.status == .resident && !k.supervisor then f { k with stopping := true }
        else if k.status == .placed && placed.any (fun e => e.1 == j || s.sameGang e.2 k) then k.unplaced
        else k) }

/-- A pre-emption, which is no swap-out. -/
def Block.leaves (k : Block) : Block := { k with swap := false, victim := none }

/-- The youngest block of a core besides one (R83). -/
def State.youngest (s : State) (c besides : Nat) : Option Nat :=
  ((s.guests c).filter (· != besides)).foldl (fun m b => match m with
    | none => some b
    | some x => if s.age (64 * x) < s.age (64 * b) then some b else some x) none

def State.breaker2 (s : State) (c : Nat) : State :=
  match (s.core c).favoured with
  | none => s
  | some f =>
    match s.sh? f with
    | none => s
    | some sh =>
      if s.stuck c && !sh.enlarging then
        match s.youngest c (blockOf f) with
        | some y => (s.stopBlocks (s.together false y) fun k => { k with swap := true }).updBlk y fun k => { k with victim := some f }
        | none => s
      else s

/-- BREAKER_STAGE2 (R83): the swap-out of the youngest other block begins. -/
def execBreakerStage2 (c : Nat) (s : State) : Host.Outcome State Fault Refusal := .next (s.breaker2 c)

/-! ## The end of a block -/

/-- A waiter of a surviving member traps with 0x108 (R223): a `.wf` load of its lane, and BWAIT or GBAR.quad of its control
stream. -/
def State.peerLostWait (s : State) (h q : Nat) : State :=
  match s.sh? h, s.blk? (blockOf h) with
  | some sh, some blk =>
    let w : Who := { h := h, sh := sh, blk := blk }
    let inQuad : Bool := ((s.quad q).bars.any fun e => e.2.arrived.contains h) ||
      match s.wordAt w sh.pc.toNat with | some (.gbar false _) => true | _ => false
    let s1 := match s.laneWord h with
      | some (lw, r, i) =>
        (match wfLoad i with
        | some l => if r.since.isSome then s.laneCheck lw 0x108 (s.emptyThreads lw r l) s else s
        | none => s)
      | none => s
    match sh.wait with
    | .barrier _ => s1.raise w { cause := 0x108 }
    | .gbar => if inQuad then (s1.withdraw false (· == h)).raise w { cause := 0x108 } else s1
    | .none | .woken | .paced | .slot | .memory | .newUse _ | .other => s1
  | _, _ => s

/-- A block counts as lost for its group (R223): LOST is set, waiting members trap, a group of lost ones only is freed. -/
def State.loseMember (s : State) (b : Nat) : State :=
  match s.blk? b with
  | none => s
  | some blk =>
    match s.groupOf blk.quadKey b with
    | none => s
    | some g =>
      let mark (x : Group) : Group :=
        { x with members := x.members.map fun (n, m) => (n, if m.block == b then { m with lost := true } else m) }
      let s1 := s.updQuad blk.quadKey fun q =>
        { q with groups := (q.groups.map mark).filter fun x => !(x.members.all fun e => e.2.lost) }
      let others := (g.members.filter fun e => e.2.block != b && !e.2.lost).map fun e => e.2.block
      (others.flatMap s.shuttlesOf).foldl (fun x h => x.peerLostWait h blk.quadKey) s1

/-- The RLDs of a die that wait on a core learn that it has left the mode or is lost (R229). -/
def State.goneFor (s : State) (site core : Nat) : State :=
  { s with shuttles := s.shuttles.map fun (h, sh) =>
      (h, match s.blk? (blockOf h) with
        | some b => if b.site == site && b.status == .resident then sh.updHead fun r =>
            if r.since.isSome then { r with gone := insertNat r.gone core } else r else sh
        | none => sh) }

/-- A core leaves neighbour-paced mode (R230). -/
def State.leaveMode (s : State) (c : Nat) (passed : List Nat) : State :=
  (s.updCore c fun k => { k with np := { Paced.off with passed := passed, left := true } }).goneFor (c / 128) (c % 128)

/-- A shuttle that holds nothing any more (R85). -/
def Shuttle.exit (sh : Shuttle) : Shuttle :=
  { sh with status := .exited, v := Vector.replicate 256 none, queue := [], pend := [], wait := .none, resv := none,
            handler := false, trap := none, owed := none, held := none, laneTrap := none, deferred := [] }

/-- A block ends (R85): its shuttles hold nothing any more, its space is free, its launch counts it. A lost block fails
its launch, its group's windows report the loss, and its core leaves the mode (R223, R344). -/
def State.endBlock (s : State) (b : Nat) (lost : Bool) : State :=
  match s.blk? b with
  | none => s
  | some blk =>
    let c := blk.coreKey
    let here : Bool := blk.holds
    let mine (h : Nat) : Bool := blockOf h == b
    let s1 := if lost then s.loseMember b
      else s.updQuad blk.quadKey fun q => { q with groups := leaveGroup b q.groups }
    let s2 : State :=
      { s1.leaveCode mine with
        shuttles := s1.shuttles.map fun (h, sh) => (h, if mine h then sh.exit else sh)
        older := s1.older.filter fun o => !mine o.h
        hubs := s1.hubs.map fun (i, u) =>
          (i, { u with podWaits := u.podWaits.map fun p => if mine p.h then { p with landed := true } else p }) }
    let s3 := (((s2.updBlk b fun k => { k with status := .ended, stopping := false, image := none }).withdraw true mine).emptySlots
      mine).dropRecvs b
    let s4 := s3.updLaunch blk.launch fun l => { l with ended := l.ended + 1, failed := l.failed || lost }
    let s5 := if here then s4.updCore c fun k =>
        { k with copyQ := k.copyQ.filter (·.block != b), copySlots := k.copySlots.filter (·.block != b),
                 matQ := k.matQ.filter (·.block != b),
                 favoured := match k.favoured with | some f => if mine f then none else some f | none => none } else s4
    let s6 := if lost && (s5.core c).np.owner == some b then s5.leaveMode c [] else s5
    (if here then (s6.grantLines c).takeFollows c else s6).gbarCheckAll

/-- Draining has nothing left to wait for (R85, R86, R184). -/
def State.drained (s : State) (h c : Nat) (sh : Shuttle) : Bool :=
  sh.status == .draining && !sh.handler && sh.deferred.isEmpty && !s.busy h c

def State.drainEnd (s : State) (h : Nat) : State :=
  match s.sh? h, s.blk? (blockOf h) with
  | some sh, some blk =>
    if blk.status != .resident || blk.stopping || !s.drained h blk.coreKey sh then s
    else
      let s1 := s.updSh h fun x => { x with status := .exited, v := Vector.replicate 256 none }
      let s2 := s1.updCore blk.coreKey fun k => { k with favoured := if k.favoured == some h then none else k.favoured }
      let last := (s2.shuttlesOf (blockOf h)).all fun j => match s2.sh? j with | some x => x.status == .exited | none => true
      if last then s2.endBlock (blockOf h) false else s2.grantLines blk.coreKey
  | _, _ => s

/-- DRAIN_END (R85): the shuttle's lines return; with the last shuttle the block's space is freed. -/
def execDrainEnd (h : Nat) (s : State) : Host.Outcome State Fault Refusal := .next (s.drainEnd h)

end Sys2Proof.Machine
end

