-- ==== Sys2Proof/Machine/EvSched.lean ====
section
/-! DEFINITION. Dispatch, admission, pre-emption, resume and halt-and-capture (R137, R138, R321 to R334), and launches
(R321, R322). -/

namespace Sys2Proof.Machine

/-! ## Times -/

/-- Arithmetic cycles of a number of microseconds at the present clock (R377). -/
def State.micros (s : State) (n : Nat) : Nat := s.mgmt.mhz * n

/-- Blocks of a launch. -/
def Launch.total (l : Launch) : Nat := l.gx * l.gy * l.gz

/-! ## Candidates (R323) -/

/-- A block or gang that waits for a place: who it is (twice a launch's key, or twice a block's plus one), its rank, since
when it waits, and the blocks that resume. -/
structure Cand where
  who : Nat
  prio : Nat
  resuming : Bool
  seq : Nat
  linear : Nat
  since : Nat
  unit : List Nat
  deriving DecidableEq

/-- The order of R323: priority, resuming blocks first, sequence number, linear order. -/
def Cand.before (x y : Cand) : Bool :=
  if x.prio != y.prio then decide (y.prio < x.prio)
  else if x.resuming != y.resuming then x.resuming
  else if x.seq != y.seq then decide (x.seq < y.seq)
  else decide (x.linear < y.linear)

/-- A candidate put in its place. -/
def insertCand : List Cand → Cand → List Cand
  | [], x => [x]
  | y :: t, x => if x.before y then x :: y :: t else y :: insertCand t x

/-- What names a new block or gang among those that wait: its launch and its first linear index. -/
def newWho (key linear : Nat) : Nat := 2 * (2 ^ 48 * key + linear)
/-- The launch of a new block or gang. -/
def whoLaunch (who : Nat) : Nat := who / 2 / 2 ^ 48

/-- The fetch fault that took a block out has been serviced or declared fatal (R329, R333). -/
def State.faultSettled (s : State) (b : Nat) (blk : Block) : Bool :=
  match blk.onFault with
  | none => true
  | some page =>
    ((s.shuttlesOf b).any fun h => match s.sh? h with | some x => x.fatalPages.contains page | none => false) ||
      match s.walkOf blk.ctx (page * 65536) with
      | .page .. | .none => true
      | .serv .. => false

/-- The page of a fetch fault is asked for again while its block is out, where the request found no room (R282, R333). -/
def State.refetch (s : State) (b : Nat) : State :=
  match s.blk? b with
  | some k => (match k.onFault with
    | some page => if k.status == .saved && !s.faultSettled b k then s.request k.site k.ctx [page] else s
    | none => s)
  | none => s

/-- The image took the core's neighbour-paced state along (R231). -/
def Block.tookMode (k : Block) : Bool := match k.image with | some i => i.np.isSome | none => false

/-- The blocks of a status with which a block of that status is admitted again: its group (R224), the blocks of its grid
that were in neighbour-paced mode on its die (R231), and its gang (R325). -/
def State.returnsWith (s : State) (st : BlockStatus) (b : Nat) : List Nat :=
  match s.blk? b with
  | none => []
  | some blk =>
    let group : List Nat := match s.groupOf blk.quadKey b with
      | some g => g.members.map fun e => e.2.block
      | none => []
    (s.blocks.filter fun e => e.2.status == st && (group.contains e.1 || s.sameGang e.2 blk ||
      (blk.tookMode && e.2.tookMode && e.2.launch == blk.launch && e.2.site == blk.site))).map (·.1)

/-- The blocks that are admitted together with one (R224, R231, R325, R332). -/
def State.unitOf (s : State) (st : BlockStatus) (b : Nat) : List Nat := closure (s.returnsWith st) s.blocks.length [b]

/-- The priority and the sequence number of a block's launch. -/
def State.rankOf (s : State) (blk : Block) : Nat × Nat :=
  match s.launch? blk.launch with
  | some l => (l.prio, l.seq)
  | none => (0, 0)

/-- A block that waits to resume, with its unit. -/
def State.oldCand (s : State) (b : Nat) (k : Block) (unit : List Nat) : Cand :=
  { who := 2 * b + 1, prio := (s.rankOf k).1, resuming := true, seq := (s.rankOf k).2, linear := k.linear, since := k.since,
    unit := unit }
/-- A new block or gang from a linear index of a launch on. -/
def newCand (key : Nat) (l : Launch) (linear : Nat) : Cand :=
  { who := newWho key linear, prio := l.prio, resuming := false, seq := l.seq, linear := linear, since := l.since, unit := [] }

/-- The units of a partition that wait to resume; one block stands for its unit. A unit waits for blocks that go with it and
are still being stopped. -/
def State.oldCands (s : State) (p : Nat) : List Cand :=
  s.blocks.filterMap fun (b, k) =>
    let unit := s.unitOf .saved b
    let late : Bool := unit.any fun j => (s.returnsWith .resident j).any fun i => match s.blk? i with
      | some x => x.stopping
      | none => false
    if k.part == p && k.status == .saved && unit.headD b == b && !late &&
        unit.all (fun j => match s.blk? j with | some x => s.faultSettled j x | none => false) then
      some (s.oldCand b k unit)
    else none

/-- The first linear index of a gang that is shorter than the launch's others, if it has one (R325). -/
def Launch.tailAt (l : Launch) : Option Nat :=
  if l.place == 1 && l.total % 4 != 0 && 4 < l.total then some (l.total / 4 * 4) else none

/-- Where the placement of a launch in linear order ends. -/
def Launch.limit (l : Launch) : Nat := if l.tail then l.tailAt.getD l.total else l.total

/-- The next block or gang of each eligible launch of a partition whose context the hub has found valid, and its shorter last
gang, which may find a place where the others have none (R323). -/
def State.newCands (s : State) (p : Nat) : List Cand :=
  s.launches.flatMap fun (key, l) =>
    let live : Bool := (s.ctx? l.ctx).isSome && match s.part? p with | some x => (Tab.get? x.live (l.ctx % 256)).isSome | none => false
    if l.part == p && l.eligible && !l.left && l.nextBlock < l.limit && live then
      newCand key l l.nextBlock :: match l.tailAt with
        | some n => if !l.tail && l.nextBlock < n then [newCand key l n] else []
        | none => []
    else []

/-- What a reservation was made for: a block that waits, or one that is placed and not yet admitted (R323). -/
def State.candOf (s : State) (who : Nat) : Option Cand :=
  if who % 2 == 1 then (s.blk? (who / 2)).map fun k => s.oldCand (who / 2) k []
  else (s.launch? (whoLaunch who)).map fun l => newCand (whoLaunch who) l (who / 2 % 2 ^ 48)

/-- Every waiting block in the order of R323. -/
def State.cands (s : State) (p : Nat) : List Cand := (s.oldCands p ++ s.newCands p).foldl insertCand []

/-! ## Places (R324, R325) -/

/-- The column of a block's core (R325). -/
def Block.column (k : Block) : Nat := k.core / 4 % Config.columns k.site
/-- The row of a core's key, with its die. -/
def rowOf (c : Nat) : Nat := 4 * (c / 128) + c % 128 / 4 / Config.columns (c / 128)

/-- Blocks that stand on cores and go with a unit: it returns to their quad or row (R224, R325). -/
def State.anchors (s : State) (unit : List Nat) : List Block :=
  unit.flatMap fun b => ((s.returnsWith .resident b) ++ (s.returnsWith .placed b)).filterMap s.blk?

/-- Where a unit may resume on a die (R231, R325, R331, R332): the cores for its blocks, in their order, each at its former
position. -/
def State.unitPlaces (s : State) (unit : List Nat) (site : Nat) : List (List Nat) :=
  let ks := unit.filterMap s.blk?
  let grouped : Bool := unit.any fun b => match s.blk? b with | some k => (s.groupOf k.quadKey b).isSome | none => false
  let owned : Bool := unit.any fun b => match s.blk? b with | some k => (s.core k.coreKey).np.owner == some b | none => false
  let place := (ks.filterMap fun k => (s.launch? k.launch).map (·.place)).foldl max 0
  let anchors := s.anchors unit
  if owned then (if ks.all fun k => k.site == site then [ks.map (·.coreKey)] else [])
  else if ks.any Block.tookMode then (if Config.isReed site then [ks.map fun k => 128 * site + k.core] else [])
  else if place == 2 then
    if ks.all fun k => k.column < Config.columns site then
      ((range 0 4).map fun r => ks.map fun k => 128 * site + 4 * (r * Config.columns site + k.column) + k.core % 4).filter fun cs =>
        cs.all fun c => anchors.all fun a => rowOf a.coreKey == rowOf c
    else []
  else if grouped || place == 1 then
    ((range 0 (Config.quads site)).map fun q => ks.map fun k => 128 * site + 4 * q + k.core % 4).filter fun cs =>
      cs.all fun c => anchors.all fun a => a.quadKey == quadOf c
  else (range 0 (Config.cores site)).map fun c => ks.map fun _ => 128 * site + c

/-- The groups that a unit takes to other quads: each with the quad that it goes to. -/
def State.movingGroups (s : State) (unit cs : List Nat) : List (Nat × Group) :=
  distinct ((unit.zip cs).filterMap fun (b, c) =>
    match s.blk? b with
    | none => none
    | some k =>
      match s.groupOf k.quadKey b with
      | none => none
      | some g => if k.quadKey == quadOf c then none else some (quadOf c, g))

/-- The groups of a unit find slots in the quad that they move to: of its eight enough are free, and no other group there has
the context and tag of one (R217, R218). -/
def State.groupFits (s : State) (unit cs : List Nat) : Bool :=
  let gs := s.movingGroups unit cs
  gs.all fun (q, g) =>
    let there := (s.quad q).groups ++ (gs.filter (·.1 == q)).map (·.2)
    there.length ≤ 8 && (there.filter fun x => x.ctx == g.ctx && x.tag == g.tag).length == 1

/-- Shuttles resident in a core's quad, or on a core. -/
def State.shuttlesAt (s : State) (gang : Bool) (c : Nat) : Nat :=
  if gang then (s.residents c).length
  else ((quadCores (c / 128) (c % 128 / 4)).map fun x => (s.residents x).length).foldl (· + ·) 0

/-- The rank of a place (R324): the die of the last pre-emption, the fewest shuttles, the lowest site, quad or row and core. -/
def State.placeRank (s : State) (last : Option Nat) (gang : Bool) (cs : List Nat) : Nat :=
  let c := cs.headD 0
  let other := if some (c / 128) == last then 0 else 1
  let n := if gang then (cs.map (s.shuttlesAt true)).foldl (· + ·) 0 else s.shuttlesAt false c
  ((other * 2 ^ 20 + n) * 16 + c / 128) * 128 + c % 128

/-- A block of a unit may stand on a core (R302, R316, R324); `now`: the core can take it now (R82, R137). -/
def State.mayStand (s : State) (p : Part) (now : Bool) (b c : Nat) : Bool :=
  match s.blk? b with
  | none => false
  | some k =>
    let version := match k.image with | some i => i.version | none => 0
    let lines := ((s.shuttlesOf b).map fun h => match s.sh? h with | some x => x.lines | none => 0).foldl (· + ·) 0
    let barred : Bool := match k.victim with
      | some f => k.coreKey == c && (s.core c).favoured == some f
      | none => false
    s.suits p c k.kern k.nbars version && !barred && (!now || s.admits c k.kern k.nbars b lines)

/-- PLACE of a block's launch. -/
def State.placeOf (s : State) (k : Block) : Nat := match s.launch? k.launch with | some l => l.place | none => 0

/-- The places of a candidate on every die that satisfy the conditions, without the cores that are kept for others. -/
def State.places (s : State) (p : Part) (x : Cand) (now : Bool) (kept : List Nat) : List (List Nat) :=
  let free (cs : List Nat) : Bool := cs.all fun c => !kept.contains c
  let inQuad (place : Nat) (cs : List Nat) : Bool := place != 1 || cs.all fun c => !(s.quad (quadOf c)).fenced
  let bound : Bool := x.unit.any fun b => match s.blk? b with
    | some k => (s.groupOf k.quadKey b).isSome || s.placeOf k == 1
    | none => false
  if x.resuming then
    (range 0 12).flatMap fun site => (s.unitPlaces x.unit site).filter fun cs =>
      free cs && (!bound || inQuad 1 cs) && s.groupFits x.unit cs &&
        (x.unit.zip cs).all fun (b, c) => s.mayStand p now b c
  else
    match s.launch? (whoLaunch x.who) with
    | none => []
    | some l =>
      (range 0 12).flatMap fun site => (placesOn site l.place l.total x.linear).filter fun cs =>
        free cs && inQuad l.place cs && cs.all fun c => s.suits p c l.kern l.nbars 0 &&
          (!now || s.admits c l.kern l.nbars 0 (l.kern.shuttles * l.kern.init))

/-- A unit or launch is placed as a whole (R325). -/
def State.isGang (s : State) (x : Cand) : Bool :=
  if x.resuming then x.unit.length > 1 || x.unit.any fun b => match s.blk? b with | some k => s.placeOf k != 0 | none => false
  else match s.launch? (whoLaunch x.who) with | some l => l.place != 0 | none => false

/-- The die on which a resuming unit last stood. -/
def State.lastDie (s : State) (x : Cand) : Option Nat :=
  match x.unit with
  | b :: _ => (s.blk? b).map (·.site)
  | [] => none

/-- The preferred place of a candidate (R324). -/
def State.bestPlace (s : State) (p : Part) (x : Cand) (now : Bool) (kept : List Nat) : Option (List Nat) :=
  let rank := s.placeRank (s.lastDie x) (s.isGang x)
  (s.places p x now kept).foldl (fun m cs => match m with
    | none => some cs
    | some y => if rank cs < rank y then some cs else some y) none

/-- The cores kept for blocks that rank higher than a candidate, until those are admitted (R323). -/
def State.keptFrom (s : State) (p : Part) (x : Cand) : List Nat :=
  p.reserved.flatMap fun e => match s.candOf e.1 with
    | some y => if e.1 != x.who && y.before x then e.2 else []
    | none => []

/-- The first candidate that has a place, with its place; a reservation of a higher-ranked one bars its cores (R323). -/
def State.firstPlaced (s : State) (p : Part) (held : Bool) : List Cand → Option (Cand × List Nat)
  | [] => none
  | x :: xs =>
    match if held && !x.resuming then none else s.bestPlace p x true (s.keptFrom p x) with
    | some cs => some (x, cs)
    | none => State.firstPlaced s p held xs

/-! ## Taking space (R136, R327) -/

/-- The free shuttle slots of a core, lowest first. -/
def State.freeSlots (s : State) (c n : Nat) : List Nat :=
  ((range 0 (Config.shuttleSlots (c / 128))).filter fun i => !(s.usedSlots c).contains i).take n

/-- A block takes regions, tiles and slots of a core and is about to be admitted. -/
def State.occupy (s : State) (b c : Nat) : State :=
  match s.blk? b with
  | none => s
  | some k =>
    let site := c / 128
    let hs := (s.shuttlesOf b).filter fun h => match s.sh? h with | some x => x.status != .exited | none => false
    let abase := (firstFit (Config.aBytes site) (roundUp256 k.kern.astore) (s.regions c false)).getD 0
    let wbase := (firstFit (Config.wBytes site) (roundUp256 k.kern.wstore) (s.regions c true)).getD 0
    let tiles := (s.freeTiles c k.kern.ctiles).getD []
    let bars := (firstFit 256 k.nbars (s.usedBars c)).getD 0
    let slots := hs.zip (s.freeSlots c hs.length)
    let s1 := s.updBlk b fun x =>
      { x with status := .placed, site := site, core := c % 128, abase := abase, wbase := wbase, tiles := tiles,
               barBase := bars }
    slots.foldl (fun y (h, n) => y.updSh h fun sh => { sh with slot := n }) s1

/-- A shuttle as it starts (R70, R326). -/
def newShuttle (s : State) (k : Kern) (args : List W64) (e : CtxEntry) (linear b idx : Nat) : Shuttle :=
  let sp := e.stackBase + e.stackSize * (64 * linear + idx) + e.stackSize - 256
  { idx := idx, slot := 0,
    s := Vector.ofFn fun r => if r.val = 62 then BitVec.ofNat 64 sp else if 4 ≤ r.val ∧ r.val ≤ 11 then args.getD (r.val - 4) 0 else 0,
    k := (Vector.replicate 8 false).set 0 true, m := (Vector.replicate 8 0).set 0 0xFF,
    q := Vector.replicate 8 (Vector.replicate 8 0), lat := Vector.replicate 8 0, latOk := 0,
    v := Vector.ofFn fun n => if n.val < k.init then
        some (Vector.ofFn fun t => Config.freeWord s.tick (2 ^ 20 + 2048 * (64 * b + idx) + 8 * n.val + t.val)) else none,
    pc := BitVec.ofNat 64 k.entry, queue := [], pend := [], resv := none, handler := false, trap := none, owed := none,
    held := none, laneTrap := none, deferred := [], status := .running, wait := .none, record := none, waitPages := [], fatalPages := [],
    hist := 0 }

/-- A block as it starts, without a place: empty stores of its sizes. -/
def newBlock (part launch ctx : Nat) (k : Kern) (gx gy gz linear nbars : Nat) (args : List W64) (supervisor : Bool)
    (now : Nat) : Block :=
  let store (n : Nat) : LStore := { bytes := n, cells := [], free := none, full := [] }
  { part := part, launch := launch, ctx := ctx, kern := k, x := linear % gx, y := linear / gx % gy, z := linear / (gx * gy),
    gx := gx, gy := gy, gz := gz, linear := linear, args := args, nbars := nbars, supervisor := supervisor, status := .saved,
    site := 0, core := 0, abase := 0, wbase := 0, barBase := 0, tiles := [], tenancy := 0, admitted := 0, a := store k.astore,
    w := store k.wstore, bars := [], ctile := [], eregs := Vector.replicate 32 ExpReg.empty, oregs := Vector.replicate 4 0,
    image := none, since := now, onFault := none, stopping := false, swap := false, victim := none, fatal := none,
    quietAt := none }

/-- A new block with its shuttles takes space on a core; its key is fresh. -/
def State.birth (s : State) (blk : Block) (c : Nat) : State :=
  let b := s.nextId
  match s.ctx? blk.ctx with
  | none => s
  | some e =>
    let s1 := { s with nextId := b + 1, blocks := Tab.set s.blocks b blk }
    ((range 0 blk.kern.shuttles).foldl (fun x i =>
      { x with shuttles := Tab.set x.shuttles (64 * b + i) (newShuttle s blk.kern blk.args e blk.linear b i) }) s1).occupy b c

/-! ## DISPATCH_PLACE -/

/-- New blocks are held back: a cap request, or exhausted compressed space (R296, R377). -/
def State.dispatchHeld (s : State) (p : Nat) : Bool := s.mgmt.hold || (s.compress.hold && s.compressedPart p)

/-- The sharing group of a resuming block moves with it to its quad, once (R218, R332). -/
def State.moveGroup (s : State) (b c : Nat) : State :=
  match s.blk? b with
  | none => s
  | some k =>
    match s.groupOf k.quadKey b with
    | none => s
    | some g =>
      let others := (s.quad k.quadKey).groups.filter fun x => !(x.members.any fun e => e.2.block == b)
      if k.quadKey == quadOf c then s
      else (s.updQuad k.quadKey fun q => { q with groups := others }).updQuad (quadOf c) fun q => { q with groups := q.groups ++ [g] }

/-- The blocks of a candidate take their places. -/
def State.put (s : State) (x : Cand) (cs : List Nat) : State :=
  if x.resuming then (x.unit.zip cs).foldl (fun y (b, c) => y.occupy b c) ((x.unit.zip cs).foldl (fun y (b, c) => y.moveGroup b c) s)
  else
    let key := whoLaunch x.who
    match s.launch? key with
    | none => s
    | some l =>
      let s1 := cs.zipIdx.foldl (fun y (c, i) => y.birth
        (newBlock l.part key l.ctx l.kern l.gx l.gy l.gz (x.linear + i) l.nbars l.args false s.now) c) s
      let l' := if x.linear == l.nextBlock then { l with nextBlock := l.nextBlock + cs.length, since := s.now }
        else { l with tail := true }
      let done : Bool := l'.nextBlock ≥ l'.limit
      let s2 := s1.updLaunch key fun _ => { l' with left := done }
      if done then s2.updPart l.part fun p =>
        { p with queues := Tab.set p.queues l.queue ((Tab.getD p.queues l.queue []).filter (· != l.seq)) } else s2

def State.dispatchPlace (s : State) (p : Nat) : State :=
  match s.part? p with
  | none => s
  | some pt =>
    if pt.halted then s
    else
      match s.firstPlaced pt (s.dispatchHeld p) (s.cands p) with
      | some (x, cs) => s.put x cs
      | none => s

/-- DISPATCH_PLACE (R323, R324): the highest-ranked block that has a place takes it. -/
def execDispatchPlace (p : Nat) (s : State) : Host.Outcome State Fault Refusal := .next (s.dispatchPlace p)

/-! ## DISPATCH_RESERVATION -/

def State.dispatchReservation (s : State) (p : Nat) : State :=
  match s.part? p with
  | none => s
  | some pt =>
    let late := (s.cands p).filter fun x =>
      x.since + s.micros 1000 ≤ s.now && !(pt.reserved.any fun e => e.1 == x.who)
    match late.findSome? fun x => (s.bestPlace pt x false []).map fun cs => (x.who, cs) with
    | some e => s.updPart p fun q => { q with reserved := q.reserved ++ [e] }
    | none => s

/-- DISPATCH_RESERVATION (R323): a block that has waited 1 ms has its first-ranked core kept for it until it is admitted. -/
def execDispatchReservation (p : Nat) (s : State) : Host.Outcome State Fault Refusal := .next (s.dispatchReservation p)

/-! ## PRIORITY_PREEMPTION -/

/-- The resident blocks of a partition with the priority of their launches, the supervisor's apart. -/
def State.blockPrios (s : State) (p : Nat) : List (Nat × Nat) :=
  (s.blocks.filter fun e => e.2.part == p && e.2.status == .resident && !e.2.supervisor).map fun e => (e.1, (s.rankOf e.2).1)

def State.priorityPreemption (s : State) (p : Nat) : State :=
  match s.part? p with
  | none => s
  | some pt =>
    let urgent : Bool := (s.cands p).any fun x =>
      x.prio == 3 && x.since + s.micros 100 ≤ s.now && (s.bestPlace pt x true []).isNone
    let under := (s.blockPrios p).filter fun e => e.2 < 3
    let low := under.foldl (fun m e => min m e.2) 3
    let victim := ((under.filter fun e => e.2 == low).map (·.1)).foldl (fun m b => match m with
      | none => some b
      | some y => if s.age (64 * y) < s.age (64 * b) then some b else some y) none
    if pt.halted || !urgent || s.blocks.any fun e => e.2.part == p && e.2.stopping then s
    else
      match victim with
      | some b => s.stopBlocks (s.together true b) Block.leaves
      | none => s

/-- PRIORITY_PREEMPTION (R330): the youngest block of the lowest priority begins to stop. -/
def execPriorityPreemption (p : Nat) (s : State) : Host.Outcome State Fault Refusal := .next (s.priorityPreemption p)

/-! ## Admission (R137, R138) -/

/-- The hub holds the result of a command for a block that is out, and that had a number on a core when it left (R138, R367). -/
def State.heldFor (s : State) (k : Coll) (c t : Nat) : Bool :=
  k.read && (match k.dst with | some (.a, _) => true | _ => false) && (collResult k ((s.hub k.hub).use k.gid)).isSome &&
    match s.blk? k.block with
    | some x => x.tenancy == t && (match x.image with | some i => i.core == c | none => false)
    | none => false

/-- No packet or delivery that carries the number which the counter holds may still reach the core (R138): the quad's count of
peer packets and the hub's count of deliveries and held results are zero. A result held for the block itself takes its new
number (R367) and does not count. -/
def State.numberFree (s : State) (b c : Nat) : Bool :=
  let t := (s.core c).number
  !(s.peers.any fun q => q.core == c && q.tenancy == t) &&
    !(s.hubs.any fun e => e.2.collQ.any fun k => k.block != b && (k.toward == some (c, t) || s.heldFor k c t))

/-- The parts of a stretch outside another. -/
def Tenant.outside (t : Tenant) (w : Bool) (lo len : Nat) : List Tenant :=
  if t.w != w || t.lo + t.len ≤ lo || lo + len ≤ t.lo then [t]
  else [{ t with len := lo - t.lo }, { t with lo := lo + len, len := t.lo + t.len - (lo + len) }].filter fun x => x.len != 0 

/-- Bytes of a range that a stretch covers. -/
def Tenant.cover (t : Tenant) (w : Bool) (lo len : Nat) : Nat :=
  if t.w != w then 0 else min (t.lo + t.len) (lo + len) - max t.lo lo

/-- Every byte of a range had its last tenant of the same context since bring-up (R137). -/
def sameTenant (ts : List Tenant) (w : Bool) (lo len ctx : Nat) : Bool :=
  ((ts.filter fun t => t.ctx == some ctx).map fun t => t.cover w lo len).foldl (· + ·) 0 == len

/-- A block of a context holds a range from now on. -/
def addTenant (ts : List Tenant) (w : Bool) (lo len ctx : Nat) : List Tenant :=
  if len = 0 then ts
  else (ts.flatMap fun t => t.outside w lo len) ++ [{ w := w, lo := lo, len := len, ctx := some ctx }]

/-- The tenancy number is taken, and the regions have a tenant (R137, R138). -/
def State.takeNumber (s : State) (c : Nat) (k : Block) : State :=
  s.updCore c fun x =>
    { x with number := (x.number + 1) % 256,
             tenants := addTenant (addTenant x.tenants false k.abase (roundUp256 k.kern.astore) k.ctx) true k.wbase
               (roundUp256 k.kern.wstore) k.ctx }

/-- The contents of a region at admission (R137): zero, or unpredictable after a tenant of the same context. -/
def admittedStore (ts : List Tenant) (w : Bool) (base bytes ctx seed : Nat) : LStore :=
  { bytes := bytes, cells := [], full := [],
    free := if sameTenant ts w base (roundUp256 bytes) ctx then some seed else none }

/-- What was reserved for blocks is free again (R323). -/
def State.unreserve (s : State) (p : Nat) (whos : List Nat) : State :=
  s.updPart p fun q => { q with reserved := q.reserved.filter fun e => !whos.contains e.1 }

/-- A new block is admitted (R137). Every access of a block whose launch waited for an event follows that wait (R322). -/
def State.admitNew (s : State) (b : Nat) : State :=
  match s.blk? b with
  | none => s
  | some k =>
    let c := k.coreKey
    let ts := (s.core c).tenants
    let s1 := (s.takeNumber c k).updBlk b fun x =>
      { x with status := .resident, tenancy := (s.core c).number, admitted := s.nextId, bars := [], ctile := [],
               a := admittedStore ts false k.abase k.kern.astore k.ctx (2 ^ 64 + 2 * b),
               w := admittedStore ts true k.wbase k.kern.wstore k.ctx (2 ^ 64 + 2 * b + 1) }
    let waited : Bool := match s.launch? k.launch with | some l => !l.waits.isEmpty | none => false
    let s2 := State.unreserve { s1 with nextId := s.nextId + 1 } k.part [newWho k.launch k.linear, 2 * b + 1]
    if waited then s2.refresh k.site k.core .pkg else s2

/-- The placed blocks that are admitted together with one: its gang (R325). -/
def State.gangMates (s : State) (b : Nat) (k : Block) : List Nat :=
  (s.blocks.filter fun e => e.1 == b || (e.2.status == .placed && e.2.image.isNone && s.sameGang e.2 k)).map (·.1)

/-- The partition is halted: no block of it is admitted (R334). -/
def State.halted (s : State) (p : Nat) : Bool := match s.part? p with | some x => x.halted | none => false

def State.blockAdmission (s : State) (b : Nat) : State :=
  match s.blk? b with
  | none => s
  | some k =>
    if k.status != .placed || k.image.isSome || s.halted k.part then s
    else
      let mates := s.gangMates b k
      if s.entryBars mates then s.unplaceAll mates
      else if mates.all fun j => match s.blk? j with | some x => s.numberFree j x.coreKey | none => false then
        mates.foldl State.admitNew s
      else s

/-- BLOCK_ADMISSION (R137, R138, R226): a gang is admitted as a whole. -/
def execBlockAdmission (b : Nat) (s : State) : Host.Outcome State Fault Refusal := .next (s.blockAdmission b)

/-! ## Pre-emption (R331, R333) -/

/-- Steps 1 to 5 of R331 are complete: no run holds a lane, no MGEMM step is under way, the block's posted traffic is
acknowledged at .pkg. DESIGN CHOICE (log 84): a run that handler mode froze part-way (R341) does not end first; it is saved
where it stands, although R92 and R331 take a block between runs. -/
def State.stopped (s : State) (b : Nat) (k : Block) : Bool :=
  let c := s.core k.coreKey
  let mine (h : Nat) : Bool := blockOf h == b
  let lanes : Bool := (s.shuttlesOf b).all fun h => match s.sh? h with
    | some x => x.frozen || (match x.queue with
      | r :: _ => (match r.phase with | .running _ => false | .queued | .enlarge | .ready _ | .stopped => true)
      | [] => true)
    | none => true
  lanes && c.matQ.all (fun o => o.block != b || o.gemm.isNone || o.fetched == 0) && !(s.posted.any fun p => mine p.h) &&
    !(s.peers.any fun p => p.block == b || mine p.h) && !(c.sendQ.any fun m => mine m.h)

/-- Every write that a load of the block may have returned is performed at .pkg, so that the block finds it wherever it resumes
(R257, R267): those that its core could see when it had stopped. -/
def State.seenDone (s : State) (k : Block) : Bool :=
  match k.quietAt with
  | none => false
  | some n => !(s.posted.any fun p => p.site == k.site && (p.die || p.core == k.core) && p.since ≤ n)

/-- A run in an image holds no lane. -/
def Run.parked (now : Nat) (r : Run) : Run :=
  { r with phase := match r.phase with | .running _ => .ready now | .queued | .enlarge | .ready _ | .stopped => r.phase,
           since := none }

/-- A shuttle in an image (R112, R292, R331); `held`: a capture keeps its arrival at a GBAR (R334). -/
def Shuttle.parked (now : Nat) (held : Bool) (sh : Shuttle) : Shuttle :=
  { sh with wait := if held && sh.wait == .gbar then .gbar else .none, record := none, resv := none, queue := sh.queue.map (Run.parked now) }

/-- Bytes of an image (log 85): the regions, the tiles, the objects, the registers of the shuttles and of the block, and the
matrix image. -/
def Block.imageBytes (k : Block) (length : Nat) : Nat :=
  k.a.bytes + k.w.bytes + 4096 * k.kern.ctiles + 16 * k.nbars + 10240 * k.kern.shuttles + 16384 + 64 * length

/-- Bytes that images take in a hub's shadow storage, which holds 192 MiB (R331). -/
def State.shadowUsed (s : State) (hub : Nat) : Nat :=
  (s.blocks.map fun e => match e.2.image with
    | some i => if hubOf e.2.site == hub && i.spillAt.isNone then i.bytes else 0
    | none => 0).foldl (· + ·) 0

/-- Where an image of some bytes finds room in a partition's spill region, beside the others there (log 85). -/
def State.spillRoom (s : State) (p bytes : Nat) : Nat :=
  (firstFit (2 ^ 48) bytes (s.blocks.filterMap fun e => match e.2.image with
    | some i => if e.2.part == p then i.spillAt.map fun o => (o, i.bytes) else none
    | none => none)).getD 0

/-- A matrix operation is frozen inside the array (R190, R191). -/
def MatOp.frozen (o : MatOp) : Bool := o.gemm.isNone && (o.fetched > 0 || !o.pages.isEmpty)

/-- The image of a block (R331, R191); the length of a matrix image is not given. The sequencer's copy that waits in its slot is
saved beside the accepted ones (R150, R189); an image that shadow storage has no room for goes to the spill region. -/
def State.imageOf (s : State) (b : Nat) (k : Block) : Image :=
  let c := s.core k.coreKey
  let mats := c.matQ.filter (·.block == b)
  let version := if mats.any MatOp.frozen then Config.mimg k.site else 0
  let length := if version == 0 then 0 else (Config.freeWord s.tick 2).toNat % 65536
  { copies := (c.copyQ.filter (·.block == b)).map fun y => { y with inFlight := false },
    slots := c.copySlots.filter fun y => y.seq.isSome && y.block == b,
    mats := mats.map fun o => { o with part := [] }, version := version, length := length, bytes := k.imageBytes length,
    spillAt := if s.shadowUsed (hubOf k.site) + k.imageBytes length > 192 * 2 ^ 20 then
      some (s.spillRoom k.part (k.imageBytes length)) else none,
    core := k.coreKey,
    np := if c.np.owner == some b && !k.swap then some c.np else none }

/-- The bytes of an image in the partition's spill region (R331); an image is opaque (log 85). -/
def State.spill (s : State) (k : Block) (i : Image) : State :=
  match i.spillAt, s.part? k.part with
  | some o, some pt => s.hubWrite (pt.spill + o) ((range 0 i.bytes).map (Config.freeByte s.tick))
  | _, _ => s

/-- The block is sealed and gives up its place (R331 step 6). DESIGN CHOICE (log 86): the group-table slot of a group that is
out stays in its quad's table, where a new block may still join, until the group moves (R224). -/
def State.seal (s : State) (b : Nat) : State :=
  match s.blk? b with
  | none => s
  | some k =>
    let c := k.coreKey
    let mine (h : Nat) : Bool := blockOf h == b
    let img := s.imageOf b k
    let halted : Bool := match s.part? k.part with | some p => p.halted | none => false
    let s1 := (if halted then s else s.withdraw true mine).emptySlots mine
    let s2 := (s1.leaveEntry c mine).updCore c fun x =>
      { x with copyQ := x.copyQ.filter (·.block != b), copySlots := x.copySlots.filter (·.block != b),
               matQ := x.matQ.filter (·.block != b), np := if img.np.isSome then Paced.off else x.np,
               favoured := match x.favoured with | some f => if mine f then none else some f | none => none }
    let s3 : State :=
      { s2.leaveCode mine with
        shuttles := s2.shuttles.map fun (h, sh) => (h, if mine h then sh.parked s.now halted else sh)
        older := s2.older.filter fun o => !mine o.h }
    let s4 := s3.updBlk b fun x =>
      { x with status := .saved, stopping := false, image := some img, since := s.now, tiles := [], quietAt := none }
    (((s4.spill k img).grantLines c).takeFollows c).gbarCheckAll

/-- A pre-emption takes along the neighbour-paced state of blocks of the grid that are swapped out (R231). -/
def State.takeMode (s : State) (b : Nat) : State :=
  match s.blk? b with
  | none => s
  | some k =>
    match k.image with
    | none => s
    | some i =>
      if k.status != .saved || !s.inMode b k then s
      else (s.updBlk b fun x => { x with image := some { i with np := some (s.core k.coreKey).np } }).setPaced k.coreKey fun _ =>
        Paced.off

/-- The blocks that leave together are sealed together, once all of them have stopped (R224, R231). -/
def State.sealAll (s : State) (b : Nat) (k : Block) : State :=
  let all := s.together (!k.swap) b
  let unit := all.filter fun j => match s.blk? j with | some x => x.stopping && x.status == .resident && x.fatal.isNone | none => false
  let stops (j : Nat) : Bool := match s.blk? j with | some x => s.stopped j x | none => true
  let done (j : Nat) : Bool := match s.blk? j with | some x => s.seenDone x | none => true
  if !unit.all stops then s
  else if unit.all done then (if k.swap then id else fun x => all.foldl State.takeMode x) (unit.foldl State.seal s)
  else unit.foldl (fun x j => x.updBlk j fun y => { y with quietAt := y.quietAt.orElse fun _ => some s.now }) s

def State.preempt (s : State) (b : Nat) : State :=
  match s.blk? b with
  | none => s
  | some k =>
    if k.status != .resident || k.supervisor || k.fatal.isSome then s
    else if !k.stopping then s.stopBlocks (s.together true b) Block.leaves
    else s.sealAll b k

/-- PREEMPT_BLOCK (R330, R331): the block and those that go with it begin to stop, or a stopping block is sealed. -/
def execPreemptBlock (b : Nat) (s : State) : Host.Outcome State Fault Refusal := .next (s.preempt b)

/-- A block whose fetch met a serviceable fault begins to leave (R333). -/
def State.fetchFaultSwap (s : State) (h : Nat) : State :=
  match s.blk? (blockOf h) with
  | some k =>
    if k.onFault.isSome && k.status == .resident && !k.stopping then
      s.stopBlocks (s.together false (blockOf h)) fun x => { x with swap := true }
    else s
  | none => s

/-- FETCH_FAULT_SWAP (R333). When the fault is declared fatal the resumed instruction traps with 0x15D. -/
def execFetchFaultSwap (h : Nat) (s : State) : Host.Outcome State Fault Refusal := .next (s.fetchFaultSwap h)

/-! ## Resume (R332) -/

/-- A placed block of a unit can be admitted again: its number is free and the engines hold its commands. -/
def State.canResume (s : State) (b : Nat) : Bool :=
  match s.blk? b with
  | some k =>
    (match k.image with
    | some i =>
      k.status == .placed && s.numberFree b k.coreKey && !s.halted k.part && (s.core k.coreKey).copyQ.length + i.copies.length ≤ 16 &&
        (s.core k.coreKey).matQ.length + i.mats.length ≤ 8
    | none => false)
  | none => false

/-- The remaining pages of a command are probed and pinned again (R171): a fault found then is delivered, and a page that is
absent and serviceable is asked for. -/
def State.reprobe (s : State) (k : Block) (c id : Nat) : State :=
  match (s.core c).copyQ.findIdx? (·.id == id) with
  | none => s
  | some i =>
    match (s.core c).copyQ[i]? with
    | none => s
    | some y =>
      let as := y.remaining
      let pinned : Copy := { y with pins := s.pinsOf k.site k.ctx (as.map (· / 65536)) }
      let put (x : State) (z : Copy) : State := x.updCore c fun q => { q with copyQ := setAt q.copyQ i z }
      match checkWith (s.translate k.site k.ctx) y.fatal (y.dst == .g) y.slot 1 (as.map fun a => (0, a)) with
      | .trap cause _ a => s.failCopy c i y cause a
      | .wait ps => put (s.request k.site k.ctx ps) { pinned with pages := ps }
      | .go _ => put s { pinned with pages := [], fatal := [] }

/-- The pages of a copy that waits in the sequencer's slot are pinned again. -/
def State.repin (s : State) (k : Block) (y : Copy) : Copy :=
  { y with pins := s.pinsOf k.site k.ctx (y.pins.map (·.page)) }

/-- A peer end of a saved copy names its target's new number, if the target was the tenant when both were sealed (R224, R332). -/
def CSpace.renewed (old now : Nat → Option Nat) : CSpace → CSpace
  | .peer b t => if old b == some t then .peer b ((now b).getD t) else .peer b t
  | .g => .g
  | .a => .a
  | .w => .w

/-- The copies of admitted blocks with their peer ends renewed. -/
def State.renewPeers (s : State) (old : State) (unit : List Nat) : State :=
  let was (b : Nat) : Option Nat := if unit.contains b then (old.blk? b).map (·.tenancy) else none
  let now (b : Nat) : Option Nat := (s.blk? b).map (·.tenancy)
  { s with cores := s.cores.map fun (c, x) =>
      (c, { x with copyQ := x.copyQ.map fun y => if unit.contains y.block then
        { y with src := y.src.renewed was now, dst := y.dst.renewed was now } else y }) }

/-- A saved block is admitted again: its regions restored, its number new, its group entry renewed, and its commands carried on
(R171, R332). -/
def State.admitOld (s : State) (b : Nat) : State :=
  match s.blk? b with
  | none => s
  | some k =>
    let c := k.coreKey
    let n := (s.core c).number
    let img := k.image.getD
      { copies := [], slots := [], mats := [], version := 0, length := 0, bytes := 0, spillAt := none, core := c, np := none }
    let mine (h : Nat) : Bool := blockOf h == b
    let s1 := (s.takeNumber c k).updCore c fun x =>
      { x with copyQ := x.copyQ ++ img.copies, copySlots := x.copySlots ++ img.slots.map (s.repin k), matQ := x.matQ ++ img.mats,
               np := match img.np with | some p => p | none => x.np }
    let s2 := (s1.updQuad k.quadKey fun q =>
      { q with groups := q.groups.map fun g => { g with members := g.members.map fun (i, m) =>
        (i, if m.block == b then { m with tenancy := n, base := k.abase } else m) } }).updBlk b fun x =>
      { x with status := .resident, tenancy := n, admitted := s.nextId, image := none, onFault := none, swap := false, victim := none,
               quietAt := none, bars := x.bars.map fun (i, o) => (i, { o with tenancy := n }) }
    let s3 := (State.refresh { s2 with
      nextId := s.nextId + 1
      shuttles := s2.shuttles.map fun (h, sh) => (h, if mine h then { sh with hist := 0, waitPages := [] } else sh) }
      k.site k.core .pkg).unreserve k.part [2 * b + 1]
    img.copies.foldl (fun x y => x.reprobe k c y.id) s3

def State.resume (s : State) (b : Nat) : State :=
  match s.blk? b with
  | none => s
  | some k =>
    if k.status != .placed || k.image.isNone then s
    else
      let unit := s.unitOf .placed b
      if s.entryBars unit then s.unplaceAll unit
      else if unit.all s.canResume then ((unit.foldl State.admitOld s).renewPeers s unit).gbarCheckAll else s

/-- BLOCK_RESUME (R332, R226): a unit is admitted as a whole. -/
def execBlockResume (b : Nat) (s : State) : Host.Outcome State Fault Refusal := .next (s.resume b)

/-! ## Halt-and-capture (R334) -/

/-- Dispatch stops and every block of the partition but the supervisor's begins to stop. -/
def State.halt (s : State) (p : Nat) : State :=
  (s.updPart p fun x => { x with halted := true }).stopBlocks ((s.blocks.filter fun e => e.2.part == p).map (·.1)) Block.leaves

/-- HALT_AND_CAPTURE (R334): the capture holds what the state holds of the partition; each block is sealed by its
PREEMPT_BLOCK, and messages in flight arrive. -/
def execHaltAndCapture (p : Nat) (s : State) : Host.Outcome State Fault Refusal := .next (s.halt p)

/-- Every block of a partition but the supervisor's stands in its image or has ended. -/
def State.captured (s : State) (p : Nat) : Bool :=
  s.blocks.all fun e => e.2.part != p || e.2.supervisor || e.2.status == .saved || e.2.status == .ended

/-- A context of a partition other than its supervisor's, which is never captured (R315). -/
def State.guestCtx (s : State) (p ctx : Nat) : Bool :=
  ctx / 256 == p && !(s.blocks.any fun e => e.2.part == p && e.2.supervisor && e.2.ctx == ctx)

/-- A saved block of a partition. -/
def State.savedIn (s : State) (p b : Nat) : Bool :=
  match s.blk? b with | some k => k.part == p && k.status == .saved | none => false

/-- What a capture holds beside what stays in place (R334). -/
def State.snapshot (s : State) (p : Nat) (pt : Part) : Capture :=
  { seq := pt.seq, queues := pt.queues, blocks := s.blocks.filter fun e => s.savedIn p e.1,
    shuttles := s.shuttles.filter fun e => s.savedIn p (blockOf e.1),
    overflow := s.cores.map fun (c, k) => (c, k.overflow.filter fun m => s.guestCtx p m.ctx),
    recvs := s.cores.map fun (c, k) => (c, k.recvs.filter fun r => s.guestCtx p r.ctx),
    ranges := s.dies.map fun (d, x) => (d, x.ranges.filter fun e => e.2.part == p),
    table := s.mem.readN pt.table 16384, frames := pt.frames }

/-- The capture of a halted partition is complete: every block is saved, and no message of its contexts is in flight (R334). -/
def State.takeCapture (s : State) (p : Nat) : State :=
  match s.part? p with
  | some x =>
    if x.halted && x.capture.isNone && s.captured p && !(s.net.any fun n => !n.reply && n.msg.ctx / 256 == p) then
      s.updPart p fun q => { q with capture := some (s.snapshot p x) }
    else s
  | none => s

/-- The lines of a context table that differ from the captured ones are written back. -/
def State.restoreTable (s : State) (table : Nat) (was : List Byte) : State :=
  (range 0 256).foldl (fun x i =>
    let line := (was.drop (64 * i)).take 64
    if x.mem.readN (table + 64 * i) 64 == line then x else x.hubWrite (table + 64 * i) line) s

/-- A captured partition as it was captured (R334): launches that entered its queues since are gone. DESIGN CHOICE (log 100): a
frame that has left the pool since does not return to it. -/
def State.restore (s : State) (p : Nat) (pt : Part) (c : Capture) : State :=
  let s1 := s.restoreTable pt.table c.table
  let kept {α : Type} (t : Tab α) (n b : Nat) (now : α) : α := if s.savedIn p b then Tab.getD t n now else now
  State.updPart { s1 with
    blocks := s1.blocks.map fun (b, k) => (b, kept c.blocks b b k)
    shuttles := s1.shuttles.map fun (h, sh) => (h, kept c.shuttles h (blockOf h) sh)
    launches := s1.launches.filter fun e => e.2.part != p || e.2.seq ≤ c.seq
    cores := s1.cores.map fun (i, k) => (i, { k with
      overflow := k.overflow.filter (fun m => !s.guestCtx p m.ctx) ++ Tab.getD c.overflow i []
      recvs := k.recvs.filter (fun r => !s.guestCtx p r.ctx) ++ Tab.getD c.recvs i [] })
    dies := s1.dies.map fun (d, x) => (d, { x with
      ranges := (Tab.getD c.ranges d []).foldl (fun t e => Tab.set t e.1 e.2) (x.ranges.filter fun e => e.2.part != p) }) }
    p fun q => { q with seq := c.seq, queues := c.queues, frames := c.frames.filter q.frames.contains, capture := none,
                        halted := false }

/-- Everything captured is restored and dispatch starts again; the saved blocks return as resuming blocks. -/
def State.captureResume (s : State) (p : Nat) : State :=
  match s.part? p with
  | some x => (match x.capture with
    | some c => if x.halted then s.restore p x c else s
    | none => s)
  | none => s

/-- CAPTURE_RESUME (R334). -/
def execCaptureResume (p : Nat) (s : State) : Host.Outcome State Fault Refusal := .next (s.captureResume p)

/-! ## Launches and events (R321, R322) -/

/-- A barrier object from its 16-byte image and back (R142). -/
def objectOf (n : Nat) : Barrier :=
  { landed := bitsOf n 127 104, expBytes := bitsOf n 103 80, tenancy := bitsOf n 63 56, arrived := bitsOf n 55 46,
    expArr := bitsOf n 45 36, init := bitsOf n 3 3 == 1, ova := bitsOf n 2 2 == 1, ovb := bitsOf n 1 1 == 1,
    phase := bitsOf n 0 0 == 1 }
def Barrier.image (o : Barrier) : Nat :=
  o.landed % 2 ^ 24 * 2 ^ 104 + o.expBytes % 2 ^ 24 * 2 ^ 80 + o.tenancy % 256 * 2 ^ 56 + o.arrived % 1024 * 2 ^ 46 +
    o.expArr % 1024 * 2 ^ 36 + bitNat o.init * 8 + bitNat o.ova * 4 + bitNat o.ovb * 2 + bitNat o.phase

/-- A wait of a launch holds: the event's PHASE differs from the parity (R321). -/
def State.eventMet (s : State) (ctx : Nat) (w : Nat × Bool) : Bool :=
  match s.eventPa ctx w.1 with
  | some pa => (objectOf (leNat (s.mem.readN pa 16))).phase != w.2
  | none => false

def State.launchEligible (s : State) (p q : Nat) : State :=
  match s.part? p with
  | none => s
  | some pt =>
    match Tab.getD pt.queues q [] with
    | [] => s
    | seq :: _ =>
      match s.launch? (launchKey p seq) with
      | none => s
      | some l =>
        let serialOk : Bool := !l.serial || match l.before with
          | none => true
          | some n => (match s.launch? (launchKey p n) with | some x => x.complete | none => true)
        if !l.eligible && serialOk && l.waits.all (s.eventMet l.ctx) then
          s.updLaunch (launchKey p seq) fun x => { x with eligible := true, since := s.now }
        else s

/-- LAUNCH_ELIGIBLE (R321). -/
def execLaunchEligible (p q : Nat) (s : State) : Host.Outcome State Fault Refusal := .next (s.launchEligible p q)

/-- Arrive(1) at an event object at its home slice, one atomic step (R322): an arrival beyond EXPARR sets OVA. -/
def State.arriveEvent (s : State) (ctx va : Nat) : State :=
  match s.walkOf ctx va with
  | .page pa _ comp =>
    let o := objectOf (leNat (s.mem.readN pa 16))
    let o' := match o.arrive 1 with | .ok x => x.1 | .error x => x
    s.agentWrite (pa / 64) (cellsFrom pa (leBytes 16 o'.image)) comp
  | .serv .. | .none => s

def State.launchComplete (s : State) (key : Nat) : State :=
  match s.launch? key with
  | none => s
  | some l =>
    if l.complete || l.ended < l.total || !l.left then s
    else
      let s1 := s.updLaunch key fun x => { x with complete := true }
      if l.arrive != 0 && !l.failed then s1.arriveEvent l.ctx l.arrive else s1

/-- LAUNCH_COMPLETE (R321, R322): every block has ended draining, so its traffic is performed at .pkg. -/
def execLaunchComplete (l : Nat) (s : State) : Host.Outcome State Fault Refusal := .next (s.launchComplete l)

end Sys2Proof.Machine
end

