-- ==== Sys2Proof/Machine/EvCopy.lean ====
section
/-! DEFINITION. Steps of the copy engine (R149, R150, R162 to R171) and of peer packets (R222 to R224). -/

namespace Sys2Proof.Machine

/-! ## The reserved slots (R150) -/

/-- The instruction whose command leaves the reserved slot completes. -/
def State.leaveSlot (s : State) (h : Nat) (n : W64) : State :=
  s.updSh h fun sh => { sh.advance with pc := sh.pc + n }

def State.copySlotAccept (s : State) (c : Nat) : State :=
  match (s.core c).copySlots with
  | [] => s
  | k :: ks =>
    if (s.core c).copyQ.length ≥ 16 then s
    else
      let s1 := s.updCore c fun x => { x with copyQ := x.copyQ ++ [k], copySlots := ks }
      if k.seq.isSome then s1 else s1.leaveSlot k.h (if k.follow.isSome then 8 else 4)

/-- COPY_SLOT_ACCEPT (R150): a free queue entry goes to the oldest occupied slot, whose instruction completes. -/
def execCopySlotAccept (c : Nat) (s : State) : Host.Outcome State Fault Refusal := .next (s.copySlotAccept c)

/-! ## Starting (R149, R167) -/

/-- Under `.acq` the issuer's earlier accesses, and the writes that they saw, are performed at the scope (R167, R261). -/
def State.acquired (s : State) (c : Nat) (k : Copy) : Bool :=
  match k.acq with
  | none => true
  | some sc => !s.ownPosted k.h false sc && !s.streamPeers k.h && !s.seenPosted (c / 128) (c % 128) sc

def State.copyStart (s : State) (c : Nat) : State :=
  let q := (s.core c).copyQ
  match q.findIdx? fun k => !k.inFlight with
  | none => s
  | some i =>
    match q[i]? with
    | none => s
    | some k =>
      if (q.filter (·.inFlight)).length ≥ 4 || !s.acquired c k then s
      else
        let s1 := s.updCore c fun x => { x with copyQ := setAt x.copyQ i { k with inFlight := true } }
        match k.acq with
        | some sc => s1.refresh (c / 128) (c % 128) sc
        | none => s1

/-- COPY_START (R149): the next command in acceptance order, while fewer than 4 are in flight. -/
def execCopyStart (c : Nat) (s : State) : Host.Outcome State Fault Refusal := .next (s.copyStart c)

/-! ## One unit -/

/-- The reads of a command are tied to a write of its issuer: by `.acq` (R167), or by a FENCE between them; those of a
sequencer's copy as its MGEMM's are (R183, R258). -/
def Copy.follows (k : Copy) (p : Posted) : Bool :=
  match k.acq, k.seq with
  | some _, _ => true
  | none, some (id, _) => (match p.forMma with | some n => decide (n ≤ id) | none => false)
  | none, none => (match p.forCpy with | some n => decide (n ≤ k.id) | none => false)

/-- The byte of global memory that the engine reads, and whether the read fails. Without `.acq` or FENCE the issuer's own
writes, while they stand in its core's buffer, may not be seen (R167, R258). -/
def State.copyByte (s : State) (blk : Block) (k : Copy) (pa : Nat) : Byte := s.engineByte blk.site blk.core k.h k.follows pa
def State.copyHits (s : State) (blk : Block) (k : Copy) (pa : Nat) : Bool := s.engineHits blk.site blk.core k.h k.follows pa

/-- The bytes of a unit read from global memory, or why they cannot be read now. -/
def State.readSpots (s : State) (blk : Block) (k : Copy) (sp : List Spot) : RowFetch :=
  match s.engineAccess (s.copyFind blk k) (s.copyHits blk k) k.slot k.fatal (sp.filterMap Spot.addr?) with
  | .inl _ =>
    .row (sp.map fun x => match x with
      | .const b => b
      | .drop => 0
      | .addr a twice =>
        match s.copyFind blk k a with
        | .page pa _ _ =>
          let b := s.copyByte blk k pa
          if twice then (b >>> 4) ||| (b &&& 0xF0) else b
        | .serv .. | .none => 0)
  | .inr x => x

/-- The first of the replaced bytes that covers an offset, or the present byte. -/
def oldByte (es : List OldBytes) (a : Nat) (now : Byte) : Byte :=
  match es.find? fun o => decide (o.off ≤ a) && decide (a < o.off + o.bytes.length) with
  | some o => o.bytes.getD (a - o.off) now
  | none => now

/-- Bytes of the block's own store as a command reads them: without `.acq` those that stood there before any of the issuer's
stores of the last 4096 cycles that no FENCE ties to it, or before a later one, or the present ones (R167, R258, log 77). -/
def State.ownBytes (s : State) (blk : Block) (k : Copy) (ws : Bool) (off n : Nat) : List Byte :=
  let es := if k.acq.isSome then [] else s.older.filter fun o =>
    o.h == k.h && o.block == k.block && o.ws == ws && decide (s.now ≤ o.at_ + 4096) &&
      !(match o.forCpy with | some n => decide (n ≤ k.id) | none => false)
  let i := if es.isEmpty then 0 else Config.freeChoice s.tick 8 % (es.length + 1)
  (range off n).map fun a => oldByte (es.drop i) a ((blk.store ws).read a)

/-- The block that a peer end names answers: it is the tenant at issue, in one group with the issuer's block, and not
leaving (R221, R222). -/
def State.peerAnswers (s : State) (k : Copy) (b t : Nat) : Bool :=
  s.tenant b t && match s.blk? b with | some x => s.reaches k.block b x.coreKey | none => false

/-- The source bytes of the units from byte `u` on. A peer that does not answer fails the command (R222). -/
def State.copyRead (s : State) (blk : Block) (k : Copy) (u n : Nat) : RowFetch :=
  match k.src with
  | .g => s.readSpots blk k (k.spots false u n)
  | .a => .row (s.ownBytes blk k false (k.srcAddr + u) n)
  | .w => .row (s.ownBytes blk k true (k.srcAddr + u) n)
  | .peer b t =>
    match s.blk? b with
    | some x => if s.peerAnswers k b t then .row (x.a.readN (k.srcAddr + u) n) else .fault 0x10F 0
    | none => .fault 0x10F 0

/-- Whether the units from byte `u` on can be written in global memory: every page is there and writable, and no far tier is
lost (R171, R282, R297). -/
def State.copyDest (s : State) (blk : Block) (k : Copy) (u n : Nat) : RowFetch :=
  match k.dst with
  | .g =>
    let as := (k.spots true u n).filterMap Spot.addr?
    (match checkWith (s.copyFind blk k) k.fatal true 7 1 (as.map fun a => (0, a)) with
    | .trap c _ a => .fault c a
    | .wait ps => .wait ps
    | .go pas =>
      match (as.zip pas).find? fun e => s.farGone e.2.2 with
      | some e => .fault 0x1CF e.1
      | none => .row [])
  | .a | .w | .peer .. => .row []

/-- The virtual and physical addresses with their bytes that a unit writes in global memory. -/
def State.writeSpots (s : State) (blk : Block) (k : Copy) (sp : List Spot) (bs : List Byte) : List (Nat × Host.Cell) :=
  (sp.zip bs).filterMap fun (x, b) =>
    match x with
    | .addr a _ => (match s.copyFind blk k a with
      | .page pa _ _ => some (a, pa, b)
      | .serv .. | .none => none)
    | .const _ | .drop => none

/-- A unit written to global memory: one posted write for each line, merged with the command's others; it may be a full one
(R294). -/
def State.postUnit (s : State) (blk : Block) (k : Copy) (cells : List (Nat × Host.Cell)) : State :=
  let comp : Bool := match cells with
    | c :: _ => (match s.copyFind blk k c.1 with | .page _ _ z => z | .serv .. | .none => false)
    | [] => false
  s.postLines { mkPosted k.h blk k.ipc 0 0 none comp with engine := some k.id, may := true } (intoLines cells)

/-- A unit written by the engine, which sets the granules full (R139, R166). A sequencer's own copies spoil no buffer. -/
def State.copyWrite (s : State) (blk : Block) (k : Copy) (u : Nat) (bs : List Byte) : State :=
  let local_ (ws : Bool) : State :=
    let s1 := if k.seq.isSome then
        s.updBlk k.block fun x => x.setStore ws ((x.store ws).writeN (k.dstAddr + u) bs)
      else s.writeStore k.block ws (k.dstAddr + u) bs
    s1.markFull k.block ws (granules (k.dstAddr + u) bs.length)
  match k.dst with
  | .g => s.postUnit blk k (s.writeSpots blk k (k.spots true u bs.length) bs)
  | .a => local_ false
  | .w => local_ true
  | .peer b t =>
    s.sendPeer { core := match s.blk? b with | some x => x.coreKey | none => blk.coreKey, block := b, tenancy := t, h := k.h,
                 ipc := k.ipc, copy := some k.id, req := .write [(k.dstAddr + u, bs)] true }

/-- The block and the store that an end of a command lies in. -/
def Copy.storeAt (k : Copy) (sp : CSpace) : Option (Nat × Bool) :=
  match sp with
  | .g => none
  | .a => some (k.block, false)
  | .w => some (k.block, true)
  | .peer b _ => some (b, false)

/-- A destination offset lies in the source range too, in one store (R165). -/
def Copy.overlaps (k : Copy) (o : Nat) : Bool :=
  k.kind == .linear && (k.storeAt k.src).isSome && k.storeAt k.src == k.storeAt k.dst && k.srcAddr ≤ o && o < k.srcAddr + k.len

/-- Source and destination of a command overlap (R165). -/
def Copy.crosses (k : Copy) : Bool := k.overlaps k.dstAddr || k.overlaps (k.dstAddr + k.len - 1)

/-- The bytes that land from byte `u` on: unpredictable where the destination overlaps the source (R165). -/
def State.landing (s : State) (k : Copy) (u : Nat) (bs : List Byte) : List Byte :=
  if k.crosses then bs.zipIdx.map fun (b, i) =>
    if k.overlaps (k.dstAddr + u + i) then Config.freeByte s.tick (k.dstAddr + u + i) else b
  else bs

/-- The address in global memory that a unit is written to. -/
def Copy.unitAt (k : Copy) (u : Nat) : Option Nat :=
  match k.dst with
  | .g => ((k.spots true (16 * u) 1).filterMap Spot.addr?).head?
  | .a | .w | .peer .. => none

/-- Two units follow each other in one 64-byte unit of global memory. -/
def Copy.joined (k : Copy) (u : Nat) : Bool :=
  match k.unitAt u, k.unitAt (u + 1) with
  | some a, some b => b == a + 16 && a / 64 == b / 64
  | _, _ => false

/-- The first of the units that stand in one 64-byte unit with a unit, and how many follow it there; `n` bounds the steps. -/
def Copy.first (k : Copy) : Nat → Nat → Nat
  | 0, u => u
  | n + 1, u => if 0 < u && k.joined (u - 1) then Copy.first k n (u - 1) else u
def Copy.following (k : Copy) : Nat → Nat → Nat
  | 0, _ => 0
  | n + 1, u => if 16 * (u + 2) ≤ k.len && k.joined u then 1 + Copy.following k n (u + 1) else 0

/-- The units that the engine moves at once, from unit `u` on: one, or, to global memory, those of a 64-byte unit, which is a
full write when it is whole (R255, R294); all of them when the ranges overlap, so that bytes outside the overlap are those
of the source (R165). -/
def Copy.burst (k : Copy) (u : Nat) : Nat := if k.crosses then max 1 ((k.len - 16 * u) / 16) else 1 + k.following 3 u

/-- The unit that a command moves next: any that it has not moved, chosen by the engine (R149, R254). -/
def State.unitFor (s : State) (k : Copy) : Nat :=
  let n := k.len / 16
  let u := k.first 3 (k.done + Config.freeChoice s.tick 10 % (n - k.done))
  if k.crosses || u < k.done || k.ahead.contains u then k.done else u

/-- Some units have been moved: those beyond the first unmoved one are listed. -/
def nextDone (moved : List Nat) : Nat → Nat → Nat
  | 0, d => d
  | n + 1, d => if moved.contains d then nextDone moved n (d + 1) else d
def Copy.moved (k : Copy) (u n : Nat) : Copy :=
  let all := k.ahead ++ range u n
  let d := nextDone all all.length k.done
  { k with done := d, ahead := all.filter (d ≤ ·) }

/-- The command at position `i` of a core's queue with its block. -/
def State.copyAt (s : State) (c i : Nat) : Option (Copy × Block) :=
  match (s.core c).copyQ[i]? with
  | none => none
  | some k => (s.blk? k.block).map fun b => (k, b)

/-- A member that a command reads or writes is lost: the command stops (R223). -/
def State.peerGone (s : State) (blk : Block) (sp : CSpace) : Bool :=
  match sp with
  | .peer b _ => (s.quad blk.quadKey).groups.any fun g => g.members.any fun e => e.2.block == b && e.2.lost
  | .g | .a | .w => false
def State.copyLost (s : State) (blk : Block) (k : Copy) : Bool := s.peerGone blk k.src || s.peerGone blk k.dst

/-- What the units of a command from one on find: their source bytes, once their destination is there. -/
def State.nextUnits (s : State) (blk : Block) (k : Copy) (u : Nat) : RowFetch :=
  match s.copyDest blk k (16 * u) (16 * k.burst u) with
  | .row _ => s.copyRead blk k (16 * u) (16 * k.burst u)
  | x => x

/-- A command whose units from one on have moved: their pages are pinned (R163, R171), and it waits for none that is there. -/
def State.holdPages (s : State) (blk : Block) (k : Copy) (u n : Nat) : Copy :=
  let fresh := (distinct ((k.globals u n).map (· / 65536))).filter fun p => !k.pins.any (·.page == p)
  let absent (p : Nat) : Bool := match s.copyFind blk k (65536 * p) with | .serv .. => true | .page .. | .none => false
  { k with pins := k.pins ++ s.pinsOf blk.site blk.ctx fresh, pages := k.pages.filter absent, fatal := k.fatal.filter absent }

/-- A command in flight moves its next units (R149, R165). A page that is absent and serviceable is requested. -/
def State.moveUnit (s : State) (c i : Nat) : State :=
  match s.copyAt c i with
  | none => s
  | some (k, blk) =>
    let put (x : State) (y : Copy) : State := x.updCore c fun q => { q with copyQ := setAt q.copyQ i y }
    if !k.inFlight || 16 * k.done ≥ k.len || s.copyLost blk k then s
    else
      let u := s.unitFor k
      match s.nextUnits blk k u with
      | .fault .. => s
      | .wait ps => put (s.request blk.site blk.ctx ps) { k with pages := ps.foldl insertNat k.pages }
      | .row bs => put (s.copyWrite blk k (16 * u) (s.landing k (16 * u) bs)) ((s.holdPages blk k u (k.burst u)).moved u (k.burst u))

/-! ## Completion (R166) -/

/-- The landing report: on the block's own object, or a packet to the peer (R166). -/
def State.copyLand (s : State) (k : Copy) : State :=
  match k.bar with
  | none => s
  | some n =>
    match k.dst with
    | .peer b t =>
      s.sendPeer { core := match s.blk? b with | some x => x.coreKey | none => 0, block := b, tenancy := t, h := k.h, ipc := k.ipc,
                   copy := none, req := .land n k.len }
    | .g | .a | .w => s.land k.block n k.len k.h { cause := 0, ipc := k.ipc }

/-- A sequencer copy has written its last byte (R187). -/
def seqWritten (id j : Nat) (o : MatOp) : MatOp :=
  match o.gemm with
  | some g => if o.id == id then { o with gemm := some { g with pendingCopies := g.pendingCopies.erase j } } else o
  | none => o

def State.copyComplete (s : State) (c i : Nat) : State :=
  match s.copyAt c i with
  | none => s
  | some (k, blk) =>
    if !k.inFlight || !s.lastWritten k || k.follow.isSome || s.copyLost blk k then s
    else
      let s1 := s.updCore c fun x => { x with copyQ := dropAt x.copyQ i }
      match k.seq with
      | some (id, j) => s1.updCore c fun x => { x with matQ := x.matQ.map (seqWritten id j) }
      | none => s1.copyLand k

/-- COPY_COMPLETE (R166): the last write is performed; the landing report is made and the queue entry frees. -/
def execCopyComplete (c i : Nat) (s : State) : Host.Outcome State Fault Refusal := .next (s.copyComplete c i)

def State.followOnAccept (s : State) (c i : Nat) : State :=
  match s.copyAt c i with
  | none => s
  | some (k, blk) =>
    match k.follow with
    | none => s
    | some o =>
      if !k.inFlight || !s.lastWritten k || s.copyLost blk k || (s.core c).matQ.length ≥ 8 then s
      else s.updCore c fun x =>
        { x with copyQ := setAt x.copyQ i { k with follow := none, written := true }, matQ := x.matQ ++ [o] }

/-- FOLLOW_ON_ACCEPT (R170, R179, R216): after the copy's last write and before its landing report. -/
def execFollowOnAccept (c i : Nat) (s : State) : Host.Outcome State Fault Refusal := .next (s.followOnAccept c i)

/-! ## Failure (R171, R223) -/

/-- A read request that its target refused counts there (R222). -/
def State.refusedRead (s : State) (k : Copy) : State :=
  match k.src with
  | .peer b t => (match s.blk? b with
    | some x => if s.peerAnswers k b t then s else s.countStale x.coreKey
    | none => s)
  | .g | .a | .w => s

def State.copyFailure (s : State) (c i : Nat) (why : CopyFail) : State :=
  match s.copyAt c i with
  | none => s
  | some (k, blk) =>
    if !k.inFlight then s
    else
      match why with
      | .peerLost => if s.copyLost blk k then s.failCopy c i k 0x10F 0 else s
      | .uncorrectableRead =>
        if 16 * k.done ≥ k.len then s
        else
          match s.nextUnits blk k (s.unitFor k) with
          | .fault cause a =>
            ((if cause = 0x070 + k.slot then s.findAt (s.copyFind blk k) a else s).refusedRead k).failCopy c i k cause a
          | .row _ | .wait _ => s
      | .partialWrite =>
        match s.posted.findIdx? fun p => p.engine == some k.id && !p.full && s.lineBad p.line with
        | some j => s.performWrite j
        | none => s

/-- COPY_FAILURE (R171): bytes already written stay written. -/
def execCopyFailure (c i : Nat) (why : CopyFail) (s : State) : Host.Outcome State Fault Refusal :=
  .next (s.copyFailure c i why)

/-! ## Peer packets (R222, R166) -/

/-- PEER_PACKET_ARRIVAL (R222): one shuttle's packets to one block arrive in order (R257). -/
def execPeerPacketArrival (i : Nat) (s : State) : Host.Outcome State Fault Refusal := .next (s.peerArrival i)

end Sys2Proof.Machine
end

