-- ==== Sys2Proof/Machine/EvMatrix.lean ====
section
/-! DEFINITION. Steps of the matrix unit: acceptance, fetch, compute and retirement (R179 to R181), and the sequencer of
MGEMM (R187 to R189). -/

namespace Sys2Proof.Machine

/-! ## Acceptance -/

def State.mmaSlotAccept (s : State) (c : Nat) : State :=
  match (s.core c).matSlots with
  | [] => s
  | o :: os =>
    if (s.core c).matQ.length + s.followsDue c ≥ 8 then s
    else (s.updCore c fun x => { x with matQ := x.matQ ++ [o], matSlots := os }).leaveSlot o.h 4

/-- MMA_SLOT_ACCEPT (R179, R216). -/
def execMmaSlotAccept (c : Nat) (s : State) : Host.Outcome State Fault Refusal := .next (s.mmaSlotAccept c)

/-! ## Fetch -/

/-- An MGEMM step may begin or go on: its copies have written their last byte, nothing failed before it, and its block
is not being stopped between steps (R187, R188, R189). -/
def Gemm.ready (g : Gemm) (fetched : Nat) (stopping : Bool) : Bool :=
  g.step < g.n && (fetched > 0 || !stopping) && g.step < g.issued && !g.pendingCopies.contains g.step &&
    !g.failed.any fun e => e.1 == g.step

/-- The position of the operation whose next row is fetched (R179): in acceptance order, at most two beyond the current
one, and nothing passes an MGEMM, which occupies the unit. -/
def fetchTarget (stopping : MatOp → Bool) : Nat → List MatOp → Option Nat
  | _, [] => none
  | i, o :: os =>
    if i ≥ 3 then none
    else
      match o.gemm with
      | some g => if i = 0 && g.ready o.fetched (stopping o) && o.fetched < 64 then some 0 else none
      | none => if o.fetched < 64 then some i else fetchTarget stopping (i + 1) os

/-- The operation of a core that fetches next, with its block. -/
def State.fetching (s : State) (c : Nat) : Option (Nat × MatOp × Block) :=
  let q := (s.core c).matQ
  match fetchTarget (fun o => match s.blk? o.block with | some b => b.stopping | none => false) 0 q with
  | none => none
  | some i =>
    match q[i]? with
    | none => none
    | some o => (s.blk? o.block).map fun b => (i, o, b)

def State.setMat (s : State) (c i : Nat) (o : MatOp) : State := s.updCore c fun x => { x with matQ := setAt x.matQ i o }

/-- The next row of the operation in its fetch phase (R179, R180): into the operand buffer, or a request to the hub. The rows
of an MGEMM stand in stores, and the pages that it waits for are those of its next copies. -/
def State.fetchRow (s : State) (c : Nat) : State :=
  match s.fetching c with
  | none => s
  | some (i, o, blk) =>
    match s.matRow blk o o.fetched with
    | .row bs =>
      let o1 := { o with rows := o.rows ++ [patchRow o.part bs], fetched := o.fetched + 1, part := [] }
      s.setMat c i (if o.gemm.isSome then o1 else { o1 with pages := [], fatal := [] })
    | .wait ps => (s.request blk.site blk.ctx ps).setMat c i { o with pages := ps }
    | .fault .. => s

/-- One granule of the next row is read ahead of the others: each is read at its own time (R183). -/
def State.granule (s : State) (c : Nat) : State :=
  match s.fetching c with
  | none => s
  | some (i, o, blk) =>
    match s.matRow blk o o.fetched with
    | .row bs =>
      let (lo, hi) := o.granule o.fetched (Config.freeChoice s.tick 11 % bs.length)
      if o.part.any (·.1 == lo) then s else s.setMat c i { o with part := o.part ++ [(lo, (bs.drop lo).take (hi - lo))] }
    | .wait _ | .fault .. => s

/-- MATRIX_FETCH (R179). -/
def execMatrixFetch (c : Nat) (s : State) : Host.Outcome State Fault Refusal := .next (s.fetchRow c)

/-- MATRIX_FETCH_RESUME (R180): a fetch that waits for a page goes on at row FETCHED. -/
def execMatrixFetchResume (c : Nat) (s : State) : Host.Outcome State Fault Refusal :=
  .next (match s.fetching c with
    | some (_, o, _) => if o.pages.isEmpty then s else s.fetchRow c
    | none => s)

/-- Copies of a sequencer are dropped. -/
def State.dropSeq (s : State) (c id : Nat) : State :=
  let mine (k : Copy) : Bool := match k.seq with | some (i, _) => i == id | none => false
  s.updCore c fun x => { x with copyQ := x.copyQ.filter (!mine ·), copySlots := x.copySlots.filter (!mine ·) }

/-- An operation stops, and the operations of its shuttle accepted after it are discarded (R181); the fault is deferred.
DESIGN CHOICE (log 101): a follow-on that waits for its CPYM's copy has not entered the queue and is not discarded. -/
def State.stopMat (s : State) (c i : Nat) (o : MatOp) (r : TrapRec) : State :=
  let s1 := s.updCore c fun x =>
    { x with matQ := x.matQ.take i ++ (x.matQ.drop (i + 1)).filter (·.h != o.h) }
  ((s1.dropSeq c o.id).defer o.h r).takeFollows c

def State.fetchFatal (s : State) (c : Nat) : State :=
  match s.fetching c with
  | none => s
  | some (i, o, blk) =>
    match s.matRow blk o o.fetched with
    | .fault cause a =>
      let isB : Bool := o.fetched ≥ 32
      let opnd := if isB then o.b else o.a
      let r : TrapRec :=
        { cause := cause, ipc := o.ipc, tile := some o.tile, opslot := some (if isB then 3 else 2),
          tid := some (opTid opnd.word, opCoords opnd.word), addr := a }
      (if cause = 0x076 then s.findAt (s.translate blk.site blk.ctx) a else s).stopMat c i o r
    | .row _ | .wait _ => s

/-- MATRIX_FETCH_FATAL (R181): the row cannot be read: its page was declared fatal, or its line is uncorrectable. -/
def execMatrixFetchFatal (c : Nat) (s : State) : Host.Outcome State Fault Refusal := .next (s.fetchFatal c)

/-! ## Compute -/

def State.matCompute (s : State) (c : Nat) : State :=
  match (s.core c).matQ with
  | [] => s
  | o :: _ =>
    match s.blk? o.block with
    | none => s
    | some blk =>
      if o.gemm.isSome || o.computed || o.fetched < 64 then s
      else (s.setTile o.block o.tile (o.product (blk.tile o.tile))).setMat c 0 { o with computed := true }

/-- MATRIX_COMPUTE (R179, R67, R68). -/
def execMatrixCompute (c : Nat) (s : State) : Host.Outcome State Fault Refusal := .next (s.matCompute c)

def State.matRetire (s : State) (c : Nat) : State :=
  match (s.core c).matQ with
  | [] => s
  | o :: os => if o.computed then (s.updCore c fun x => { x with matQ := os }).takeFollows c else s

/-- MATRIX_RETIRE (R179): ownership of the tile ends; the entry goes to a follow-on that is due (R216). -/
def execMatrixRetire (c : Nat) (s : State) : Host.Outcome State Fault Refusal := .next (s.matRetire c)

/-! ## MGEMM -/

/-- A tile of unpredictable elements (R187). -/
def freeTile (tick : Nat) : Tile :=
  (range 0 1024).filterMap fun i =>
    let v := Config.freeWord tick (2 ^ 21 + i)
    if v = 0 then none else some (i, v)

def State.gemmStep (s : State) (c : Nat) : State :=
  match (s.core c).matQ with
  | [] => s
  | o :: os =>
    match o.gemm, s.blk? o.block with
    | some g, some blk =>
      if o.fetched < 64 then s
      else
        let t := if g.dirty then freeTile s.tick else o.product (blk.tile o.tile)
        let s1 := s.setTile o.block o.tile t
        if g.step + 1 ≥ g.n then (s1.updCore c fun x => { x with matQ := os }).takeFollows c
        else s1.setMat c 0 { o with fetched := 0, rows := [], gemm := some { g with step := g.step + 1 } }
    | _, _ => s

/-- MGEMM_STEP (R187): the MMA of step STEP computes and retires; after the last the MGEMM retires. -/
def execMgemmStep (c : Nat) (s : State) : Host.Outcome State Fault Refusal := .next (s.gemmStep c)

/-- The sequencer's copy of an operand's tile of step `j` into its buffer (R187). -/
def seqCopy (o : MatOp) (g : Gemm) (ws : Bool) (id j : Nat) : Copy :=
  let opnd := if ws then o.b else o.a
  let w := (stepOperand o.fmt opnd j).word
  let scl := Entry.scale opnd.entry
  { id := id, h := o.h, block := o.block, ipc := o.ipc, kind := .tensor, acq := none, rel := none, src := .g, srcAddr := 0,
    dst := if ws then .w else .a, dstAddr := (if ws then g.wbuf else g.abuf) + j % 2 * opBytes o.fmt scl,
    len := tileBytes opnd.entry scl, bar := none, entry := opnd.entry, coords := opCoords w, scl := scl, out := false, rows := [],
    rowb := 0, inFlight := false, done := 0, ahead := [], written := false, follow := none, seq := some (o.id, j), pins := [], pages := [],
    fatal := [] }

/-- The next copy that the sequencer issues, operand a's before b's, and whether it is its step's last. -/
def nextSeq (o : MatOp) (g : Gemm) (id : Nat) : Option (Copy × Bool) :=
  if o.a.tensor && !g.half then some (seqCopy o g false id g.issued, !o.b.tensor)
  else if o.b.tensor then some (seqCopy o g true id g.issued, true) else none

/-- The record with one more copy of step `issued` on its way. -/
def Gemm.took (g : Gemm) (last : Bool) : Gemm :=
  { g with issued := if last then g.issued + 1 else g.issued, half := !last, pendingCopies := g.pendingCopies ++ [g.issued] }

/-- What the sequencer's probe of a copy finds (R163, R188). -/
inductive Probe
  | ok (pins : List TlbEntry)
  | wait (pages : List Nat)
  | fault (cause addr : Nat)

def State.probeSeq (s : State) (blk : Block) (o : MatOp) (k : Copy) : Probe :=
  let as := (tileSpans k.entry k.coords k.scl false).flatMap fun (a, n) =>
    (pagesOf a n).map fun p => (0, max a (65536 * p))
  match s.check blk.site blk.ctx o.fatal false 6 1 as with
  | .go _ => .ok (s.pinsOf blk.site blk.ctx (distinct (as.map fun e => e.2 / 65536)))
  | .wait ps => .wait ps
  | .trap c _ a => .fault c a

/-- A copy of the sequencer goes into the queue, or into the sequencer's reserved slot (R150, R187). -/
def State.issueSeq (s : State) (c : Nat) (k : Copy) : State :=
  s.updCore c fun x => if x.copyQ.length < 16 && x.copySlots.isEmpty then { x with copyQ := x.copyQ ++ [k] }
    else { x with copySlots := x.copySlots ++ [k] }

/-- The sequencer's reserved slot is taken (R150, R187). -/
def State.seqWaits (s : State) (c id : Nat) : Bool :=
  (s.core c).copySlots.any fun k => match k.seq with | some (i, _) => i == id | none => false

def State.gemmCopies (s : State) (c : Nat) : State :=
  match (s.core c).matQ with
  | [] => s
  | o :: _ =>
    match o.gemm, s.blk? o.block with
    | some g, some blk =>
      let j := g.issued
      let put (x : State) (g' : Gemm) (ps : List Nat) : State :=
        x.setMat c 0 { o with gemm := some g', pages := ps, fatal := if ps.isEmpty then [] else o.fatal }
      if j ≥ g.n || j > g.step + 1 || blk.stopping || !g.failed.isEmpty || s.seqWaits c o.id then s
      else
        match nextSeq o g s.nextId with
        | none => put s { g with issued := j + 1 } []
        | some (k, last) =>
          match s.probeSeq blk o k with
          | .fault cause a => put s { g with failed := firstOf g.failed j (seqRecord o k cause a) } []
          | .wait ps => put (s.request blk.site blk.ctx ps) g ps
          | .ok pins => (put { s with nextId := s.nextId + 1 } (g.took last) []).issueSeq c { k with pins := pins }
    | _, _ => s

/-- MGEMM_COPIES (R187): the next copy of the next step, one step ahead at most. -/
def execMgemmCopies (c : Nat) (s : State) : Host.Outcome State Fault Refusal := .next (s.gemmCopies c)

def State.gemmStop (s : State) (c : Nat) : State :=
  match (s.core c).matQ with
  | [] => s
  | o :: _ =>
    match o.gemm with
    | none => s
    | some g =>
      match g.failed.find? fun e => e.1 == g.step with
      | none => s
      | some (_, r) =>
        if o.fetched == 0 then (if g.dirty then s.setTile o.block o.tile (freeTile s.tick) else s).stopMat c 0 o r else s

/-- MGEMM_STOP (R188): at the boundary before the step whose copy failed; a tile whose buffers another agent wrote to is
unpredictable (R187). -/
def execMgemmStop (c : Nat) (s : State) : Host.Outcome State Fault Refusal := .next (s.gemmStop c)

end Sys2Proof.Machine
end

