-- ==== Sys2Proof/Machine/EvMemory.lean ====
section
/-! DEFINITION. Steps of the memory system: the hub's fault queue (R282), the invalidate command (R283), the translator
(R308, R310), performed writes (R256), errors (R294, R295), compressed storage (R296), the far tier (R297), and the
filling of caches (log 7). -/

namespace Sys2Proof.Machine

/-! ## The fault queue -/

/-- The walk of a context's tables for a page. -/
def State.walkPage (s : State) (ctx page : Nat) : Found := s.walkOf ctx (page * 65536)

/-- A frame of the pool that fits a leaf: 2 MiB leaves need an aligned frame (R281; log 54). -/
def frameFor (big : Bool) (frames : List Nat) : Option Nat := frames.find? fun f => !big || f % 2 ^ 21 == 0

/-- A request can be served now: its leaf is no longer absent, or the pool has a frame (R282). -/
def State.servable (s : State) (f : FaultReq) : Bool :=
  match s.walkPage f.ctx f.page with
  | .serv _ _ _ big => (match s.part? (f.ctx / 256) with | some p => (frameFor big p.frames).isSome | none => false)
  | .page .. | .none => true

/-- What the hub fills a frame with (R282); host memory stands outside the package. -/
def State.backing (s : State) (back addr i : Nat) : Byte :=
  match back with
  | 0 => 0
  | 1 => s.mem.read (addr + i)
  | _ => Config.freeByte s.tick (addr + i)

/-- Lines of a frame filled from a far-tier frame whose source cannot be read: they are poisoned, as the source is (R295, R297).
DEDUCED (log 102). -/
def State.backedBadly (s : State) (back addr frame size : Nat) : List Nat :=
  if back != 1 then []
  else ((range 0 (size / 64)).filter fun i => s.lineBad (addr / 64 + i) || s.farGone (addr + 64 * i)).map (frame / 64 + ·)

/-- A frame filled by BACK, with the lines that its source lacks poisoned. -/
def State.fillBacked (s : State) (back addr frame size : Nat) : State :=
  let bad := s.backedBadly back addr frame size
  let s1 := (s.findBad ((range 0 (size / 64)).map (addr / 64 + ·) |>.filter fun l => back == 1 && s.bad.contains l)).fillFrame frame
    size (s.backing back addr)
  { s1 with poison := bad.foldl insertNat s1.poison }

/-- The blocks of a compressed frame take their space (R296). -/
def State.growFrame (s : State) (frame size : Nat) : State :=
  (range (frame / 4096) (size / 4096)).foldl (fun x b => x.growBlock (64 * b)) s

/-- The leaf after service: V = 1, SERV = 0, ADDR = the frame, W, LEAF and COMP as they were (R282). DESIGN CHOICE (log 103): BACK
is zero from then on. -/
def servedLeaf (old frame : Nat) : Nat :=
  frame + (bitNat (old / 32 % 2 == 1)) * 32 + (bitNat (old / 4 % 2 == 1)) * 4 + (bitNat (old / 2 % 2 == 1)) * 2 + 1

/-- Every request for a page leaves the queue. -/
def State.dropRequests (s : State) (ctx page : Nat) : State :=
  { s with faults := s.faults.filter fun f => !(f.ctx == ctx && f.page == page) }

def State.faultService (s : State) : State :=
  match s.faults.find? s.servable with
  | none => s
  | some f =>
    let s1 := s.dropRequests f.ctx f.page
    match s.walkPage f.ctx f.page, s.part? (f.ctx / 256) with
    | .serv entry back addr big, some p =>
      (match frameFor big p.frames with
      | none => s
      | some frame =>
        let size := if big then 2 ^ 21 else 65536
        let s2 := (s1.updPart (f.ctx / 256) fun q =>
          { q with frames := q.frames.filter fun x => x < frame || frame + size ≤ x }).fillBacked back addr frame size
        (if s.mem.dword entry / 32 % 2 == 1 then s2.growFrame frame (2 ^ 21) else s2).agentWrite (entry / 64)
          (cellsFrom entry (leBytes 8 (servedLeaf (s.mem.dword entry) frame))) false)
    | _, _ => s1

/-- FAULT_SERVICE (R282): the oldest request that can be served; the accesses that wait on the page go on by themselves. -/
def execFaultService (s : State) : Host.Outcome State Fault Refusal := .next s.faultService

/-- A page declared fatal, told to those that wait on it: a run, a shuttle's control stream and head run, a copy command, a
matrix operation. -/
def Run.told (page : Nat) (r : Run) : Run := if r.pages.contains page then { r with fatal := insertNat r.fatal page } else r
def Shuttle.told (page : Nat) (sh : Shuttle) : Shuttle :=
  { sh.updHead (Run.told page) with
    fatalPages := if sh.waitPages.contains page then insertNat sh.fatalPages page else sh.fatalPages }
def Copy.told (page : Nat) (k : Copy) : Copy := if k.pages.contains page then { k with fatal := insertNat k.fatal page } else k
def MatOp.told (page : Nat) (o : MatOp) : MatOp := if o.pages.contains page then { o with fatal := insertNat o.fatal page } else o

def State.declareFatal (s : State) (i : Nat) : State :=
  match s.faults[i]? with
  | none => s
  | some f =>
    let inCtx (b : Nat) : Bool := match s.blk? b with | some k => k.ctx == f.ctx | none => false
    let copy (k : Copy) : Copy := if inCtx k.block then k.told f.page else k
    let mat (o : MatOp) : MatOp := if inCtx o.block then o.told f.page else o
    let s1 := s.dropRequests f.ctx f.page
    { s1 with
      shuttles := s1.shuttles.map fun (h, sh) => (h, if inCtx (blockOf h) then sh.told f.page else sh)
      cores := s1.cores.map fun (c, k) => (c, { k with copyQ := k.copyQ.map copy, matQ := k.matQ.map mat })
      blocks := s1.blocks.map fun (b, k) =>
        (b, { k with image := k.image.map fun i => { i with copies := i.copies.map copy, mats := i.mats.map mat } }) }

/-- FAULT_DECLARED_FATAL (R282): every access that waits on the page traps; the tables stay as they are. -/
def execFaultDeclaredFatal (i : Nat) (s : State) : Host.Outcome State Fault Refusal := .next (s.declareFatal i)

/-- A page of a context is pinned by a command that has not completed (R163). -/
def State.pinned (s : State) (ctx page : Nat) : Bool :=
  let hit (l : List TlbEntry) : Bool := l.any fun e => e.ctx == ctx && e.page == page
  (s.cores.any fun e => (e.2.copyQ ++ e.2.copySlots).any fun k => hit k.pins) ||
    s.hubs.any fun e => (e.2.collQ ++ e.2.collSlots).any fun k => hit k.pins

/-- A cached translation lies in the range of an invalidate command. -/
def TlbEntry.inRange (e : TlbEntry) (cx lo len : Nat) : Bool :=
  e.ctx == cx && lo < 65536 * (e.page + 1) && 65536 * e.page < lo + len

/-- Every die drops its translations of a range but for those of pinned pages (R283). -/
def State.dropRange (s : State) (cx lo len : Nat) : State :=
  { s with dies := s.dies.map fun (d, die) =>
      (d, { die with tlb := die.tlb.filter fun e => !(e.inRange cx lo len && !s.pinned cx e.page) }) }

/-- A pinned page lies in a range. -/
def State.pinnedIn (s : State) (cx lo len : Nat) : Bool :=
  let hit (l : List TlbEntry) : Bool := l.any fun e => e.inRange cx lo len
  (s.cores.any fun e => (e.2.copyQ ++ e.2.copySlots).any fun k => hit k.pins) ||
    s.hubs.any fun e => (e.2.collQ ++ e.2.collSlots).any fun k => hit k.pins

/-- INVALIDATE_COMMAND (R283): every die drops its translations of the range; the command waits for those of pinned pages. -/
def execInvalidateCommand (cx lo len : Nat) (s : State) : Host.Outcome State Fault Refusal :=
  .next (if s.pinnedIn cx lo len then State.dropRange { s with invals := s.invals ++ [(cx, lo, len)] } cx lo len
    else s.dropRange cx lo len)

/-- A waiting invalidate command drops what is no longer pinned, and completes when nothing of its range is. -/
def State.invalidate (s : State) (i : Nat) : State :=
  match s.invals[i]? with
  | none => s
  | some (cx, lo, len) =>
    (if s.pinnedIn cx lo len then s else { s with invals := dropAt s.invals i }).dropRange cx lo len

/-! ## Writes of the hub itself -/

/-- An .n32 in device memory. -/
def State.word32 (s : State) (pa : Nat) : Nat := leNat (s.mem.readN pa 4)

/-! ## The translator (R308, R310) -/

/-- A byte as it stands at its home, for the translator. -/
def State.homeByte (s : State) (ctx va : Nat) : Option Byte :=
  match s.walkOf ctx va with
  | .page pa _ _ => if s.lineBad (pa / 64) || s.farGone pa then none else some (s.mem.read pa)
  | .serv .. | .none => none

/-- The words of a region, of 4 bytes or of 12, when each can be read. -/
def State.homeWords (s : State) (ctx width : Nat) : Nat → Nat → Option (List Nat)
  | _, 0 => some []
  | va, n + 1 =>
    match (range va width).mapM (s.homeByte ctx), State.homeWords s ctx width (va + width) n with
    | some bs, some ws => some (leNat bs :: ws)
    | _, _ => none

/-- A current translation of the same kind, which stands in the way of one over a range or of one of a run. -/
def Translation.overlaps (t : Translation) (reed : Bool) (cx lo hi : Nat) : Bool :=
  t.reed == reed && !t.run && t.ctx == cx && t.current && t.lo < hi && lo < t.hi
def Translation.sameRun (t : Translation) (reed : Bool) (cx lo : Nat) : Bool :=
  t.reed == reed && t.run && t.ctx == cx && t.current && t.lo == lo

/-- Native code for a control region that has no current translation (R308). -/
def State.addTranslation (s : State) (reed : Bool) (cx lo words : Nat) : State :=
  let inCode : Bool := s.objs.any fun o => o.ctx == cx && o.ctlLo ≤ lo && lo + 4 * words ≤ o.ctlLo + o.ctlLen
  if words = 0 || lo % 4 != 0 || !inCode || s.trans.any fun t => t.overlaps reed cx lo (lo + 4 * words) then s
  else
    match s.homeWords cx 4 lo words with
    | some ws => { s with trans := s.trans ++
        [{ reed := reed, run := false, ctx := cx, lo := lo, words := ws, current := true, inside := [] }] }
    | none => s

/-- Native code for a run that has no current translation: its words from the first to its boundary (R308). -/
def State.addRun (s : State) (reed : Bool) (cx lo : Nat) (ws : List Nat) : State :=
  let inCode : Bool := s.objs.any fun o =>
    o.ctx == cx && o.laneLo ≤ lo && lo + 12 * ws.length ≤ o.laneLo + o.laneLen && (lo - o.laneLo) % 12 == 0
  if !runShaped ws || !inCode || s.trans.any fun t => t.sameRun reed cx lo then s
  else { s with trans := s.trans ++
    [{ reed := reed, run := true, ctx := cx, lo := lo, words := ws, current := true, inside := [] }] }

/-- TRANSLATE_REGION (R308): of a run, which has as many words as it takes to its boundary, where the range begins in a .lane
section; else of a control region. -/
def execTranslateRegion (reed : Bool) (cx lo words : Nat) (s : State) : Host.Outcome State Fault Refusal :=
  let run : Bool := s.objs.any fun o => o.ctx == cx && o.laneLo ≤ lo && lo < o.laneLo + o.laneLen
  .next (if run then (match s.homeWords cx 12 lo words with | some ws => s.addRun reed cx lo ws | none => s)
    else s.addTranslation reed cx lo words)

/-- Words of the .ctl section from an address on that no current translation holds. -/
def State.untranslated (s : State) (reed : Bool) (cx va : Nat) : Nat :=
  match s.objs.find? fun o => o.ctx == cx && o.holds va with
  | none => 0
  | some o => (s.trans.filter fun t => t.reed == reed && !t.run && t.ctx == cx && t.current && va < t.lo).foldl
      (fun n t => min n ((t.lo - va) / 4)) ((o.ctlLo + o.ctlLen - va) / 4)

/-- The translator makes code for the control words from an address on: as many as it chooses, one at least. -/
def State.translateAt (s : State) (w : Who) (va : Nat) : State :=
  let reed := Config.isReed w.blk.site
  let n := s.untranslated reed w.blk.ctx va
  let s1 := s.addTranslation reed w.blk.ctx va (min n (1 + Config.freeChoice s.tick 9 % 64))
  if s1.trans.length == s.trans.length then s.addTranslation reed w.blk.ctx va (min n 1) else s1

/-- The translator makes the code that a shuttle waits for (R308): at its pc, at the follow-on of its CPYM, or of the run that
its LRUN names. -/
def State.translatorTurn (s : State) (h : Nat) : State :=
  match s.sh? h, s.blk? (blockOf h) with
  | some sh, some blk =>
    let w : Who := { h := h, sh := sh, blk := blk }
    (match s.fetchControl w with
    | .wait => s.translateAt w sh.pc.toNat
    | .bytes x =>
      (match decodeCtl x with
      | .ok (.cpym ..) =>
        (match s.fetchControl { w with sh := { sh with pc := sh.pc + 4 } } with
        | .wait => s.translateAt w (sh.pc + 4).toNat
        | .bytes _ | .trap _ | .swap _ => s)
      | .ok (.lrun l) =>
        (match s.runWords w l.toNat 0 [] 24 with
        | .run ws => s.addRun (Config.isReed blk.site) blk.ctx (blk.kern.laneAddr + 12 * l.toNat) ws
        | .trap .. | .swap _ | .wait => s)
      | _ => s)
    | .trap _ | .swap _ => s)
  | _, _ => s

/-- TRANSLATION_REPLACE (R310): the new translation of the same words is current at once; the old one stays while a
shuttle is inside it. -/
def execTranslationReplace (i : Nat) (s : State) : Host.Outcome State Fault Refusal :=
  .next (match s.trans[i]? with
    | some t =>
      if t.current then
        { s with trans := (if t.inside.isEmpty then dropAt s.trans i else setAt s.trans i { t with current := false }) ++
            [{ t with inside := [] }] }
      else s
    | none => s)

/-- TRANSLATION_EVICT (R308): a translation whose count is zero. -/
def execTranslationEvict (i : Nat) (s : State) : Host.Outcome State Fault Refusal :=
  .next (match s.trans[i]? with
    | some t => if t.inside.isEmpty then { s with trans := dropAt s.trans i } else s
    | none => s)

/-! ## Writes and errors -/

/-- GLOBAL_WRITE_PERFORMED (R256): a posted write reaches its home slice. -/
def execGlobalWritePerformed (i : Nat) (s : State) : Host.Outcome State Fault Refusal := .next (s.performWrite i)

/-- What stood in the reserve has found other room (R296). -/
def Compress.recovered (c : Compress) : Compress :=
  { blocks := c.blocks.map fun (b, n, st) => (b, n, if st == .reserve then .free else st)
    pools := c.pools.map fun (h, p) => (h, { p with reserve := 0 }), hold := false }

/-- SPACE_RECOVERED (R296): the reserve is whole again, and dispatch resumes. -/
def execSpaceRecovered (s : State) : Host.Outcome State Fault Refusal := .next { s with compress := s.compress.recovered }

/-- The reserve of a hub runs short: of its 256 MiB the last 1 MiB is left (R296). -/
def Compress.short (c : Compress) : Bool := c.pools.any fun e => e.2.reserve + 2 ^ 11 ≥ 2 ^ 19

/-- The partitions with a compressed region are halted when a reserve runs short (R296). -/
def State.reserveShort (s : State) : State :=
  if s.compress.short then
    ((s.parts.filter fun e => !e.2.halted && s.compressedPart e.1).map (·.1)).foldl State.halt s
  else s

/-- CACHE_REVALIDATE (R258): the core's copy of a line gives way to what its die shares. -/
def execCacheRevalidate (c line : Nat) (s : State) : Host.Outcome State Fault Refusal :=
  .next (s.updDie (c / 128) fun d => { d with coreCache := Tab.del d.coreCache (coreLine (c % 128) line) })

/-- PARTIAL_WRITE_ERROR (R294): the read half of a partial write finds its line uncorrectable. -/
def execPartialWriteError (i : Nat) (s : State) : Host.Outcome State Fault Refusal :=
  .next (match s.posted[i]? with
    | some p => if p.full then s else State.performWrite { s with bad := insertNat s.bad p.line } i
    | none => s)

/-- PATROL_SCRUB (R294): a line that is found uncorrectable is poisoned, without a trap. -/
def execPatrolScrub (line : Nat) (s : State) : Host.Outcome State Fault Refusal := .next (s.findBad [line])

/-- FAR_TIER_LOSS (R297, R346): accesses to the hub's part of the far tier trap from now on. -/
def execFarTierLoss (hub : Nat) (s : State) : Host.Outcome State Fault Refusal :=
  .next ((s.updHub hub fun u => { u with farLost := true }).logEvent false (12 + hub) 0xFF 0x7F 0x1CD)

/-! ## The model's own turns (log 7) -/

/-- A die caches the translation of a page (R282). -/
def State.tlbFill (s : State) (site ctx page : Nat) : State :=
  if (s.die site).tlb.any fun e => e.ctx == ctx && e.page == page then s
  else
    match s.walkPage ctx page with
    | .page pa w comp =>
      s.updDie site fun d =>
        { d with tlb := d.tlb ++ [{ ctx := ctx, page := page, pa := pa, writable := w, comp := comp }] }
    | .serv .. | .none => s

/-- A die's cache and a core's data cache take a copy of a line (R256). What a core takes from a copy that is about to be
invalidated is about to be, too (R258). -/
def State.dieFill (s : State) (site line : Nat) : State :=
  s.updDie site fun d => { d with cache := Tab.set d.cache line { bytes := s.mem.readN (64 * line) 64, inval := none } }
def State.coreFill (s : State) (site core line : Nat) : State :=
  let bytes := (range 0 64).map fun i => s.dieByte site (64 * line + i)
  let inval := match Tab.get? (s.die site).cache line with | some c => c.inval | none => none
  s.updDie site fun d => { d with coreCache := Tab.set d.coreCache (coreLine core line) { bytes := bytes, inval := inval } }

/-- A corrected memory error is counted at its hub (R294). -/
def State.memCorrected (s : State) (hub : Nat) : State := s.updHub hub fun u => { u with corrected := u.corrected + 1 }

/-- An uncorrectable error strikes a line (R294). -/
def State.strike (s : State) (line : Nat) : State := { s with bad := insertNat s.bad line }

/-- The supervisor gives frames to its pool (R282). -/
def State.giveFrames (s : State) (p : Nat) (pas : List Nat) : State :=
  s.updPart p fun x => { x with frames := x.frames ++ pas.filter fun f => !s.retired.contains f }

end Sys2Proof.Machine
end

