-- ==== Sys2Proof/Machine/EvFabric.lean ====
section
/-! DEFINITION. Steps of the hubs' collective engines (R364, R366 to R370) and of the fabric ports (R361, R362). -/

namespace Sys2Proof.Machine

/-! ## Uses and packets (R364) -/

def State.collNewUse (s : State) (hub gid : Nat) : State :=
  let wanted : Bool := s.shuttles.any fun e => e.2.wait == .newUse gid && match s.blk? (blockOf e.1) with
    | some b => hubOf b.site == hub
    | none => false
  if wanted && (s.hub hub).drain gid == 0 then s.newUse hub gid else s

/-- COLLECTIVE_NEW_USE (R364): the waiting commands join the use when they execute again. -/
def execCollectiveNewUse (hub gid : Nat) (s : State) : Host.Outcome State Fault Refusal := .next (s.collNewUse hub gid)

/-- A rank's contribution reaches a hub: it joins the current use, is held for the next, or is dropped (R364). -/
def State.packet (s : State) (hub gid use rank : Nat) (c : Contribution) : State :=
  let u := (s.hub hub).use gid
  if use == u.cur then s.updUse hub gid fun u => { u with contrib := Tab.set u.contrib rank c }
  else if use == (u.cur + 1) % 16 then s.updUse hub gid fun u => { u with held := u.held ++ [(rank, c)] }
  else s.updHub hub fun h => { h with stale := min 0xFFFFFFFF (h.stale + 1) }

/-- COLLECTIVE_PACKET_ARRIVAL (R364): a rank's contribution for a partition's group, with the fn code and the descriptor of
the command that it belongs to. -/
def execCollectivePacketArrival (hub part : Nat) (fn : Fin 4) (desc : W64) (data : List Byte) (s : State) :
    Host.Outcome State Fault Refusal :=
  let b := desc.toNat
  .next (s.packet hub (gidKey part (collGid b)) (collUse b) (collRank b)
    { kind := collKind fn b, count := collCount b, data := data })

/-- Packets of a use are acknowledged (R364). -/
def State.collectiveAck (s : State) (hub gid : Nat) : State := s.updUse hub gid fun u => { u with unacked := 0 }

def State.collSlot (s : State) (hub : Nat) : State :=
  match (s.hub hub).collSlots with
  | [] => s
  | k :: ks =>
    if (s.hub hub).collQ.length ≥ 64 then s
    else ((s.updHub hub fun u => { u with collSlots := ks }).acceptColl k).updSh k.h Shuttle.advance

/-- COLLECTIVE_SLOT_ACCEPT (R366, R150). -/
def execCollectiveSlotAccept (hub : Nat) (s : State) : Host.Outcome State Fault Refusal := .next (s.collSlot hub)

/-! ## Sources (R367, R368) -/

/-- An accepted command by its number, with its block. -/
def State.coll? (s : State) (i : Nat) : Option (Coll × Block) :=
  match (s.hubs.flatMap fun e => e.2.collQ).find? (·.id == i) with
  | some k => (s.blk? k.block).map fun b => (k, b)
  | none => none

/-- What a command is yet to do at .pod: its own part is over (R367, log 8). -/
def PodWait.over (k : Coll) (p : PodWait) : PodWait :=
  if p.gid == k.gid && p.use == k.use && p.rank == k.rank then { p with landed := true } else p

/-- A command leaves its queue. -/
def State.dropColl (s : State) (k : Coll) : State :=
  s.updHub k.hub fun u => { u with collQ := u.collQ.filter (·.id != k.id), podWaits := u.podWaits.map (PodWait.over k) }

/-- The landing report of a command (R367). -/
def State.collLand (s : State) (k : Coll) (n : Nat) : State :=
  match k.bar with
  | some b => s.land k.block b n k.h { cause := 0, ipc := k.ipc }
  | none => s

/-- The packages that a command's group names. -/
def State.collPackages (s : State) (k : Coll) (blk : Block) : List Nat :=
  (range 0 k.n).filterMap (s.rankPackage blk.site blk.ctx (groupMap (s.groupEntry (k.gid / 4096) (k.gid % 4096))))

/-- The lost package that a command's group names (R370). -/
def State.lostFor (s : State) (k : Coll) (blk : Block) : Option Nat :=
  (s.collPackages k blk).find? s.lostPkgs.contains

/-- What an address translates to for a command: its pinned translation, or the present one (R163, R366). -/
def State.collFind (s : State) (blk : Block) (k : Coll) (va : Nat) : Found := s.translateFor k.pins blk.site blk.ctx va

/-- A source as the hub reads it: its bytes from the block's region or the home slices, or the fault (R295, R297). -/
def State.sourceOf (s : State) (k : Coll) (blk : Block) (sp : CSpace) (addr : Nat) : RowFetch :=
  let n := sourceBytes k.kind k.count
  match sp with
  | .g =>
    (match s.engineAccess (s.collFind blk k) (fun pa => s.lineBad (pa / 64)) 7 [] (range addr n) with
    | .inl pas => .row (pas.map s.mem.read)
    | .inr x => x)
  | .a | .w | .peer .. => .row (blk.a.readN addr n)

/-- Every access of the issuer before the command is performed at .pkg (R367, log 8). -/
def State.sourceReady (s : State) (k : Coll) (blk : Block) : Bool :=
  !s.ownPosted k.h false .pkg && !s.streamPeers k.h && !s.seenPosted blk.site blk.core .pkg

/-- The contribution goes to both hubs of the package and to the other packages of the group. -/
def State.contribute (s : State) (k : Coll) (blk : Block) (data : List Byte) : State :=
  let c : Contribution := { kind := k.kind, count := k.count, data := data }
  let s1 := (s.packet k.hub k.gid k.use k.rank c).packet (1 - k.hub) k.gid k.use k.rank c
  if (s.collPackages k blk).any (· != s.pkg) then s1.updUse k.hub k.gid fun u => { u with unacked := u.unacked + 1 } else s1

/-- A command stops with a deferred trap of its issuer, without a landing report. -/
def State.failColl (s : State) (k : Coll) (cause addr : Nat) : State :=
  (s.dropColl k).defer k.h { cause := cause, addr := addr, ipc := k.ipc }

/-- The source read, and at a rank that receives nothing the landing report (R367). -/
def State.readSource (s : State) (k : Coll) (blk : Block) (sp : CSpace) (addr : Nat) : State :=
  match s.sourceOf k blk sp addr with
  | .fault cause a => (if cause = 0x077 then s.findAt (s.collFind blk k) a else s).failColl k cause a
  | .wait _ => s
  | .row bs =>
    let s1 := s.contribute k blk (contribution k.kind k.count bs)
    if k.dst.isSome then
      s1.updHub k.hub fun u => { u with collQ := u.collQ.map fun x => if x.id == k.id then { x with read := true } else x }
    else (s1.collLand k (16 * k.count)).dropColl k

/-- An accepted command goes on as `f` says, unless its block has ended, is out, or its group has lost a package. A delivery on
its way to a block that has ended is dropped at its core (R222). -/
def State.onColl (s : State) (i : Nat) (f : Coll → Block → State) : State :=
  match s.coll? i with
  | none => s
  | some (k, blk) =>
    if blk.status == .ended then
      ((if k.flying then (k.toward.map fun t => s.countStale t.1).getD s else s).dropColl k)
    else if blk.status != .resident || blk.fatal.isSome then s
    else
      match s.lostFor k blk with
      | some p => s.fatalTrap k.h 0x1E7 { cause := 0x1E7, addr := p, ipc := k.ipc, lostSite := some (12 + k.hub) }
      | none => f k blk

/-- COLLECTIVE_SOURCE_READ (R367): `i` is the number of the command. -/
def execCollectiveSourceRead (i : Nat) (s : State) : Host.Outcome State Fault Refusal :=
  .next (s.onColl i fun k blk =>
    match k.src with
    | some (sp, addr) => if k.read || !s.sourceReady k blk then s else s.readSource k blk sp addr
    | none => s)

/-! ## Results (R367) -/

/-- What became of a result's lines: all written so far, or the cause and the address that the command stops with. -/
abbrev Written := State × Option (Nat × Nat)

/-- One line of a result written at its home slice, unless the far tier is lost (R297) or the line is abandoned (R294). -/
def State.resultLine (s : State) (blk : Block) (k : Coll) (line va : Nat) (cells : List Host.Cell) : Written :=
  let full := coversLine line cells
  let comp : Bool := match s.collFind blk k va with | .page _ _ c => c | .serv .. | .none => false
  if s.farGone (64 * line) then (s, some (0x1CF, va))
  else if !full && s.lineBad line then (s.findBad [line], some (0x06F, va / 64 * 64))
  else
    let s1 : State := if full then { s with bad := s.bad.filter (· != line), poison := s.poison.filter (· != line) } else s
    (s1.programWrite line 15 0 cells comp, none)

/-- The cells of a result with their virtual addresses. -/
def State.resultCells (s : State) (blk : Block) (k : Coll) (va : Nat) (bs : List Byte) : List (Nat × Host.Cell) :=
  bs.zipIdx.filterMap fun (b, i) => match s.collFind blk k (va + i) with
    | .page pa _ _ => some (va + i, pa, b)
    | .serv .. | .none => none

/-- A result written line by line; the first failure is what the command reports. -/
def State.resultG (s : State) (k : Coll) (blk : Block) (va : Nat) (bs : List Byte) : Written :=
  (intoLines (s.resultCells blk k va bs)).foldl (fun x e =>
    let r := x.1.resultLine blk k e.1 e.2.1 e.2.2
    (r.1, x.2.orElse fun _ => r.2)) (s, none)

/-- A result written into a region fills its granules. -/
def State.resultA (s : State) (k : Coll) (off : Nat) (bs : List Byte) : State :=
  (s.writeStore k.block false off bs).markFull k.block false (granules off bs.length)

/-- The result, its landing report, and the acquire of a BWAIT that completes on it (R367). -/
def State.writeResult (s : State) (k : Coll) (blk : Block) (sp : CSpace) (addr : Nat) (bs : List Byte) : State :=
  let r := match sp with
    | .g => s.resultG k blk addr bs
    | .a | .w | .peer .. => (s.resultA k addr bs, none)
  match r.2 with
  | some (cause, a) => r.1.failColl k cause a
  | none => ((r.1.dropColl k).collLand k bs.length).refresh blk.site blk.core .pkg

/-- The fields of a delivery changed in its command. -/
def State.setFlight (s : State) (k : Coll) (toward : Option (Nat × Nat)) (flying : Bool) : State :=
  s.updHub k.hub fun u =>
    { u with collQ := u.collQ.map fun x => if x.id == k.id then { x with toward := toward, flying := flying } else x }

/-- A delivery is on its way to where its block stands no longer under that number: it is dropped there, and the hub holds
the result (R138, R222, R367). -/
def Coll.astray (k : Coll) (blk : Block) : Bool :=
  k.flying && (blk.status != .resident || k.toward != some (blk.coreKey, blk.tenancy))

/-- A result on its way into A: has arrived, or one for global memory is there to be written. -/
def Coll.arrived (k : Coll) (sp : CSpace) : Bool := k.read && (sp == .g || k.flying)

def State.resultTurn (s : State) (i : Nat) : State :=
  match s.coll? i with
  | none => s
  | some (k, blk) =>
    if k.astray blk then ((k.toward.map fun t => s.countStale t.1).getD s).setFlight k k.toward false
    else s.onColl i fun k blk =>
      match k.dst, collResult k ((s.hub k.hub).use k.gid) with
      | some (sp, addr), some bs => if k.arrived sp then s.writeResult k blk sp addr bs else s
      | _, _ => s

/-- COLLECTIVE_RESULT_WRITE (R367): the result of command `i`, when every contribution is there; a delivery into A: carries
the tenancy number of its block. -/
def execCollectiveResultWrite (i : Nat) (s : State) : Host.Outcome State Fault Refusal := .next (s.resultTurn i)

/-- A result for A: sets out for the core of its block, under its tenancy number (R138, R367). -/
def State.collDeliver (s : State) (i : Nat) : State :=
  s.onColl i fun k blk =>
    match k.dst, collResult k ((s.hub k.hub).use k.gid) with
    | some (.a, _), some _ => if k.read && !k.flying then s.setFlight k (some (blk.coreKey, blk.tenancy)) true else s
    | _, _ => s

/-! ## Performed at .pod (R256, R367) -/

/-- The landed commands of a use, at either hub, by rank. -/
def State.landedRanks (s : State) (p : PodWait) : List Nat :=
  (s.hubs.flatMap fun e => e.2.podWaits).filterMap fun q =>
    if q.gid == p.gid && q.use == p.use && q.landed then some q.rank else none

/-- Every rank's report of a use has been made: those of this package, and in their own time those of the others; its
commands are performed at .pod. -/
def State.podReport (s : State) (hub i : Nat) : State :=
  match (s.hub hub).podWaits[i]? with
  | none => s
  | some p =>
    if p.mine.all (s.landedRanks p).contains then
      { s with hubs := s.hubs.map fun (h, u) =>
          (h, { u with podWaits := u.podWaits.filter fun q => !(q.gid == p.gid && q.use == p.use && q.landed) }) }
    else s

/-! ## Lost packages (R370) -/

def State.packageLost (s : State) (pkg : Nat) : State :=
  let s1 : State := { s with lostPkgs := insertNat s.lostPkgs pkg }
  let ks := (s.hubs.flatMap fun e => e.2.collQ).filter fun k => match s.blk? k.block with
    | some blk => blk.status != .ended && (s.collPackages k blk).contains pkg
    | none => false
  let hubs := if ks.isEmpty then [0] else distinct (ks.map (·.hub))
  let s2 := ks.foldl (fun x k => x.fatalTrap k.h 0x1E7
    { cause := 0x1E7, addr := pkg, ipc := k.ipc, lostSite := some (12 + k.hub) }) s1
  hubs.foldl (fun x h => x.logEvent false (12 + h) 0xFF 0x7F 0x1E7) s2

/-- PACKAGE_LOST (R370): every block with an accepted collective on a group that names the package ends. -/
def execPackageLost (pkg : Nat) (s : State) : Host.Outcome State Fault Refusal := .next (s.packageLost pkg)

/-! ## The link (R360 to R362) -/

/-- The control flit of a burst without its CRC: SEQ, ACK and FLITS (R361 Table 1). -/
def controlFlit (seq ack n : Nat) : Nat := 2 ^ 52 * (seq % 4096) + 2 ^ 40 * (ack % 4096) + 2 ^ 36 * (n % 16)

/-- The CRC of a burst: over its payload flits and bits 255:32 of its control flit (R361). -/
def burstCrc (seq ack : Nat) (flits : List Nat) : BitVec 32 := Config.crc32 (flits ++ [controlFlit seq ack flits.length])

/-- A burst as it stands on the link: its payload, then its control flit. -/
def burst (seq ack : Nat) (flits : List Nat) : List Nat :=
  flits ++ [controlFlit seq ack flits.length + (burstCrc seq ack flits).toNat]

/-- Flits that a replay buffer holds: each burst with its control flit. -/
def Port.held (p : Port) : Nat := (p.replay.map fun e => e.2.2.length + 1).foldl (· + ·) 0

/-- The port admits a burst: it is up, no repair is pending, and the replay buffer of 256 flits has room (R361, R362). -/
def Port.admits (p : Port) (flits : List Nat) : Bool :=
  p.up && p.repair.isNone && p.held + flits.length + 1 ≤ 256

/-- A burst sent: it stays in the replay buffer until an ACK covers it. -/
def Port.send (p : Port) (pkg : Nat) (flits : List Nat) : Port :=
  { p with seq := (p.seq + 1) % 4096, replay := p.replay ++ [(p.seq, pkg, flits)], sent := p.sent ++ [burst p.seq p.got flits] }

/-- The first listed port for a package that is up (R360). -/
def State.portFor (s : State) (pkg : Nat) : Option Nat := (Tab.getD s.podRoutes pkg []).find? fun n => (s.port n).up

/-- A hub sends 1 to 15 payload flits of a packet (R360, R361). -/
def State.linkSend (s : State) (pkg : Nat) (flits : List Nat) : State :=
  match s.portFor pkg with
  | some n =>
    if 0 < flits.length && flits.length ≤ 15 && (s.port n).admits flits then s.updPort n (·.send pkg flits) else s
  | none => s

/-- The oldest burst that a fenced port still holds goes out on the next port of the route tables (R362). -/
def State.linkMove (s : State) (n : Nat) : State :=
  match (s.port n).replay, s.portFor ((s.port n).replay.headD (0, 0, [])).2.1 with
  | e :: es, some m =>
    if !(s.port n).up && (s.port m).admits e.2.2 then
      (s.updPort n fun p => { p with replay := es }).updPort m (·.send e.2.1 e.2.2)
    else s
  | _, _ => s

/-- A port is fenced off (R362, R347); packages that no listed port reaches any more are lost to the pod (R370). -/
def State.fencePort (s : State) (n cause : Nat) : State :=
  let s1 := (s.updPort n fun p => { p with up := false }).logEvent true (14 + n) 0xFF 0x7F cause
  ((s1.podRoutes.filter fun e => e.2.contains n && e.2.all fun m => !(s1.port m).up).map (·.1)).foldl State.packageLost s1

/-- Bursts up to `ack` leave the replay buffer. -/
def ackBursts (ack : Nat) (l : List (Nat × Nat × List Nat)) : List (Nat × Nat × List Nat) :=
  l.filter fun e => (ack + 4096 - e.1 % 4096) % 4096 ≥ 2048

/-- Errors of a lane within 2^40 bits at 224 Gb/s, which pass in 4,908,535 microseconds. -/
def Port.recent (p : Port) (lane now span : Nat) : Nat := (p.errors.filter fun e => e.1 == lane && now ≤ e.2 + span).length

/-- A port whose spare is in use is fenced off; another's repair becomes pending (R362). -/
def State.laneFailing (s : State) (port lane : Nat) : State :=
  if (s.port port).spare.isSome then s.fencePort port 0x1E7
  else s.updPort port fun p => { p with repair := some lane }

def State.badBurst (s : State) (port lane : Nat) : State :=
  let s1 := s.updPort port fun p => { p with wantReplay := true, errors := p.errors ++ [(lane, s.now)] }
  if (s1.port port).recent lane s.now (s.micros 4908535) > 32 && (s1.port port).repair.isNone then s1.laneFailing port lane
  else s1

def State.linkReceive (s : State) (port seq ack : Nat) (flits : List Nat) (crc : BitVec 32) (lane : Nat) : State :=
  let p := s.port port
  if !p.up then s
  else if crc != burstCrc seq ack flits then s.badBurst port lane
  else if seq != (p.got + 1) % 4096 || flits.isEmpty || flits.length > 15 then s.updPort port fun p => { p with wantReplay := true }
  else s.updPort port fun p =>
    { p with got := seq, wantReplay := false, delivered := p.delivered ++ flits, replay := ackBursts ack p.replay }

/-- LINK_BURST_RECEIVE (R361, R362): a burst with the SEQ, the ACK and the CRC of its control flit; `lane` is where a CRC
error is attributed. -/
def execLinkBurstReceive (port seq ack : Nat) (flits : List Nat) (crc : BitVec 32) (lane : Nat) (s : State) :
    Host.Outcome State Fault Refusal := .next (s.linkReceive port seq ack flits crc lane)

/-- REPLAY_REQUEST (R361): the bursts up to the last intact one have arrived; those that follow are sent again, in order. -/
def Port.replayFrom (p : Port) (seq : Nat) : Port :=
  let rest := ackBursts seq p.replay
  { p with replay := rest, sent := p.sent ++ rest.map fun e => burst e.1 p.got e.2.2 }
def execReplayRequest (port seq : Nat) (s : State) : Host.Outcome State Fault Refusal :=
  .next (s.updPort port (·.replayFrom seq))

def State.laneRepair (s : State) (port : Nat) : State :=
  let p := s.port port
  match p.repair with
  | none => s
  | some lane =>
    if p.replay.isEmpty then s.updPort port fun p =>
      { p with spare := some lane, repair := none, errors := p.errors.filter fun e => e.1 != lane }
    else s

/-- LANE_REPAIR (R362). -/
def execLaneRepair (port : Nat) (s : State) : Host.Outcome State Fault Refusal := .next (s.laneRepair port)

end Sys2Proof.Machine
end

