-- ==== Sys2Proof/Machine/Message.lean ====
section
/-! DEFINITION. Messages at issue and at delivery (R238 to R243), and the range unit (R247 to R249). -/

namespace Sys2Proof.Machine

/-! ## Matching and delivery -/

/-- A match word accepts a source core and a tag (R241, R242). -/
def Recv.accepts (r : Recv) (m : Message) : Bool :=
  r.ctx == m.ctx && (r.anyTag || r.tag == m.tag) && (r.anySrc || r.src == m.src)

/-- The envelope of a delivery that keeps `n` bytes (R243). -/
def envelope (m : Message) (n : Nat) : Nat :=
  m.src + 2 ^ 32 * m.tag + 2 ^ 48 * m.payload.length + 2 ^ 56 * bitNat (decide (m.payload.length > n))

/-- Delivery of a message into a receive (R243): the bytes, the full granules, then the landing report. Later reads of
the receiving core see what was performed at .die (R244). -/
def State.deliverMessage (s : State) (r : Recv) (m : Message) : State :=
  let n := min m.payload.length (16 * r.cap)
  let s0 := match s.blk? r.block with | some k => s.refresh k.site k.core .die | none => s
  let s1 := s0.writeStore r.block false r.offset (leBytes 16 (envelope m n) ++ m.payload.take n)
  let s2 := s1.updBlk r.block (Block.spoilImage r.block false r.offset (16 + n))
  (s2.markFull r.block false (granules r.offset (16 + n))).land r.block r.bar (16 + n) r.h { cause := 0, ipc := r.ipc }

/-- Entries of an overflow queue that a context holds. -/
def Core.overflowOf (c : Core) (ctx : Nat) : Nat := (c.overflow.filter (·.ctx == ctx)).length

/-- A context's overflow full may be raised again once its entries have fallen below 48 (R242). -/
def Core.lowered (c : Core) (ctx : Nat) : Core :=
  if c.overflowOf ctx < 48 then { c with raised := c.raised.filter (· != ctx) } else c

/-! ## SEND -/

/-- The checks of SEND (R239). -/
def State.judgeSend (s : State) (w : Who) (a b : Nat) : Judged Message :=
  let len := bitsOf b 47 40
  let dst := bitsOf b 6 0
  let bad : Bool := bitsOf b 63 50 != 0 || bitsOf b 39 32 != 0 || bitsOf b 15 7 != 0 || bitsOf b 49 48 == 3 || len < 16 ||
    len > 224 || len % 16 != 0 || dst ≥ Config.cores w.blk.site || (s.core (128 * w.blk.site + dst)).fenced
  (need (!bad) 0x133).bind fun _ =>
  (need (a < 2 ^ 32) 0x132).bind fun _ =>
  (need (a % 16 == 0) 0x08D a).bind fun _ =>
  (need (a + len ≤ w.blk.a.bytes) 0x085 a).bind fun _ =>
  .ok { h := w.h, ipc := w.sh.pc.toNat, ctx := w.blk.ctx, src := w.blk.core, dst := dst, tag := bitsOf b 31 16,
        xdir := bitsOf b 49 48, payload := w.blk.a.readN a len, sent := false, refused := false, head := none }

/-- The head of a send queue is the first message that is to be sent, behind no earlier one for its destination (R244);
from now on it stands there, and no other does (R252; that sent ones before it do not count is a DESIGN CHOICE, log 106). -/
def headed (now : Nat) : List Nat → List Message → List Message
  | _, [] => []
  | dsts, m :: t =>
    if !m.sent && !dsts.contains m.dst then
      { m with head := m.head.orElse fun _ => some now } :: t.map fun x => { x with head := none }
    else { m with head := none } :: headed now (dsts ++ [m.dst]) t
def Core.headed (now : Nat) (k : Core) : Core := { k with sendQ := Machine.headed now [] k.sendQ }

/-- SEND (R239, R240): the message enters the send queue of 8, or waits in the shuttle's slot. -/
def execSend (a b : SReg) (s : State) : Host.Outcome State Fault Refusal :=
  onCur s fun w => s.unlessSlot w (s.whenDrained w (s.judged w
    (s.judgeSend w (w.sh.readS a).toNat (w.sh.readS b).toNat) fun m =>
      let c := s.core w.coreKey
      if c.sendQ.length < 8 && c.sendSlots.isEmpty then
        (s.updCore w.coreKey fun c => Core.headed s.now { c with sendQ := c.sendQ ++ [m] }).complete w id
      else (s.updCore w.coreKey fun c => { c with sendSlots := c.sendSlots ++ [m] }).waits w .slot))

/-! ## RECVPOST -/

/-- The checks of RECVPOST (R241). -/
def judgeRecv (w : Who) (a b : Nat) : Judged Recv :=
  let anyTag : Bool := bitsOf a 33 33 == 1
  let anySrc : Bool := bitsOf a 32 32 == 1
  let tag := bitsOf a 31 16
  let src := bitsOf a 6 0
  let cap := bitsOf b 47 44
  let off := bitsOf b 31 0
  let badMatch : Bool := bitsOf a 63 34 != 0 || bitsOf a 15 7 != 0 || (anyTag && tag != 0) || (anySrc && src != 0)
  let badDest : Bool := bitsOf b 63 48 != 0 || bitsOf b 43 40 != 0 || cap < 1 || cap > 14
  (need (!badMatch) 0x132).bind fun _ =>
  (need (!badDest) 0x133).bind fun _ =>
  (checkBar w.blk false (bitsOf b 39 32) 3).bind fun _ =>
  (need (off % 16 == 0) 0x08D off).bind fun _ =>
  (need (off + 16 + 16 * cap ≤ w.blk.a.bytes) 0x085 off).bind fun _ =>
  .ok { h := w.h, ipc := w.sh.pc.toNat, ctx := w.blk.ctx, block := w.b, anyTag := anyTag, anySrc := anySrc, tag := tag,
        src := src, cap := cap, bar := bitsOf b 39 32, offset := off }

/-- RECVPOST (R241): the oldest overflow entry that the match word accepts, else a posted receive, else nothing. -/
def execRecvpost (k : KReg) (a b : SReg) (s : State) : Host.Outcome State Fault Refusal :=
  onCur s fun w => s.whenDrained w (s.judged w (judgeRecv w (w.sh.readS a).toNat (w.sh.readS b).toNat) fun r =>
    let c := s.core w.coreKey
    match c.overflow.findIdx? r.accepts with
    | some i =>
      match c.overflow[i]? with
      | some m =>
        ((s.updCore w.coreKey fun c => Core.lowered { c with overflow := dropAt c.overflow i } r.ctx).deliverMessage r m).complete
          w (·.writeK k true)
      | none => s
    | none =>
      if c.recvs.length < 32 then
        (s.updCore w.coreKey fun c => { c with recvs := c.recvs ++ [r] }).complete w (·.writeK k true)
      else s.complete w (·.writeK k false))

/-! ## Ranges -/

/-- A range of a die that is allotted to a context (R247, R248). -/
def State.rangeFor (s : State) (site ctx r : Nat) : Option Range :=
  match Tab.get? (s.die site).ranges r with
  | some x => if x.ctx == some ctx then some x else none
  | none => none

/-- The length of a grab (R248). -/
def grabLen (x : Range) : Nat :=
  let rem := x.stop - x.next
  if rem = 0 then 0 else min (min (max x.min ((rem + x.div - 1) / x.div)) rem) 0xFFFFFF

/-- A request applied by the range unit: the die's ranges change and RGRAB's result is given (R248). -/
def State.serveRange (s : State) (site : Nat) (op : RangeOp) : State × Option (SReg × W64) :=
  match op with
  | .init r start stop mn dv =>
    (s.updDie site fun d => { d with ranges := Tab.upd d.ranges r fun x =>
      { x with start := start, next := start, stop := stop, min := mn, div := dv } }, none)
  | .grab r d =>
    match Tab.get? (s.die site).ranges r with
    | some x =>
      (s.updDie site fun d => { d with ranges := Tab.set d.ranges r { x with next := x.next + grabLen x } },
       some (d, BitVec.ofNat 64 (grabLen x * 2 ^ 40 + x.next)))
    | none => (s, none)

/-- A request leaves the queue of 16 served, and its instruction completes (R249). -/
def State.applyRange (s : State) (site h : Nat) (op : RangeOp) : State :=
  let r := s.serveRange site op
  (r.1.updDie site fun d => { d with rangeQ := d.rangeQ ++ [h] }).updSh h fun sh =>
    Shuttle.advance (match r.2 with | some (d, v) => sh.writeS d v | none => sh)

/-- A request is served while the queue has room and nobody waits; otherwise it waits in the shuttle's slot (R249). -/
def State.issueRange (s : State) (w : Who) (op : RangeOp) : State :=
  let d := s.die w.blk.site
  if d.rangeQ.length < 16 && d.rangeSlots.isEmpty then s.applyRange w.blk.site w.h op
  else (s.updDie w.blk.site fun d => { d with rangeSlots := d.rangeSlots ++ [(w.h, op)] }).waits w .slot

/-- RINIT (R248): the record stands in four scalar registers. -/
def execRinit (a : SReg) (s : State) : Host.Outcome State Fault Refusal :=
  onCur s fun w => s.unlessSlot w (
    let r (n : Nat) : Nat := (w.sh.readS (SReg.plus a n)).toNat
    let start := bitsOf (r 0) 39 0
    let stop := bitsOf (r 1) 39 0
    let mn := bitsOf (r 2) 47 24
    let dv := bitsOf (r 2) 15 0
    if bitsOf (r 0) 63 40 != 0 || bitsOf (r 1) 63 40 != 0 || start > stop || bitsOf (r 2) 63 48 != 0 ||
        bitsOf (r 2) 23 16 != 0 || mn == 0 || dv == 0 || r 3 ≥ 64 || (s.rangeFor w.blk.site w.blk.ctx (r 3)).isNone then
      s.trap w 0x13A
    else s.issueRange w (.init (r 3) start stop mn dv))

/-- RGRAB (R248). -/
def execRgrab (d a : SReg) (s : State) : Host.Outcome State Fault Refusal :=
  onCur s fun w => s.unlessSlot w (
    let n := (w.sh.readS a).toNat
    if n ≥ 64 || (s.rangeFor w.blk.site w.blk.ctx n).isNone then s.trap w 0x13A else s.issueRange w (.grab n d))

end Sys2Proof.Machine
end

