-- ==== Sys2Proof/Machine/EvMessage.lean ====
section
/-! DEFINITION. The router torus (R234 to R236, R246, R252), the arrival of messages (R240, R242), and the range unit's
queue and claims (R247, R249). -/

namespace Sys2Proof.Machine

/-! ## Routes (R234, R236) -/

/-- The positive direction of a ring of `n` from `x` to `y`: forced, or the shorter way, positive on a tie. -/
def positive (n x y force : Nat) : Bool :=
  match force with
  | 1 => true
  | 2 => false
  | _ => 2 * ((y + n - x) % n) ≤ n

/-- The next position of a ring. -/
def ringNext (n x : Nat) (pos : Bool) : Nat := if pos then (x + 1) % n else (x + n - 1) % n

/-- A way from `a` reaches `x` past the dateline, which lies between the last position and position 0. -/
def pastDateline (a x : Nat) (pos : Bool) : Bool := if pos then x < a else a < x

/-- The table of a ring of `n` for minimal ways: 0 at the destination, 1 positive, 2 negative (R234, R236). -/
def ringTable (n : Nat) : List (List Nat) :=
  (range 0 n).map fun x => (range 0 n).map fun y => if x = y then 0 else if positive n x y 0 then 1 else 2

/-- The route table of a die, computed for its full torus (R237). -/
def fullRoutes (site : Nat) : Routes := { x := ringTable (Config.columns site), y := ringTable 4 }

/-- A die's route table is loaded (R237). -/
def State.loadRoutes (s : State) (site : Nat) : State := s.updDie site fun d => { d with routes := some (fullRoutes site) }

/-- What a table lists for a position and a destination. -/
def tableAt (t : List (List Nat)) (x y : Nat) : Nat := (t.getD x []).getD y 0

/-- A hop: the output, the next quad, the input there, and the escape channel there. -/
structure Hop where
  out : Nat
  quad : Nat
  port : Nat
  vc : Nat

/-- The productive hops of a packet from a quad: along X, in the direction that its sender forces or the table lists, then
along Y. -/
def NetPacket.hopsFrom (p : NetPacket) (r : Routes) (quad : Nat) : List Hop :=
  let n := Config.columns p.site
  let x := quad % n
  let y := quad / n
  let way := tableAt r.x x (p.dstQuad % n)
  let px := (if p.xdir = 0 then way else p.xdir) == 1
  let py := tableAt r.y y (p.dstQuad / n) == 1
  let nx := ringNext n x px
  let ny := ringNext 4 y py
  (if x == p.dstQuad % n then [] else
    [{ out := if px then 0 else 1, quad := y * n + nx, port := if px then 4 else 5,
       vc := if pastDateline (p.origin % n) nx px then 1 else 0 }]) ++
  (if y == p.dstQuad / n then [] else
    [{ out := if py then 2 else 3, quad := ny * n + x, port := if py then 6 else 7,
       vc := if pastDateline (p.origin / n) ny py then 1 else 0 }])

/-- The hops that a die's route table gives a packet. -/
def State.hops (s : State) (p : NetPacket) (quad : Nat) : List Hop :=
  match (s.die p.site).routes with
  | some r => p.hopsFrom r quad
  | none => []

/-- Flits present in a buffer of an input port, and slots reserved for flits to come (R235, R252). -/
def State.flitsIn (s : State) (site quad port : Nat) (reply : Bool) (b : Buffer) : Nat :=
  ((s.net.filter fun p => p.site == site && p.reply == reply).map fun p =>
    ((p.seats.filter fun a => a.quad == quad && a.port == port && a.buf == b).map fun a => a.here + a.due).foldl (· + ·) 0).foldl
      (· + ·) 0

/-- The slots of a shared pool and of an escape channel (R235). -/
def poolSlots (reply : Bool) : Nat := if reply then 4 else 16
def escapeSlots (reply : Bool) : Nat := if reply then 2 else 4

/-- A buffer of the next input takes the packet: a pool all its flits, an escape channel when it holds none (R252). -/
def State.hasRoom (s : State) (p : NetPacket) (h : Hop) (b : Buffer) : Bool :=
  match b with
  | .shared => s.flitsIn p.site h.quad h.port p.reply .shared + p.flits ≤ poolSlots p.reply
  | .escape v => s.flitsIn p.site h.quad h.port p.reply (.escape v) == 0

/-- The header of a packet waits at a router: it has arrived there and holds no output. -/
def NetPacket.waits (p : NetPacket) (now : Nat) : Option Seat :=
  match p.seats with
  | a :: _ => if a.port < 8 && a.out.isNone && a.due < p.flits && a.ready ≤ now then some a else none
  | [] => none

/-- Where a packet can go now: an output, and the hop with the buffer at its end, or the eject port (R236). -/
def State.routeOf (s : State) (p : NetPacket) (a : Seat) : Option (Nat × Option (Hop × Buffer)) :=
  let hops := s.hops p a.quad
  let escape : Option (Nat × Option (Hop × Buffer)) :=
    match hops with
    | h :: _ => if s.hasRoom p h (.escape h.vc) then some (h.out, some (h, .escape h.vc)) else none
    | [] => none
  if a.quad == p.dstQuad then some (4 + (if p.reply then p.msg.src else p.msg.dst) % 4, none)
  else
    match a.buf with
    | .escape _ => escape
    | .shared =>
      match hops.find? fun h => s.hasRoom p h .shared with
      | some h => some (h.out, some (h, .shared))
      | none => escape

/-! ## Entering the network (R239, R244) -/

/-- A packet with all its flits at an input of its own quad's router, or at its endpoint. -/
def mkPacket (site port ready : Nat) (m : Message) (reply refusal : Bool) : NetPacket :=
  let origin := (if reply then m.dst else m.src) / 4
  let flits := if reply then 1 else 1 + (m.payload.length + 31) / 32
  { site := site, origin := origin, dstQuad := (if reply then m.src else m.dst) / 4, xdir := if reply then 0 else m.xdir,
    flits := flits, reply := reply, msg := m, refusal := refusal,
    seats := [{ quad := origin, port := port, buf := .shared, here := flits, due := 0, ready := ready, out := none }],
    ejected := 0 }

/-- The packet that the head of a core's send queue makes at its local port, ready from the cycle after it got there (R252). -/
def Core.headPacket (c : Nat) (k : Core) : Option NetPacket :=
  (k.sendQ.find? fun m => m.head.isSome && !m.sent).map fun m =>
    mkPacket (c / 128) (m.src % 4) (m.head.getD 0 + 1) m false false

/-- The packets that wait or move on the torus, with their positions, and those of the send queues' heads. -/
def State.packets (s : State) : List (Option Nat × NetPacket) :=
  (s.net.zipIdx.map fun e => (some e.2, e.1)) ++ s.cores.filterMap fun e => (e.2.headPacket e.1).map fun p => (none, p)

/-! ## Congestion (R246) and the clock -/

/-- A request finds a next-hop shared pool unable to take it. -/
def State.congested (s : State) (p : NetPacket) : Bool :=
  !p.reply && match p.waits s.now with
  | some a => a.buf == .shared && (s.hops p a.quad).any fun h => !s.hasRoom p h .shared
  | none => false

/-- Cycles pass; a router counts those in which a request found a pool unable to take it (R246). -/
def State.count (s : State) (n : Nat) : State :=
  let hit := distinct ((s.packets.filter fun e => s.congested e.2).filterMap fun e => (e.2.waits s.now).map fun a => 32 * e.2.site + a.quad)
  { hit.foldl (fun x q => x.updQuad q fun k => { k with congest := k.congest + n }) s with now := s.now + n }

/-- The memory-bound shuttles of a core with a run that competes, those that came to it first before the others. -/
def State.boundOrder (s : State) (c : Nat) : List Nat :=
  ((s.residents c).filterMap fun e => if e.2.memoryBound then (match e.2.readySince with
      | some n => some (n, e.1)
      | none => if e.2.enlarging then some (s.now, e.1) else none) else none).foldl
    (fun l e => insertBy (fun h => match s.sh? h with | some x => x.readySince.getD s.now | none => s.now) l e.2) []

/-- A run that competes is held back from now on. -/
def Run.holdBack (now : Nat) (r : Run) : Run :=
  match r.phase with
  | .ready _ => { r with phase := .stopped, since := some now }
  | .enlarge => { r with phase := .queued, since := some now }
  | .queued | .running _ | .stopped => r

/-- No more memory-bound shuttles compete than the cap allows: the others are held back. -/
def State.trimBound (s : State) (c : Nat) : State :=
  ((s.boundOrder c).drop (s.core c).cap).foldl (fun x h => x.updSh h (·.updHead (Run.holdBack s.now))) s

/-- A core's cap on memory-bound runs at the end of a window (R246). -/
def State.newCap (s : State) (many : Bool) (c : Nat) : State :=
  let cap := if many then max 4 ((s.core c).cap / 2) else min 128 (2 * (s.core c).cap)
  if cap = (s.core c).cap then s else (s.updCore c fun k => { k with cap := cap }).trimBound c

/-- The die scheduler reads a quad's counter at the end of a window, once for each window, and acts on the quad's cores (R246). -/
def State.readCounter (s : State) (site quad : Nat) : State :=
  let q := s.quad (32 * site + quad)
  if s.now / 1024 ≤ q.windows then s
  else
    ((range 0 4).foldl (fun x i => x.newCap (decide (q.congest > 256)) (128 * site + 4 * quad + i)) s).updQuad (32 * site + quad)
      fun k => { k with congest := 0, windows := s.now / 1024 }

/-- CONGESTION_WINDOW (R246). -/
def execCongestionWindow (site quad : Nat) (s : State) : Host.Outcome State Fault Refusal := .next (s.readCounter site quad)

/-- The counters of the package's dies are read. -/
def State.readCounters (s : State) : State :=
  s.dies.foldl (fun x e => (range 0 (Config.quads e.1)).foldl (fun y q => y.readCounter e.1 q) x) s

/-- Cycles pass, in at most `fuel` windows; at the end of each the counters are read (R246). -/
def State.clockFor : Nat → Nat → State → State
  | 0, n, s => s.count n
  | fuel + 1, n, s =>
    let k := 1024 - s.now % 1024
    if n < k then s.count n else State.clockFor fuel (n - k) (s.count k).readCounters
def State.clock (s : State) (n : Nat) : State := State.clockFor (n / 1024 + 1) n s

/-! ## Grants (R252) -/

/-- The place of a packet in the order of a grant: its ready cycle, its input, the shared pool first. -/
def Seat.rank (a : Seat) : Nat := a.ready * 64 + a.port * 4 + match a.buf with | .shared => 0 | .escape v => 1 + v

/-- An output carries a packet. -/
def State.outBusy (s : State) (site quad out : Nat) : Bool :=
  s.net.any fun p => p.site == site && p.seats.any fun a => a.quad == quad && a.out == some out

/-- A packet that waits at a router and can go by an output: its seat, and the hop with its buffer. -/
def State.canGo (s : State) (site quad out : Nat) (p : NetPacket) : Option (Seat × Option (Hop × Buffer)) :=
  match p.waits s.now with
  | none => none
  | some a =>
    if p.site != site || a.quad != quad then none
    else
      match s.routeOf p a with
      | some (o, dest) => if o == out then some (a, dest) else none
      | none => none

/-- A packet's flits have room in the pool of its local port. -/
def State.entersAt (s : State) (p : NetPacket) (port : Nat) : Bool :=
  s.flitsIn p.site p.origin port p.reply .shared + p.flits ≤ poolSlots p.reply

/-- The packet that an output grants: its position, none for a send queue's head, which needs room at its local port; its seat,
and where it goes. -/
def State.granted (s : State) (site quad out : Nat) : Option (Option Nat × NetPacket × Seat × Option (Hop × Buffer)) :=
  (s.packets.filterMap fun e =>
    if e.1.isNone && !s.entersAt e.2 (e.2.msg.src % 4) then none
    else (s.canGo site quad out e.2).map fun g => (e.1, e.2, g)).foldl (fun m e => match m with
      | none => some e
      | some x => if e.2.2.1.rank < x.2.2.1.rank then some e else some x) none

/-- A packet granted an output: its header's next seat, every flit of the packet reserved there, or the eject port. -/
def NetPacket.granted (p : NetPacket) (a : Seat) (out : Nat) (dest : Option (Hop × Buffer)) : NetPacket :=
  let rest := { a with out := some out } :: p.seats.tail
  match dest with
  | some (h, b) =>
    { p with seats := { quad := h.quad, port := h.port, buf := b, here := 0, due := p.flits, ready := 0, out := none } :: rest }
  | none => { p with seats := rest }

def State.routerGrant (s : State) (site quad out : Nat) : State :=
  if s.outBusy site quad out then s
  else
    match s.granted site quad out with
    | none => s
    | some (some i, p, a, dest) => { s with net := setAt s.net i (p.granted a out dest) }
    | some (none, p, a, dest) =>
      { s.updCore (128 * site + p.msg.src) fun k => Core.headed s.now
          { k with sendQ := k.sendQ.map fun m => if m.head.isSome && !m.sent then { m with sent := true, refused := false, head := none } else m } with
        net := s.net ++ [p.granted a out dest] }

/-- ROUTER_GRANT (R252). -/
def execRouterGrant (site quad out : Nat) (s : State) : Host.Outcome State Fault Refusal := .next (s.routerGrant site quad out)

def State.packetRoute (s : State) (i : Nat) : State :=
  match s.net[i]? with
  | none => s
  | some p =>
    match p.waits s.now with
    | none => s
    | some a =>
      match s.routeOf p a with
      | some (out, _) => s.routerGrant p.site a.quad out
      | none => s

/-- PACKET_ROUTE (R236): the packet's route names an output, which grants it if it comes first there (R252). -/
def execPacketRoute (i : Nat) (s : State) : Host.Outcome State Fault Refusal := .next (s.packetRoute i)

/-! ## Flits (R235, R252) -/

/-- A seat that a flit leaves, if any of the packet is still there or to come. -/
def Seat.left (a : Seat) : List Seat := if a.here ≤ 1 && a.due = 0 then [] else [{ a with here := a.here - 1 }]

/-- A seat that a flit reaches: with the header the packet is ready from the next cycle on. -/
def Seat.reached (a : Seat) (flits now : Nat) : Seat :=
  { a with here := a.here + 1, due := a.due - 1, ready := if a.due == flits then now + 1 else a.ready }

/-- A flit has a slot at its next seat: those of a shared pool are reserved. -/
def Seat.takes (a : Seat) (reply : Bool) : Bool :=
  match a.buf with
  | .shared => true
  | .escape _ => a.here < escapeSlots reply

/-- A flit of a packet moves from its seat `j` to the seat before, or into the eject port. -/
def NetPacket.flit (p : NetPacket) (j now : Nat) : NetPacket :=
  match p.seats[j]?, p.seats[j - 1]? with
  | some a, some b =>
    if a.out.isNone || a.here = 0 then p
    else if j = 0 then { p with seats := a.left ++ p.seats.tail, ejected := p.ejected + 1 }
    else if b.takes p.reply then
      { p with seats := p.seats.take (j - 1) ++ [b.reached p.flits now] ++ a.left ++ p.seats.drop (j + 1) }
    else p
  | _, _ => p

def State.flit (s : State) (i j : Nat) : State :=
  match s.net[i]? with
  | some p => { s with net := setAt s.net i (p.flit j s.now) }
  | none => s

/-- A reply of an endpoint enters its router's pool (R235); it is ready from the next cycle (DESIGN CHOICE, log 106). -/
def State.replyEnter (s : State) (i : Nat) : State :=
  match s.net[i]? with
  | some p =>
    (match p.seats with
    | [a] =>
      if a.port == 9 && s.entersAt p (p.msg.dst % 4) then
        { s with net := setAt s.net i { p with seats := [{ a with port := p.msg.dst % 4, ready := s.now + 1 }] } }
      else s
    | _ => s)
  | none => s

/-! ## Arrival (R242) -/

/-- The shuttle that overflow full is delivered to: the lowest of the oldest block of the context on the core that has
one not draining. -/
def State.fullTarget (s : State) (c ctx : Nat) : Option Nat :=
  ((s.residents c).filter fun e => e.2.status == .running && match s.blk? (blockOf e.1) with
    | some b => b.ctx == ctx && b.status == .resident
    | none => false).foldl (fun m e => match m with
      | none => some e.1
      | some h => if s.age e.1 < s.age h then some e.1 else some h) none

/-- Overflow full is raised, once until the context's entries fall below 48 (R242). -/
def State.raiseFull (s : State) (c : Nat) (m : Message) : State :=
  if (s.core c).raised.contains m.ctx then s
  else
    let s1 := s.updCore c fun k => { k with raised := insertNat k.raised m.ctx }
    let r : TrapRec := { cause := 0x137, addr := m.src + 2 ^ 16 * m.tag }
    match s.fullTarget c m.ctx with
    | some h => s1.defer h r
    | none => s1.defer m.h { r with ipc := m.ipc }

/-- The destination answers with an acknowledgement or a refusal. -/
def State.answer (s : State) (site : Nat) (m : Message) (refusal : Bool) : State :=
  { s with net := s.net ++ [mkPacket site 9 0 m true refusal] }

/-- The overflow queue takes a message: there is room, its context has less than 48, and no claim stands before it. -/
def Core.queues (k : Core) (m : Message) : Bool :=
  k.overflow.length < 64 && k.overflowOf m.ctx < 48 && (m.refused || k.claims.isEmpty)

/-- A claim of a source core is settled. -/
def Core.settle (k : Core) (src : Nat) : Core := { k with claims := k.claims.filter (· != src) }

/-- A message at its destination (R242). -/
def State.accept (s : State) (site : Nat) (m : Message) : State :=
  let c := 128 * site + m.dst
  let k := s.core c
  match k.recvs.findIdx? (·.accepts m) with
  | some i =>
    match k.recvs[i]? with
    | some r =>
      ((s.updCore c fun x => { x.settle m.src with recvs := dropAt x.recvs i }).deliverMessage r m).answer site m false
    | none => s
  | none =>
    if k.queues m then
      (s.updCore c fun x => { x.settle m.src with overflow := x.overflow ++ [{ m with refused := false }] }).answer site m false
    else
      ((s.updCore c fun x => { x with claims := if x.claims.contains m.src then x.claims else x.claims ++ [m.src] }).raiseFull
        c m).answer site m true

/-- An answer at the sender: an acknowledged message leaves the send queue, a refused one stays (R240). -/
def State.answered (s : State) (site : Nat) (m : Message) (refusal : Bool) : State :=
  let c := 128 * site + m.src
  match (s.core c).sendQ.findIdx? fun x => x.sent && x.dst == m.dst with
  | none => s
  | some i => s.updCore c fun k => Core.headed s.now
      { k with sendQ := if refusal then (match k.sendQ[i]? with
          | some x => setAt k.sendQ i { x with refused := true }
          | none => k.sendQ) else dropAt k.sendQ i }

def State.messageArrival (s : State) (i : Nat) : State :=
  match s.net[i]? with
  | none => s
  | some p =>
    if p.ejected < p.flits then s
    else
      let s1 := { s with net := dropAt s.net i }
      if p.reply then s1.answered p.site p.msg p.refusal else s1.accept p.site p.msg

/-- MESSAGE_ARRIVAL (R242): a message, or an answer, that an eject port has delivered. -/
def execMessageArrival (i : Nat) (s : State) : Host.Outcome State Fault Refusal := .next (s.messageArrival i)

/-! ## Claims (R240) -/

/-- The message of a source core that a destination core has refused. -/
def State.refusedOf (s : State) (c src : Nat) : Option Message :=
  (s.core (128 * (c / 128) + src)).sendQ.find? fun m => m.dst == c % 128 && m.sent && m.refused

/-- Claims whose message has been offered an entry and is on its way again: all of them, and those of a context. -/
def State.offered (s : State) (c : Nat) (ctx : Option Nat) : Nat :=
  ((s.core c).claims.filter fun src => (s.refusedOf c src).isNone && match ctx with
    | none => true
    | some x => (s.core (128 * (c / 128) + src)).sendQ.any fun m => m.dst == c % 128 && m.ctx == x).length

def State.messageResend (s : State) (c : Nat) : State :=
  let k := s.core c
  let fits (src : Nat) : Bool := match s.refusedOf c src with
    | some m => k.overflowOf m.ctx + s.offered c (some m.ctx) < 48
    | none => false
  if k.overflow.length + s.offered c none ≥ 64 then s
  else
    match k.claims.find? fits with
    | none => s
    | some src => s.updCore (128 * (c / 128) + src) fun x => Core.headed s.now
        { x with sendQ := x.sendQ.map fun m => if m.dst == c % 128 && m.sent && m.refused then { m with sent := false } else m }

/-- MESSAGE_RESEND (R240): a free entry of core `c` is offered to the refused source cores in their order. -/
def execMessageResend (c : Nat) (s : State) : Host.Outcome State Fault Refusal := .next (s.messageResend c)

def State.sendSlotAccept (s : State) (c : Nat) : State :=
  match (s.core c).sendSlots with
  | [] => s
  | m :: ms =>
    if (s.core c).sendQ.length ≥ 8 then s
    else (s.updCore c fun k => Core.headed s.now { k with sendQ := k.sendQ ++ [m], sendSlots := ms }).updSh m.h Shuttle.advance

/-- SEND_SLOT_ACCEPT (R240, R150). -/
def execSendSlotAccept (c : Nat) (s : State) : Host.Outcome State Fault Refusal := .next (s.sendSlotAccept c)

/-! ## Ranges (R247, R249) -/

def State.rangeSlotAccept (s : State) (site : Nat) : State :=
  match (s.die site).rangeSlots with
  | [] => s
  | (h, op) :: r =>
    if (s.die site).rangeQ.length ≥ 16 then s
    else (s.updDie site fun d => { d with rangeSlots := r }).applyRange site h op

/-- RANGE_SLOT_ACCEPT (R249). -/
def execRangeSlotAccept (site : Nat) (s : State) : Host.Outcome State Fault Refusal := .next (s.rangeSlotAccept site)

/-- The range unit retires its oldest served request (R249). -/
def State.rangeRetire (s : State) (site : Nat) : State := s.updDie site fun d => { d with rangeQ := d.rangeQ.tail }

/-- A partition holds a granule of a die. -/
def Part.onDie (p : Part) (site : Nat) : Bool := p.granules.any fun g => (granuleSite g).1 == site

def State.rangeClaim (s : State) (p site r cx : Nat) : State :=
  match s.part? p with
  | none => s
  | some pt =>
    if r ≥ 64 || cx ≥ 256 || !pt.onDie site || (Tab.get? (s.die site).ranges r).isSome then s
    else
      let x : Range := { part := p, ctx := some (256 * p + cx), start := 0, next := 0, stop := 0, div := 0, min := 0 }
      s.updDie site fun d => { d with ranges := Tab.set d.ranges r x }

/-- RANGE_CLAIM (R247): a free range of a die where the partition holds a granule; the supervisor allots it. What a range holds
before its first RINIT is not stated: zeros here (DESIGN CHOICE, log 107). -/
def execRangeClaim (p site r cx : Nat) (s : State) : Host.Outcome State Fault Refusal := .next (s.rangeClaim p site r cx)

/-- The supervisor allots a range that its partition holds to one of its contexts (R247); its numbers stay (DESIGN CHOICE,
log 107). -/
def State.allotRange (s : State) (site r ctx : Nat) : State :=
  s.updDie site fun d => { d with ranges := Tab.upd d.ranges r fun x => if x.part == ctx / 256 then { x with ctx := some ctx } else x }

end Sys2Proof.Machine
end

