-- ==== Sys2Proof/Machine/EvPaced.lean ====
section
/-! DEFINITION. Steps of neighbour-paced mode: entry (R226), the step notices and the advance (R227), the waits of RLD
(R229), and exit (R230). -/

namespace Sys2Proof.Machine

/-- A shuttle stands in a block operation of the mode and is not stopped at it. -/
def State.standsPaced (s : State) (h : Nat) : Bool :=
  match s.sh? h with
  | some sh => sh.wait == .paced && !sh.handler
  | none => false

/-- The block operation that shuttles stand in completes. -/
def State.releasePaced (s : State) (hs : List Nat) : State :=
  { s with shuttles := s.shuttles.map fun (h, sh) => (h, if hs.contains h then sh.advance else sh) }

/-! ## Entry -/

def State.npEntry (s : State) (c : Nat) : State :=
  let np := (s.core c).np
  match np.entering with
  | [] => s
  | h :: _ =>
    match s.blk? (blockOf h) with
    | none => s
    | some blk =>
      if np.on || !s.entryPending c || (s.blocksOn c).any (· != blockOf h) then s
      else
        match entryWith (fun _ => true) blk np.record with
        | some p => (s.setPaced c fun _ => { p with owner := some (blockOf h) }).releasePaced np.entering
        | none => s

/-- NP_ENTRY_COMPLETE (R226): a listed core that was fenced off after the check stays listed. -/
def execNpEntryComplete (c : Nat) (s : State) : Host.Outcome State Fault Refusal := .next (s.npEntry c)

/-! ## Steps -/

/-- STEP_NOTICE (R227, R250): DONE becomes visible to every core of the die. -/
def execStepNotice (c : Nat) (s : State) : Host.Outcome State Fault Refusal :=
  .next (s.setPaced c fun p => if p.on then { p with published := p.done } else p)

/-- A core of a die is in the mode and its published DONE is at least `x` (R227); a fenced core counts as not in the mode
(R226). -/
def State.hasDone (s : State) (site x core : Nat) : Bool :=
  let np := (s.core (128 * site + core)).np
  np.on && !(s.core (128 * site + core)).fenced && stepGe np.published x

/-- The conditions of R227 for the end of the present step. -/
def State.mayAdvance (s : State) (c : Nat) (np : Paced) : Bool :=
  np.on && np.announced && np.waiton.all (s.hasDone (c / 128) np.step) &&
    np.heldby.all (s.hasDone (c / 128) ((np.step + 1 + 2 ^ 32 - np.skew) % 2 ^ 32))

def State.stepAdvance (s : State) (c : Nat) : State :=
  let np := (s.core c).np
  if s.mayAdvance c np then
    let here := np.arrived.filter s.standsPaced
    let away := np.arrived.filter fun h => !s.standsPaced h
    ((s.setPaced c fun p =>
      { p with step := (p.step + 1) % 2 ^ 32, arrived := [], announced := false, passed := p.passed ++ away }).releasePaced
      here).refresh (c / 128) (c % 128) .die
  else s

/-- STEP_ADVANCE (R227): every arrived STEPDONE completes, an acquire at .die. -/
def execStepAdvance (c : Nat) (s : State) : Host.Outcome State Fault Refusal := .next (s.stepAdvance c)

/-! ## Exit -/

/-- Every shuttle of the owner that is not draining has executed NPEXIT, or the block has ended. -/
def State.allLeave (s : State) (b : Nat) (np : Paced) : Bool :=
  match s.blk? b with
  | some k => k.status == .ended || (!np.leaving.isEmpty && s.allStand b np.leaving)
  | none => true

/-- A core of a die has left the mode; a fenced one counts as not in it (R226, R230, log 27). -/
def State.hasLeft (s : State) (site core : Nat) : Bool :=
  let k := s.core (128 * site + core)
  k.fenced || (!k.np.on && k.np.left)

def State.npExit (s : State) (c : Nat) : State :=
  let np := (s.core c).np
  let served (h : Nat) : Bool := s.hasLeft (c / 128) h || s.hasDone (c / 128) np.done h
  match np.owner with
  | none => s
  | some b =>
    if np.on && s.allLeave b np && np.heldby.all served then
      (s.leaveMode c (np.passed ++ np.leaving.filter fun h => !s.standsPaced h)).releasePaced
        (np.leaving.filter s.standsPaced)
    else s

/-- NP_EXIT_COMPLETE (R230), for a block that ended in the mode too. -/
def execNpExitComplete (c : Nat) (s : State) : Host.Outcome State Fault Refusal := .next (s.npExit c)

/-! ## RLD -/

/-- A waiting RLD executes again (R229). -/
def State.rldAgain (s : State) (h : Nat) : State :=
  match s.laneWord h with
  | some (w, r, .lRld hd t d a b c off) => if r.since.isSome then laneRld hd t d a b c off s w r else s
  | _ => s

/-- RLD_WAIT_END (R229): the read, when its conditions hold. -/
def execRldWaitEnd (h : Nat) (s : State) : Host.Outcome State Fault Refusal := .next (s.rldAgain h)

def State.rldExpired (s : State) (h : Nat) : State :=
  match s.laneWord h with
  | some (w, r, .lRld hd _ _ a b c off) =>
    let bad := s.unmet w.blk (stepReads s w r hd a b c off)
    (match r.since with
    | some t0 => if t0 + 2 ^ 20 ≤ s.now && !bad.isEmpty then s.laneCheck w 0x12C bad s else s
    | none => s)
  | _ => s

/-- STEP_WAIT_EXPIRED (R229). -/
def execStepWaitExpired (h : Nat) (s : State) : Host.Outcome State Fault Refusal := .next (s.rldExpired h)

/-- A waiting RLD has learnt that a core left the mode or was lost. -/
def State.targetGone (s : State) (h : Nat) : Bool :=
  match s.sh? h with
  | some sh => (match sh.queue with | r :: _ => !r.gone.isEmpty | [] => false)
  | none => false

/-- RLD_TARGET_GONE (R229): the trap 0x123 for the threads that name the core. -/
def execRldTargetGone (h : Nat) (s : State) : Host.Outcome State Fault Refusal :=
  .next (if s.targetGone h then s.rldAgain h else s)

end Sys2Proof.Machine
end

