-- ==== Sys2Proof/Machine/EvTrap.lean ====
section
/-! DEFINITION. Steps of traps and faults: delivery (R336, R340, R342), illegal and poisoned words (R45, R337), Fatal
(R344), machine checks (R346), and fencing (R347). -/

namespace Sys2Proof.Machine

/-! ## Delivery -/

/-- A shuttle that can take a trap: its block is resident and goes on, and it runs, or drains with traps pending (R86). -/
def State.atBoundary (s : State) (h : Nat) : Option Shuttle :=
  match s.sh? h, s.blk? (blockOf h) with
  | some sh, some b =>
    if b.status == .resident && !b.stopping && b.fatal.isNone &&
        (sh.status == .running || (sh.status == .draining && !sh.deferred.isEmpty)) then some sh else none
  | _, _ => none

/-- TRAP_DELIVERY (R336, R340, R77): a lane trap, or a control trap whose earlier runs have ended. -/
def execTrapDelivery (h : Nat) (s : State) : Host.Outcome State Fault Refusal :=
  .next (match s.atBoundary h with
    | some sh => if sh.deferred.isEmpty then (s.boundary h sh).getD s else s
    | none => s)

/-- DEFERRED_TRAP_DELIVERY (R342). -/
def execDeferredTrapDelivery (h : Nat) (s : State) : Host.Outcome State Fault Refusal :=
  .next (match s.atBoundary h with
    | some sh => if sh.deferred.isEmpty then s else (s.boundary h sh).getD s
    | none => s)

/-! ## Words that trap -/

/-- ILLEGAL_INSTRUCTION (R45): the word that the shuttle has reached. -/
def execIllegalInstruction (slot : Fin 8) (s : State) : Host.Outcome State Fault Refusal :=
  onCur s fun w => s.trap w (0x140 + slot.val)

/-- The lines of the control word at a shuttle's pc. -/
def State.pcLines (s : State) (w : Who) : List Nat :=
  [w.sh.pc.toNat, w.sh.pc.toNat + 3].filterMap fun va => match s.translate w.blk.site w.blk.ctx va with
    | .page pa _ _ => some (pa / 64)
    | .serv .. | .none => none

/-- A fetch that traps (R333, R337); a line found uncorrectable is poisoned (R295). -/
def State.fetchTrap (s : State) (w : Who) (cause : Nat) : State :=
  (if cause = 0x165 then s.findBad (s.pcLines w) else s).trap w cause

/-- FETCH_POISONED (R337): the word at the shuttle's pc lies on a poisoned line; pending traps come first (R342). -/
def execFetchPoisoned (h : Nat) (s : State) : Host.Outcome State Fault Refusal :=
  .next (match s.atBoundary h, s.blk? (blockOf h) with
    | some sh, some blk =>
      let w : Who := { h := h, sh := sh, blk := blk }
      if sh.status == .running && (s.boundary h sh).isNone && s.fetchControl w == .trap 0x165 then s.fetchTrap w 0x165 else s
    | _, _ => s)

/-! ## Fatal (R344) -/

/-- The offset of the slot after one of the fatal log (R344). -/
def nextSlot (x : Nat) : Nat := if x = 32640 then 128 else x + 128

/-- A partition's fatal log is full (R344): PROD stands before CONS. -/
def State.logFull (s : State) (log : Nat) : Bool := nextSlot (s.word32 log) == s.word32 (log + 4)

/-- The record of a Fatal is written to the partition's fatal log, with Land(128) on the supervisor's b1; a full log keeps its
records and counts it in DROPPED (R344). -/
def State.logFatal (s : State) (p : Nat) (bytes : List Byte) : State :=
  match s.part? p with
  | none => s
  | some pt =>
    if s.logFull pt.log then s.hubWrite (pt.log + 8) (leBytes 4 (min 0xFFFFFFFF (s.word32 (pt.log + 8) + 1)))
    else
      let s1 := (s.hubWrite (pt.log + s.word32 pt.log) bytes).hubWrite pt.log (leBytes 4 (nextSlot (s.word32 pt.log)))
      match pt.super with
      | some b => s1.land b 1 128 (64 * b) { cause := 0 }
      | none => s1

/-- The block's posted traffic has drained (R344 step 1). -/
def State.quiet (s : State) (b c : Nat) : Bool :=
  let mine (h : Nat) : Bool := blockOf h == b
  !(s.posted.any fun p => mine p.h) && !(s.peers.any fun p => mine p.h) && !((s.core c).sendQ.any fun m => mine m.h)

def State.fatalEnd (s : State) (b : Nat) : State :=
  match s.blk? b with
  | none => s
  | some blk =>
    match blk.fatal with
    | none => s
    | some (h, r) =>
      if blk.status == .ended || !s.quiet b blk.coreKey then s
      else
        match s.sh? h with
        | some sh => (s.endBlock b true).logFatal blk.part (leBytes 128 (r.word s blk sh))
        | none => s.endBlock b true

/-- FATAL_END (R344). -/
def execFatalEnd (b : Nat) (s : State) : Host.Outcome State Fault Refusal := .next (s.fatalEnd b)

/-! ## Machine checks (R346) -/

/-- A granule of a store reads as unpredictable until it is rewritten (R151). -/
def State.spoilGranule (s : State) (b : Nat) (ws : Bool) (g : Nat) : State :=
  s.updBlk b fun k => k.setStore ws ((k.store ws).writeN (16 * g) ((range 0 16).map (Config.freeByte s.tick)))

/-- An expansion register reads as unpredictable coefficients until it is rewritten (R201). -/
def State.spoilEreg (s : State) (b : Nat) (e : Fin 32) : State :=
  s.updBlk b fun k => { k with eregs := k.eregs.set e { k.eregs.get e with
    coef := Vector.ofFn fun i => (Config.freeWord s.tick (2 * i.val), Config.freeWord s.tick (2 * i.val + 1)) } }

/-- A read of a local store: the block and which of its stores, the range, and the thread that reads. -/
structure LocalRead where
  block : Nat
  ws : Bool
  off : Nat
  len : Nat
  thread : Nat

/-- The granules that a read touches, each with its store. -/
def LocalRead.places (x : LocalRead) : List (Nat × Bool × Nat) := (granules x.off x.len).map fun g => (x.block, x.ws, g)

/-- The reads that threads make of a space at their offsets; global memory is no local store. -/
def State.spaceReads (s : State) (w : Who) (sp : LSpace) (n : Nat) (ts : List (Nat × Nat)) : List LocalRead :=
  let from_ (b : Nat) (ws : Bool) : List LocalRead := ts.map fun e => { block := b, ws := ws, off := e.2, len := n, thread := e.1 }
  match sp with
  | .g => []
  | .a => from_ w.b false
  | .w => from_ w.b true
  | .peer p => (match s.window w.blk w.b p.val with | some m => from_ m.block false | none => [])

/-- The reads of local stores that a lane instruction makes (R153, R211, R222, R229, R290). -/
def State.laneReads (s : State) (w : Who) (r : Run) (i : Instr) : List LocalRead :=
  let at_ (hd : Head) (a : LSrc) (off : W32) : List (Nat × Nat) := forThreads (threadsOf (guardOf w.sh hd)) (localOff s w r a off)
  match i with
  | .lLd hd t mc _ a off => s.spaceReads w mc.space (mSize t) (s.wfOffsets w r { hd := hd, t := t, mc := mc, a := a, off := off })
  | .lLdw hd t _ _ _ a off => s.spaceReads w .w (mSize t) (at_ hd a off)
  | .lAmo hd _ _ sp _ a _ off => s.spaceReads w sp 4 (at_ hd a off)
  | .lAmo3 hd _ _ sp _ _ a _ _ => s.spaceReads w sp 4 (at_ hd a 0)
  | .lXnear hd a _ off => s.spaceReads w .a 16 (at_ hd a off)
  | .lRld hd t _ a b c off => (stepReads s w r hd a b c off).flatMap fun x =>
      let np := s.npOf w.blk x.core
      (match np.owner with
      | some o => [{ block := o, ws := false, off := np.bufbase + x.step % np.depth * np.buflen + x.off, len := mSize t, thread := x.t }]
      | none => [])
  | _ => []

/-- The reads of the A store that a control instruction makes (R127, R169, R182, R207, R239). -/
def controlReads (w : Who) (i : Instr) : List LocalRead :=
  let from_ (off len : Nat) : List LocalRead := [{ block := w.b, ws := false, off := off, len := len, thread := 0 }]
  let reg (a : SReg) : Nat := (w.sh.readS a).toNat
  match i with
  | .ldsA _ a wide k => from_ (scalarAddr w.sh a k % 2 ^ 32) (aSize wide)
  | .cmovAToC _ a => from_ (reg a) 4096
  | .xld _ a true => from_ (reg a % 2 ^ 32) 272
  | .cpyg _ _ b _ => from_ (16 * bitsOf (reg b) 13 0) (4 * bitsOf (reg b) 25 14)
  | .send a b => from_ (reg a) (bitsOf (reg b) 47 40)
  | _ => []

/-- The expansion registers whose coefficients an instruction reads (R197, R202, R206). -/
def readsEreg (sh : Shuttle) (i : Instr) : List (Fin 32) :=
  match i with
  | .xshift d e _ | .xm2l d e _ | .xl2l d e _ => [e, d]
  | .xst e _ _ | .lXform _ e _ _ _ _ | .lXeval _ _ e _ _ _ => [e]
  | .xadm _ a _ => [Fin.ofNat 32 (sh.readS a).toNat, Fin.ofNat 32 ((sh.readS a).toNat / 256)]
  | _ => []

/-- The meaning of an instruction that reads a local store or an expansion register. -/
def readingWord (i : Instr) : Option (State → Host.Outcome State Fault Refusal) :=
  match i with
  | .lLd hd t mc d a off => some (execLLd hd t mc d a off)
  | .lLdw hd t wf clr d a off => some (execLLdw hd t wf clr d a off)
  | .lAmo hd f sg sp d a b off => some (execLAmo hd f sg sp d a b off)
  | .lAmo3 hd f sg sp res d a b c => some (execLAmo3 hd f sg sp res d a b c)
  | .lRld hd t d a b c off => some (execLRld hd t d a b c off)
  | .lXnear hd a b off => some (execLXnear hd a b off)
  | .lXform hd e o a b c => some (execLXform hd e o a b c)
  | .lXeval hd d e o a b => some (execLXeval hd d e o a b)
  | .ldsA d a wide k => some (execLdsA d a wide k)
  | .cmovAToC c a => some (execCmovAToC c a)
  | .cpyg d a b m => some (execCpyg d a b m)
  | .send a b => some (execSend a b)
  | .xld e a l => some (execXld e a l)
  | .xst e a l => some (execXst e a l)
  | .xadm k a b => some (execXadm k a b)
  | .xshift d e o => some (execXshift d e o)
  | .xm2l d e o => some (execXm2l d e o)
  | .xl2l d e o => some (execXl2l d e o)
  | _ => none

/-- The shuttle's instruction would complete: none of its own checks fails, and it waits for nothing (R338). -/
def State.wouldComplete (s : State) (h : Nat) (lane : Bool) (i : Instr) : Bool :=
  match readingWord i, s.sh? h with
  | some k, some x =>
    (match k { s with cur := some h } with
    | .next t =>
      (match t.sh? h with
      | some y =>
        if lane then (match x.queue, y.queue with | q :: _, r :: _ => r.off == q.off + 1 | _, _ => false)
        else y.handler == x.handler && y.pc == x.pc + 4
      | none => false)
    | .fault _ | .refused _ => false)
  | _, _ => false

/-- The place that an error strikes, among those that are read (log 52). -/
def State.struck {α : Type} (s : State) (l : List α) : Option α := l[Config.freeChoice s.tick 13 % l.length]?

/-- The core of a block. -/
def State.coreOf (s : State) (b : Nat) : Option Nat := (s.blk? b).map (·.coreKey)

/-- An uncorrectable error in a granule of a store that the shuttle's next lane or control word reads: the word makes every
check of its own first (R338), then the threads whose reads hit the granule trap with 0x1C5 (R151). With it comes the core
whose store is struck. -/
def State.storeError (s : State) (w : Who) : Option (State × Nat) :=
  let hit (rs : List LocalRead) : Option ((Nat × Bool × Nat) × List LocalRead) :=
    (s.struck (rs.flatMap LocalRead.places)).map fun p => (p, rs.filter (·.places.contains p))
  let spoilt (p : Nat × Bool × Nat) : State := s.spoilGranule p.1 p.2.1 p.2.2
  let lane : Option (State × Nat) :=
    match s.laneWord w.h with
    | some (lw, r, i) =>
      (match hit (s.laneReads lw r i) with
      | some (p, x :: xs) =>
        if s.wouldComplete w.h true i then
          (s.coreOf p.1).map fun c => ((spoilt p).laneTrap w.h 0x1C5 (maskOf ((x :: xs).map (·.thread))) x.off, c)
        else none
      | _ => none)
    | none => none
  lane.orElse fun _ =>
    match s.wordAt w w.sh.pc.toNat with
    | some i =>
      (match hit (controlReads w i) with
      | some (p, x :: _) =>
        if (s.boundary w.h w.sh).isNone && s.wouldComplete w.h false i then
          some ((spoilt p).raise w { cause := 0x1C5, tmask := 1, addr := x.off }, w.coreKey)
        else none
      | _ => none)
    | none => none

/-- The reads of local stores that a shuttle's commands and matrix operations make. -/
def State.engineReads (s : State) (h : Nat) (blk : Block) : List LocalRead :=
  let k := s.core blk.coreKey
  let from_ (b : Nat) (ws : Bool) (off len : Nat) : LocalRead := { block := b, ws := ws, off := off, len := len, thread := 0 }
  ((k.copyQ.filter fun c => c.h == h && c.inFlight).flatMap fun c => match c.src with
    | .a => [from_ c.block false c.srcAddr c.len]
    | .w => [from_ c.block true c.srcAddr c.len]
    | .peer b _ => [from_ b false c.srcAddr c.len]
    | .g => []) ++
  ((k.matQ.filter (·.h == h)).flatMap fun o =>
    (if o.a.tensor then [] else [from_ o.block false (opOffset o.a.word) (opBytes o.fmt (entryScale o.a.entry))]) ++
      if o.b.tensor then [] else [from_ o.block true (opOffset o.b.word) (opBytes o.fmt (entryScale o.b.entry))])

/-- An uncorrectable error that one of the shuttle's engine reads finds: no instruction reads the granule, and none traps
(R346; DESIGN CHOICE, log 52). -/
def State.engineError (s : State) (w : Who) : Option (State × Nat) :=
  match s.struck ((s.engineReads w.h w.blk).flatMap LocalRead.places) with
  | some (b, ws, g) => (s.coreOf b).map fun c => (s.spoilGranule b ws g, c)
  | none => none

/-- An uncorrectable error in an expansion register that the shuttle's next word reads: the word makes every check of its own
first (R338), then 0x1C6 names the register, and the register reads unpredictable coefficients until it is rewritten (R215). A
lane trap names the threads that the guard selects (DESIGN CHOICE, log 104). -/
def State.eregError (s : State) (w : Who) : Option (State × Nat) :=
  let lane : Option (State × Nat) :=
    match s.laneWord w.h with
    | some (lw, _, i) =>
      let g : Nat := match i with | .lXform hd .. | .lXeval hd .. => (guardOf lw.sh hd).toNat | _ => 0
      (match s.struck (readsEreg lw.sh i) with
      | some e =>
        if g != 0 && s.wouldComplete w.h true i then
          some (((s.spoilEreg (blockOf w.h) e).laneTrap w.h 0x1C6 g 0).updSh w.h fun sh =>
            { sh with laneTrap := sh.laneTrap.map fun r => { r with tile := some e.val } }, w.coreKey)
        else none
      | none => none)
    | none => none
  lane.orElse fun _ =>
    match s.wordAt w w.sh.pc.toNat with
    | some i =>
      (match s.struck (readsEreg w.sh i) with
      | some e =>
        if (s.boundary w.h w.sh).isNone && s.wouldComplete w.h false i then
          some ((s.spoilEreg (blockOf w.h) e).raise w { cause := 0x1C6, tile := some e.val }, w.coreKey)
        else none
      | none => none)
    | none => none

/-- The quad and core of the error log for a whole site. -/
def State.logSite (s : State) (repl : Bool) (site cause : Nat) : State := s.logEvent repl site 0xFF 0x7F cause

/-- Every block of a list ends with a Fatal of a cause; the records name the lost site (R346). -/
def State.loseBlocks (s : State) (cause : Nat) (lost : Option Nat) (bs : List Nat) : State :=
  bs.foldl (fun x b => x.fatalTrap (64 * b) cause { cause := cause, lostSite := lost }) s

/-- The queues of a core whose die failed: messages in flight are lost (R251). -/
def Core.noMessages (k : Core) : Core := { k with sendQ := [], sendSlots := [], overflow := [], claims := [], raised := [] }

/-- A compute die is lost with the blocks that stand on it and with the messages on it; images in shadow storage are kept
(R251, R307, R346). -/
def State.loseSite (s : State) (site : Nat) : State :=
  State.loseBlocks { s.updDie site fun d => { d with fenced := true, joined := false } with
    net := s.net.filter (·.site != site)
    cores := s.cores.map fun (c, k) => (c, if c / 128 == site then k.noMessages else k) } 0x1D8 (some site)
    ((s.blocks.filter fun e => e.2.site == site && e.2.holds).map (·.1))

/-- 0x1D0 goes to the management plane; when a reserve runs short the partitions concerned are halted (R296). -/
def State.exhausted (s : State) (hub : Nat) : State :=
  (State.reserveShort { s with compress := { s.compress with hold := true } }).logSite false (12 + hub) 0x1D0

/-- An error in the hub's copy of a block's image or translation; the damaged translations are discarded, and every block
inside one of them ends (R347). -/
def State.hubError (s : State) (b : Nat) : State :=
  let hub := 12 + match s.blk? b with | some k => hubOf k.site | none => 0
  let hit (t : Translation) : Bool := t.inside.any fun h => blockOf h == b
  let bs := (s.trans.filter hit).foldl (fun l t => t.inside.foldl (fun l h => insertNat l (blockOf h)) l) [b]
  (State.loseBlocks { s with trans := s.trans.filter (!hit ·) } 0x1E8 (some hub) bs).logSite true hub 0x1E8

/-! ## Fencing (R347) -/

/-- Every block that takes space on cores begins to leave, with those that go with it. -/
def State.emptyCores (s : State) (hit : Block → Bool) : State :=
  ((s.blocks.filter fun e => e.2.holds && hit e.2).map (·.1)).foldl (fun x b => x.stopBlocks (s.together true b) Block.leaves) s

/-- A quad is fenced off: no gang of PLACE 1 and no group uses it, and those that stand there leave. -/
def State.fenceQuad (s : State) (site quad cause : Nat) : State :=
  let uses (b : Nat) (k : Block) : Bool := k.quadKey == 32 * site + quad && ((s.groupOf k.quadKey b).isSome ||
    match s.launch? k.launch with | some l => l.place == 1 | none => false)
  let bs := (s.blocks.filter fun e => e.2.holds && uses e.1 e.2).map (·.1)
  (bs.foldl (fun x b => x.stopBlocks (x.together true b) Block.leaves)
    (s.updQuad (32 * site + quad) fun q => { q with fenced := true })).logEvent true site quad 0x7F cause

/-- A unit that failed with its blocks enters 0x1D8 in the error log beside the cause of its fencing (R346, R347). -/
def State.logLost (s : State) (site quad core cause : Nat) : State :=
  if cause = 0x1D8 then s else s.logEvent false site quad core 0x1D8

/-- A die is fenced off: by failure it loses its blocks, otherwise it is emptied. -/
def State.fenceDie (s : State) (site : Nat) (hard : Bool) (cause : Nat) : State :=
  (if hard then (s.loseSite site).logLost site 0xFF 0x7F cause
    else (s.updDie site fun d => { d with fenced := true }).emptyCores fun b => b.site == site).logSite true site cause

/-- Fenced cores among those of a list. -/
def State.fencedOf (s : State) (cs : List Nat) : Nat := (cs.filter fun c => (s.core c).fenced).length

/-- A quad with two fenced cores is fenced, and a die with more than a quarter of its cores fenced. -/
def State.fenceMore (s : State) (site quad cause : Nat) : State :=
  let s1 := if s.fencedOf (quadCores site quad) ≥ 2 && !(s.quad (32 * site + quad)).fenced then s.fenceQuad site quad cause else s
  let many : Bool := decide (4 * s.fencedOf ((range 0 (Config.cores site)).map fun i => 128 * site + i) > Config.cores site)
  if many && !(s.die site).fenced then s1.fenceDie site false cause else s1

/-- A core is fenced off: one that failed loses its blocks, another is emptied. -/
def State.fenceCore (s : State) (site core : Nat) (hard : Bool) (cause : Nat) : State :=
  let on (b : Block) : Bool := b.site == site && b.core == core
  let s1 := s.updCore (128 * site + core) fun c => { c with fenced := true }
  let s2 := if hard then
      (s1.loseBlocks 0x1D8 none ((s.blocks.filter fun e => e.2.holds && on e.2).map (·.1))).logLost site (core / 4) core cause
    else s1.emptyCores on
  (s2.logEvent true site (core / 4) core cause).fenceMore site (core / 4) cause

/-- The errors of a core in the last 24 hours pass a threshold: more than 4096 corrected, or 2 uncorrectable. -/
def State.failing (s : State) (c : Nat) : Bool :=
  let recent := (s.core c).errors.filter fun e => decide (s.now ≤ e.1 + s.micros 86400000000)
  decide ((recent.filter fun e => !e.2).length > 4096) || decide ((recent.filter (·.2)).length ≥ 2)

/-- An error of a core's stores or registers is counted; past a threshold the core is fenced off (R151, R347). -/
def State.countError (s : State) (c : Nat) (uncorr : Bool) (cause : Nat) : State :=
  let s1 := s.updCore c fun k =>
    { k with errors := k.errors ++ [(s.now, uncorr)]
             corrected := if uncorr then k.corrected else k.corrected + 1
             uncorrected := if uncorr then k.uncorrected + 1 else k.uncorrected }
  if s1.failing c && !(s.core c).fenced then s1.fenceCore (c / 128) (c % 128) false cause else s1

/-- A corrected soft error is counted (R151). -/
def State.correctError (s : State) (core : Nat) : State := s.countError core false s.openCause

def State.softError (s : State) (h : Nat) (expansion : Bool) : State :=
  match s.atBoundary h, s.blk? (blockOf h) with
  | some sh, some blk =>
    let w : Who := { h := h, sh := sh, blk := blk }
    let cause := if expansion then 0x1C6 else 0x1C5
    if sh.status != .running then s
    else
      match if expansion then s.eregError w else (s.storeError w).orElse fun _ => s.engineError w with
      | some (x, c) => (x.logEvent false (c / 128) (c % 128 / 4) (c % 128) cause).countError c true cause
      | none => s
  | _, _ => s

/-- MACHINE_CHECK (R346). -/
def execMachineCheck (e : MachineEvent) (s : State) : Host.Outcome State Fault Refusal :=
  .next (match e with
    | .coreSoftError h x => s.softError h x
    | .siteLost site => (s.loseSite site).logSite true site 0x1D8
    | .hubState b => s.hubError b
    | .compressedExhausted hub => s.exhausted hub)

/-- FENCE_UNIT (R347): a unit that still works is emptied by pre-emption, a failed one loses its blocks. -/
def execFenceUnit (u : FenceTarget) (cause : Nat) (s : State) : Host.Outcome State Fault Refusal :=
  .next (match u with
    | .core site core hard => s.fenceCore site core hard cause
    | .quad site quad => s.fenceQuad site quad cause
    | .die site hard => s.fenceDie site hard cause
    | .frame pa =>
      State.logSite { s with
        retired := insertNat s.retired (pa / 65536 * 65536)
        parts := s.parts.map fun (p, x) => (p, { x with frames := x.frames.filter (· != pa / 65536 * 65536) }) }
        true (12 + pa / 4096 % 2) cause
    | .port n => s.fencePort n cause)

end Sys2Proof.Machine
end

