-- ==== Sys2Proof/Machine/Loader.lean ====
section
/-! DEFINITION. Loading a code object (R353 to R359): the file's header and section table, its symbols and relocations, the
image at its base, and what the context knows of it afterwards. A rejected object leaves nothing loaded. -/

namespace Sys2Proof.Machine

/-! ## The file (R353, R354) -/

/-- A number of `n` bytes of a file. -/
def fileNat (f : List Byte) (off n : Nat) : Nat := leNat ((f.drop off).take n)

/-- A section: its file offset, its size and its image offset. -/
structure Section where
  foff : Nat
  size : Nat
  voff : Nat
  deriving DecidableEq, Repr

/-- Entry `i` of the section table: .ctl, .lane, .const, .tensor, .got, .sym, .reloc. -/
def sectionAt (f : List Byte) (i : Nat) : Section :=
  { foff := fileNat f (64 + 16 * i) 4, size := fileNat f (68 + 16 * i) 4, voff := fileNat f (72 + 16 * i) 4 }

/-- IMAGE and NKERN of the header. -/
def imageLen (f : List Byte) : Nat := fileNat f 16 4
def kernels (f : List Byte) : Nat := fileNat f 20 4

/-- The first five sections stand on 64-byte boundaries of the image, in table order. -/
def laidOut (f : List Byte) : Bool :=
  (range 0 5).all fun i =>
    let x := sectionAt f i
    x.voff % 64 == 0 && x.voff + x.size ≤ (if i = 4 then imageLen f else (sectionAt f (i + 1)).voff)

/-- The header and the section table keep to R353: they are there, and the sections' bytes stand behind them. -/
def headerOk (f : List Byte) : Bool :=
  176 ≤ f.length && fileNat f 0 2 == 7 && fileNat f 2 2 == 1 && fileNat f 4 4 == 0x47444F43 && fileNat f 8 8 < 2 ^ 57 &&
    fileNat f 8 8 % 65536 == 0 && fileNat f 0x18 40 == 0 &&
    ((range 0 7).all fun i => fileNat f (76 + 16 * i) 4 == 0 && 176 ≤ (sectionAt f i).foff &&
      (sectionAt f i).foff + (sectionAt f i).size ≤ f.length) &&
    (sectionAt f 5).voff == 0 && (sectionAt f 6).voff == 0 && laidOut f && 64 * kernels f ≤ (sectionAt f 2).size

/-- Descriptor `i` as the file holds it (R354). -/
def descAt (f : List Byte) (i : Nat) : Nat := fileNat f ((sectionAt f 2).foff + 64 * i) 64
/-- LANEBASE and LANELEN of a descriptor. -/
def laneBase (d : Nat) : Nat := bitsOf d 95 64
def laneCount (d : Nat) : Nat := bitsOf d 127 96

/-- The values of a descriptor are such as the kernel's directives give (R23, R354). -/
def directivesOk (k : Kern) : Bool :=
  1 ≤ k.init && k.init ≤ k.peak && k.peak ≤ 256 && 1 ≤ k.shuttles && k.shuttles ≤ 64 && k.ctiles ≤ 32 &&
    k.astore % 16 == 0 && k.wstore % 16 == 0

/-- Every descriptor keeps to R354: its reserved fields are zero, its values are a kernel's, and its lane words lie in .lane. -/
def descsOk (f : List Byte) : Bool :=
  (range 0 (kernels f)).all fun i =>
    let d := descAt f i
    !kernBad d && directivesOk (kernOf 0 d) && 12 * (laneBase d + laneCount d) ≤ (sectionAt f 1).size

/-! ## Symbols (R355) -/

/-- A symbol table entry. -/
structure Symbol where
  value : Nat
  name : Nat
  kind : Nat
  bind : Nat
  rz : Nat
  deriving DecidableEq, Repr

def symbolAt (f : List Byte) (i : Nat) : Symbol :=
  let e := fileNat f ((sectionAt f 5).foff + 16 * i) 16
  { value := bitsOf e 127 64, name := bitsOf e 63 32, kind := bitsOf e 31 24, bind := bitsOf e 23 16, rz := bitsOf e 15 0 }

/-- How many entries stand before the names: an entry exists while it lies before every name that the entries up to it
give. DESIGN CHOICE (log 91). -/
def symbolCount (f : List Byte) (i least : Nat) : Nat → Nat
  | 0 => i
  | n + 1 =>
    let least' := min least (symbolAt f i).name
    if 16 * (i + 1) ≤ least' then symbolCount f (i + 1) least' n else i

def symbols (f : List Byte) : List Symbol :=
  (range 0 (symbolCount f 0 (sectionAt f 5).size ((sectionAt f 5).size / 16))).map (symbolAt f)

/-- The NUL-terminated name of a symbol. -/
def symbolName (f : List Byte) (y : Symbol) : List Byte :=
  ((f.drop ((sectionAt f 5).foff + y.name)).take ((sectionAt f 5).size - y.name)).takeWhile (· != 0)

/-- S, the address of a symbol: an undefined one resolves against the global symbols of the context's objects. -/
def State.symbolAddr (s : State) (ctx base : Nat) (f : List Byte) (y : Symbol) : Option Nat :=
  if y.rz != 0 || y.bind > 1 || y.kind > 6 then none
  else if y.kind = 6 then some y.value
  else if y.kind = 0 then
    ((s.objs.filter fun o => o.ctx == ctx).flatMap (·.globals)).findSome? fun g =>
      if g.1 == symbolName f y then some g.2 else none
  else some (base + (sectionAt f (y.kind - 1)).voff + y.value)

/-- The addresses of all symbols, when each can be resolved. -/
def State.resolve (s : State) (ctx base : Nat) (f : List Byte) : Option (List Nat) :=
  (symbols f).mapM (s.symbolAddr ctx base f)

/-! ## Relocations (R356 to R358) -/

/-- A relocation: the image offset of the patched word, its type, the symbol's index and the addend. -/
structure Reloc where
  offset : Nat
  type : Nat
  symbol : Nat
  addend : Int
  deriving DecidableEq, Repr

def relocAt (f : List Byte) (i : Nat) : Reloc :=
  let e := fileNat f ((sectionAt f 6).foff + 16 * i) 16
  { offset := bitsOf e 31 0, type := bitsOf e 39 32, symbol := bitsOf e 63 40, addend := toSigned 64 (bitsOf e 127 64) }

def relocs (f : List Byte) : List Reloc := (range 0 ((sectionAt f 6).size / 16)).map (relocAt f)

/-- What a relocation is computed from: the base, the file, the symbols' addresses, the image before any patch. -/
structure Linking where
  base : Nat
  file : List Byte
  addrs : List Nat
  image : List Byte

/-- An offset of `n` bytes lies in a section of the image. -/
def Section.holds (x : Section) (off n : Nat) : Bool := x.voff ≤ off && off + n ≤ x.voff + x.size

/-- The control word at an image offset, if the offset is that of one. -/
def Linking.ctlWord (l : Linking) (off : Nat) : Option Nat :=
  if (sectionAt l.file 0).holds off 4 && off % 4 == 0 then some (leNat ((l.image.drop off).take 4)) else none

/-- S of a relocation, and S + A. -/
def Linking.symbol (l : Linking) (r : Reloc) : Option Int := (l.addrs[r.symbol]?).map fun s => (s : Int)
def Linking.target (l : Linking) (r : Reloc) : Option Int := (l.addrs[r.symbol]?).map fun s => (s : Int) + r.addend

/-- G: the .got entry with an ABS64 relocation to the same symbol and addend (R356). -/
def Linking.gotEntry (l : Linking) (r : Reloc) : Option Int :=
  ((relocs l.file).find? fun q => q.type == 1 && q.symbol == r.symbol && q.addend == r.addend &&
    (sectionAt l.file 4).holds q.offset 8).map fun q => (l.base : Int) + q.offset

/-- V of a relocation that opens a pair: HI20 on LUI or APC, GOT20 on APC. -/
def Linking.openValue (l : Linking) (r : Reloc) : Option Int :=
  match l.ctlWord r.offset, r.type with
  | some w, 2 =>
    if w / 2 ^ 26 = 0x06 then l.target r
    else if w / 2 ^ 26 = 0x07 then (l.target r).map fun t => t - (l.base + r.offset : Nat) else none
  | some w, 4 => if w / 2 ^ 26 = 0x07 then (l.gotEntry r).map fun g => g - (l.base + r.offset : Nat) else none
  | _, _ => none

/-- The upper part of V, when it fits its 20 bits. -/
def upper (v : Int) : Option Int :=
  let u := (v + 0x800) / 4096
  if -2 ^ 19 ≤ u && u < 2 ^ 19 then some u else none

/-- The entry that opens the pair of a LO12 or a GOT12: it stands one word before, with the same symbol and addend (R358). -/
def Linking.partner (l : Linking) (r : Reloc) : Option Reloc :=
  (relocs l.file).find? fun q => q.type + 1 == r.type && q.offset + 4 == r.offset && q.symbol == r.symbol && q.addend == r.addend

/-- The first lane word of the kernel whose lane range holds an address (R357). -/
def Linking.kernelLane (l : Linking) (t : Int) : Option Int :=
  let lo : Int := (l.base + (sectionAt l.file 1).voff : Nat)
  ((range 0 (kernels l.file)).map (descAt l.file)).findSome? fun d =>
    let k := lo + 12 * laneBase d
    if k ≤ t && t < k + 12 * laneCount d then some k else none

/-- A word with a field of its low bits replaced. -/
def putLow (w bits : Nat) (v : Int) : Nat := w / 2 ^ bits * 2 ^ bits + (v % 2 ^ bits).toNat

/-- A patch: the image offset and the bytes. -/
abbrev Patch := Nat × List Byte

/-- A patched control word. -/
def ctlPatch (off w bits : Nat) (v : Int) : Patch := (off, leBytes 4 (putLow w bits v))

/-- A LO12 word (R357): ADD of immediates, or an access of majors 0x10 to 0x13; a GOT12 word: LDS.b64. -/
def takesLow (type w : Nat) : Bool :=
  let major := w / 2 ^ 26
  let sub := bitsOf w 13 12
  if type = 3 then (major == 0x02 && sub == 0) || (0x10 ≤ major && major ≤ 0x13) else major == 0x10 && sub == 3

/-- The patch of a relocation, unless R357 or R358 rejects it. -/
def Linking.patch (l : Linking) (r : Reloc) : Option Patch :=
  let lane : Int := (l.base + (sectionAt l.file 1).voff : Nat)
  let inData (n : Nat) : Bool := (range 2 3).any fun i => (sectionAt l.file i).holds r.offset n
  match r.type, l.target r, l.ctlWord r.offset with
  | 1, some t, _ => if 0 ≤ t && t < 2 ^ 57 && inData 8 then some (r.offset, leBytes 8 t.toNat) else none
  | 2, some _, some w | 4, some _, some w => ((l.openValue r).bind upper).map fun u => ctlPatch r.offset w 20 u
  | 3, some _, some w | 5, some _, some w =>
    if takesLow r.type w then
      ((l.partner r).bind l.openValue).bind fun v => (upper v).map fun u => ctlPatch r.offset w 12 (v - 4096 * u)
    else none
  | 6, some t, some w =>
    ((l.symbol r).bind l.kernelLane).bind fun k =>
      if w / 2 ^ 26 = 0x0C && (t - k) % 12 = 0 && (t - k) / 12 < 2 ^ 20 then some (ctlPatch r.offset w 20 ((t - k) / 12)) else none
  | 7, some t, some w =>
    let d := t - (l.base + r.offset : Nat)
    let ctl := sectionAt l.file 0
    if (w / 2 ^ 26 = 0x08 || w / 2 ^ 26 = 0x09) && d % 4 = 0 && -2 ^ 21 ≤ d / 4 && d / 4 < 2 ^ 21 &&
        (l.base + ctl.voff : Nat) ≤ t && t < (l.base + ctl.voff + ctl.size : Nat) then some (ctlPatch r.offset w 22 (d / 4))
    else none
  | 8, some t, _ =>
    if 0 ≤ t - lane && (t - lane) % 12 = 0 && (t - lane) / 12 < 2 ^ 32 && inData 4 then
      some (r.offset, leBytes 4 ((t - lane) / 12).toNat)
    else none
  | _, _, _ => none

/-! ## The image (R359) -/

/-- The image as the file holds it: the first five sections at their offsets, zeros between them. -/
def fileImage (f : List Byte) : List Byte :=
  (range 0 5).foldl (fun img i =>
    let x := sectionAt f i
    img ++ List.replicate (x.voff - img.length) 0 ++ (f.drop x.foff).take x.size) [] ++
  List.replicate (imageLen f - ((sectionAt f 4).voff + (sectionAt f 4).size)) 0

/-- Bytes put into an image. -/
def putBytes (img : List Byte) (p : Patch) : List Byte := img.take p.1 ++ p.2 ++ img.drop (p.1 + p.2.length)

/-- The object's image at a base, every relocation applied (R359 steps 1 to 3). -/
def State.linked (s : State) (ctx base : Nat) (f : List Byte) : Option (List Byte) :=
  if !headerOk f || !descsOk f || base % 64 != 0 || base + imageLen f > 2 ^ 57 then none
  else
    (s.resolve ctx base f).bind fun addrs =>
      let l : Linking := { base := base, file := f, addrs := addrs, image := fileImage f }
      ((relocs f).mapM l.patch).map fun ps => ps.foldl putBytes l.image

/-- What the context knows of the object. -/
def codeObj (ctx base : Nat) (f : List Byte) (addrs : List Nat) : CodeObj :=
  { ctx := ctx, ctlLo := base + (sectionAt f 0).voff, ctlLen := (sectionAt f 0).size, laneLo := base + (sectionAt f 1).voff,
    laneLen := (sectionAt f 1).size,
    descs := (range 0 (kernels f)).map fun i => base + (sectionAt f 2).voff + 64 * i,
    globals := ((symbols f).zip addrs).filterMap fun (y, a) => if y.bind == 1 && y.kind != 0 then some (symbolName f y, a) else none }

/-- The pages of an image that the hub can serve. -/
def State.servPages (s : State) (ctx base n : Nat) : List Nat :=
  (range (base / 65536) ((base + n + 65535) / 65536 - base / 65536)).filter fun p => match s.walkPage ctx p with
    | .serv .. => true
    | .page .. | .none => false

/-- The image's cells with their virtual addresses, when every page is there. -/
def State.imageCells (s : State) (ctx base : Nat) (img : List Byte) : Option (List (Nat × Host.Cell)) :=
  img.zipIdx.mapM fun (b, i) => match s.walkOf ctx (base + i) with
    | .page pa _ _ => some (base + i, pa, b)
    | .serv .. | .none => none

/-- The lines of a range of virtual addresses are code: what fetches may find in them is kept from now on (R313). -/
def State.codeLines (s : State) (ctx lo len : Nat) : State :=
  let lines := (range (lo / 64) ((lo + len + 63) / 64 - lo / 64)).filterMap fun v => match s.walkOf ctx (64 * v) with
    | .page pa _ _ => some (v, pa / 64)
    | .serv .. | .none => none
  { s with code := lines.foldl (fun t e =>
      Tab.set t e.2 { ctx := ctx, va := e.1, held := [(0, s.mem.readN (64 * e.2) 64)] }) s.code }

/-- The page of an address of a context is compressed (R296). -/
def State.hubComp (s : State) (ctx va : Nat) : Bool :=
  match s.walkOf ctx va with
  | .page _ _ c => c
  | .serv .. | .none => false

/-- The image written, performed at .pkg, and ICINV.pkg over .ctl and .lane (R359 steps 4 and 5). -/
def State.install (s : State) (o : CodeObj) (cells : List (Nat × Host.Cell)) : State :=
  let s1 := (intoLines cells).foldl (fun x e => x.agentWrite e.1 e.2.2 (s.hubComp o.ctx e.2.1)) s
  let s2 := (s1.codeLines o.ctx o.ctlLo o.ctlLen).codeLines o.ctx o.laneLo o.laneLen
  let s3 := (s2.icinvRange o.ctx o.ctlLo (o.ctlLo + o.ctlLen) none).icinvRange o.ctx o.laneLo (o.laneLo + o.laneLen) none
  { s3 with objs := s3.objs ++ [o] }

/-- The load waits while its pages are served, as the loader's stores do (R282), and is made again. -/
def State.awaitLoad (s : State) (ctx base : Nat) (f : List Byte) (pages : List Nat) : State :=
  let x := s.request 12 ctx pages
  if x.faults == s.faults then s
  else { x with agenda := x.agenda ++ List.replicate pages.length (.event .faultService) ++ [.load ctx base f] }

/-- A code object is loaded into a context at a base (R359); a rejected one leaves nothing. -/
def State.loadObj (s : State) (ctx base : Nat) (f : List Byte) : State :=
  match s.linked ctx base f, s.resolve ctx base f with
  | some img, some addrs =>
    (match s.servPages ctx base img.length, s.imageCells ctx base img with
    | [], some cells => s.install (codeObj ctx base f addrs) cells
    | [], none => s
    | p :: ps, _ => s.awaitLoad ctx base f (p :: ps))
  | _, _ => s

/-- An object is unloaded when no launch that names its descriptors is queued or running (R359). -/
def State.unload (s : State) (i : Nat) : State :=
  match s.objs[i]? with
  | none => s
  | some o =>
    if s.launches.any fun e => e.2.ctx == o.ctx && !e.2.complete && o.descs.contains e.2.desc then s
    else { s with
      objs := dropAt s.objs i
      code := s.code.filter fun e => !(e.2.ctx == o.ctx &&
        ((o.ctlLo < 64 * (e.2.va + 1) && 64 * e.2.va < o.ctlLo + o.ctlLen) ||
          (o.laneLo < 64 * (e.2.va + 1) && 64 * e.2.va < o.laneLo + o.laneLen))) }

end Sys2Proof.Machine
end

