-- ==== Sys2Proof/Machine/EvHost.lean ====
section
/-! DEFINITION. The host and the management plane: dies (R305, R307), contexts (R145, R317), the command window (R318),
BAR2 and the mailbox (R372 to R376), power and telemetry (R377, R378), and bring-up (R375). -/

namespace Sys2Proof.Machine

/-! ## Dies -/

/-- A die that enters negotiation holds nothing stale (R307). -/
def Die.emptied (d : Die) : Die := { d with tlb := [], cache := [], coreCache := [] }

/-- Cores that failed their vectors are fenced off, each with a log entry (R305, R347). -/
def State.fenceCores (s : State) (site : Nat) (failed : List Nat) : State :=
  failed.foldl (fun x c => x.fenceCore site c false s.openCause) s

/-- A die that stays out of the pool is fenced off, with a log entry (R305, R347). -/
def State.refuseDie (s : State) (site : Nat) : State :=
  (s.updDie site fun d => { d with fenced := true }).logSite true site s.openCause

def State.join (s : State) (site : Nat) (record : BitVec 128) (failed : List Nat) : State :=
  let bad := (range 0 (Config.cores site)).filter failed.contains
  if site ≥ 12 || !(s.die site).negotiating then s
  else
    let s1 := s.updDie site fun d => { d with negotiating := false, record := record }
    if record != Config.genRecord site || 4 * bad.length > Config.cores site then s1.refuseDie site
    else (s1.updDie site fun d => { d.emptied with joined := true, fenced := false }).fenceCores site bad

/-- JOIN_NEGOTIATION (R305): `failed` are the cores whose vectors do not match. -/
def execJoinNegotiation (site : Nat) (record : BitVec 128) (failed : List Nat) (s : State) :
    Host.Outcome State Fault Refusal := .next (s.join site record failed)

/-- A block other than a supervisor's takes space on a die. -/
def State.occupied (s : State) (site : Nat) : Bool := s.blocks.any fun e => e.2.site == site && e.2.holds && !e.2.supervisor

/-- DIE_OFFLINE (R307): nothing more is placed on the die, its blocks are pre-empted, and then it leaves the pool. -/
def State.dieOffline (s : State) (site : Nat) : State :=
  if s.occupied site then (s.updDie site fun d => { d with leaving := true }).emptyCores fun b => b.site == site
  else s.updDie site fun d => { d with joined := false, leaving := false }
def execDieOffline (site : Nat) (s : State) : Host.Outcome State Fault Refusal := .next (s.dieOffline site)

/-! ## Contexts -/

/-- CONTEXT_ENTRY_VALID (R145, R317): the hub has read `e` of the entry; it counts only where the supervisor's stores have
made the entry in memory so. -/
def execContextEntryValid (p idx : Nat) (e : CtxEntry) (s : State) : Host.Outcome State Fault Refusal :=
  .next (if s.ctx? (256 * p + idx) == (if e.valid then some e else none) then s.contextTurn p idx else s)

/-! ## The command window (R318) -/

/-- The slot after one of the ring. -/
def nextCommand (x : Nat) : Nat := if x = 65280 then 256 else x + 256

/-- The slots of the ring that a write of `n` bytes at an offset touches. -/
def slotsOf (off n : Nat) : List Nat :=
  (range 1 255).map (256 * ·) |>.filter fun x => decide (off < x + 256) && decide (x < off + n)

/-- The slots from PROD up to a new PROD. -/
def passed (upto : Nat) : Nat → Nat → List Nat
  | _, 0 => []
  | x, n + 1 => if x = upto then [] else x :: passed upto (nextCommand x) n

/-- A slot's contents are unpredictable from now on (R318). -/
def State.spoilSlot (s : State) (pt : Part) (x : Nat) : State :=
  s.hubWrite (pt.window + x) ((range x 256).map (Config.freeByte s.tick))

/-- Bytes of the host reach the command window. A slot written while the ring is full, and one that PROD passes before all
its bytes are written, become unpredictable. -/
def State.windowBytes (s : State) (p : Nat) (pt : Part) (off : Nat) (data : List Byte) : State :=
  let prod := s.word32 pt.window
  let full : Bool := nextCommand prod == s.word32 (pt.window + 4)
  let hit := slotsOf off data.length
  let bytes (x : Nat) : List Nat := range (max off x - x) (min (off + data.length) (x + 256) - max off x)
  let filled := hit.foldl (fun t x => Tab.set t x ((bytes x).foldl insertNat (Tab.getD t x []))) pt.filled
  let s1 := (s.hubWrite (pt.window + off) data).updPart p fun q => { q with filled := filled }
  let jumped := if off < 4 then (passed (s1.word32 pt.window) prod 255).filter fun x => (Tab.getD filled x []).length < 256 else []
  ((if full then hit else []) ++ jumped).foldl (fun x n => x.spoilSlot pt n) s1

def State.windowWrite (s : State) (p off : Nat) (data : List Byte) : State :=
  match s.part? p with
  | none => s
  | some pt =>
    if s.recovery || off + data.length > 65536 then s
    else
      let n := off + data.length - max off 256
      let s1 := s.windowBytes p pt off (data.zipIdx.map fun (b, i) => if 8 ≤ off + i ∧ off + i < 256 then 0 else b)
      match pt.super with
      | some b =>
        if n = 0 then s1
        else
          let s2 := s1.land b 0 n (64 * b) { cause := 0 }
          (match s.blk? b with | some k => s2.refresh k.site k.core .pkg | none => s2)
      | none => s1

/-- HOST_WINDOW_WRITE (R318, R372): the bytes, then Land(n) on the supervisor's b0 for those that lie in slots; the header's
reserved bytes stay zero. In recovery only the mailbox answers (R375). -/
def execHostWindowWrite (p off : Nat) (data : List Byte) (s : State) : Host.Outcome State Fault Refusal :=
  .next (s.windowWrite p off data)

/-- The next slot of a partition's ring: CONS and the slot's 256 bytes as a number. -/
def State.command (s : State) (p : Nat) : Option (Part × Nat × Nat) :=
  match s.part? p with
  | none => none
  | some pt =>
    let cons := s.word32 (pt.window + 4)
    if s.word32 pt.window = cons then none else some (pt, cons, leNat (s.mem.readN (pt.window + cons) 256))

/-- OP and ARG of a slot. -/
def slotOp (c : Nat) : Nat := bitsOf c 7 0
def slotArg (c : Nat) : Nat := bitsOf c 255 192

/-- A reserved field of a slot is not zero, or ARG where OP takes none: the slot is malformed (R11, R318). -/
def slotBad (c : Nat) : Bool :=
  bitsOf c 63 8 != 0 || bitsOf c 191 138 != 0 || (slotOp c != 2 && slotArg c != 0) ||
    bitsOf c 1023 256 != 0

/-- The supervisor writes STATUS and then CONS (R318). -/
def State.answerCommand (s : State) (p cons status : Nat) : State :=
  match s.part? p with
  | none => s
  | some pt =>
    ((s.hubWrite (pt.window + cons + 8) (leBytes 8 status)).hubWrite (pt.window + 4) (leBytes 4 (nextCommand cons))).updPart p
      fun x => { x with filled := Tab.del x.filled cons, waiting := none }

/-- The status of a refused slot. -/
def refusedStatus : Nat := 0x80000000000000FF

/-- The supervisor's shuttle with its block. -/
def State.supervisor (s : State) (pt : Part) : Option Who :=
  match pt.super with
  | none => none
  | some b => match s.sh? (64 * b), s.blk? b with
    | some sh, some blk => some { h := 64 * b, sh := sh, blk := blk }
    | _, _ => none

/-- The launch of a slot: as it was read before a wait, or read and checked now (R320). -/
def State.judgeCommand (s : State) (pt : Part) (w : Who) (c : Nat) : Except Nat Launch :=
  match pt.waiting with
  | some l => .ok l
  | none => s.judgeRecord w pt (c / 2 ^ 1024 % 2 ^ 1024) (bitsOf c 137 128)

def State.cmdLaunch (s : State) (p : Nat) : State :=
  match s.command p with
  | none => s
  | some (pt, cons, c) =>
    match s.supervisor pt with
    | none => s
    | some w =>
      if slotOp c != 1 || slotBad c then s
      else
        match s.judgeCommand pt w c with
        | .error e => s.answerCommand p cons (2 ^ 63 + e)
        | .ok l =>
          if (Tab.getD pt.queues l.queue []).length ≥ 16 then s.updPart p fun x => { x with waiting := some l }
          else (s.enqueueLaunch pt l).answerCommand p cons (pt.seq + 1)

/-- CMD_LAUNCH (R318, R320): a full queue makes the LAUNCH wait, which keeps the record as it was read. -/
def execCmdLaunch (p : Nat) (s : State) : Host.Outcome State Fault Refusal := .next (s.cmdLaunch p)

/-- Every block on a granule begins to leave (R330). -/
def State.emptyGranule (s : State) (g : Nat) : State := s.emptyCores fun b => granuleNo b.site (b.core / 16) == g

/-- CMD_PREEMPT_GRANULE (R330): a granule of another partition is refused. -/
def execCmdPreemptGranule (p : Nat) (s : State) : Host.Outcome State Fault Refusal :=
  .next (match s.command p with
    | none => s
    | some (pt, cons, c) =>
      if slotOp c != 2 || slotBad c then s
      else if !pt.granules.contains (slotArg c) then s.answerCommand p cons refusedStatus
      else (s.emptyGranule (slotArg c)).answerCommand p cons 0)

/-- CMD_HALT_AND_CAPTURE (R334). -/
def execCmdHaltAndCapture (p : Nat) (s : State) : Host.Outcome State Fault Refusal :=
  .next (match s.command p with
    | none => s
    | some (_, cons, c) => if slotOp c != 3 || slotBad c then s else (s.halt p).answerCommand p cons 0)

/-- CMD_RESUME (R334): waits for a capture under way; without one it is refused. -/
def execCmdResume (p : Nat) (s : State) : Host.Outcome State Fault Refusal :=
  .next (match s.command p with
    | none => s
    | some (pt, cons, c) =>
      if slotOp c != 4 || slotBad c then s
      else if !pt.halted then s.answerCommand p cons refusedStatus
      else if pt.capture.isSome then (s.captureResume p).answerCommand p cons 0
      else s)

/-- CMD_REFUSED (R11, R318): an unknown OP, or a malformed slot. -/
def execCmdRefused (p : Nat) (s : State) : Host.Outcome State Fault Refusal :=
  .next (match s.command p with
    | none => s
    | some (_, cons, c) => if 1 ≤ slotOp c && slotOp c ≤ 4 && !slotBad c then s else s.answerCommand p cons refusedStatus)

/-- The hub serves a request in a partition's control page (R247, R330, R334). DESIGN CHOICE (log 75): the manual gives the page
no layout; a request is its first 8 bytes, byte 0 the kind, 1 a claim of the range that bytes 1 to 3 name by die site, number
and context index, 2 a granule to pre-empt in byte 1, 3 halt-and-capture; the hub answers by zeroing them. -/
def State.controlPage (s : State) (p : Nat) : State :=
  match s.part? p with
  | none => s
  | some pt =>
    let r := leNat (s.mem.readN pt.page 8)
    let arg (i : Nat) : Nat := bitsOf r (8 * i + 7) (8 * i)
    let done (x : State) : State := x.hubWrite pt.page (leBytes 8 0)
    match arg 0 with
    | 1 => done (s.rangeClaim p (arg 1) (arg 2) (arg 3))
    | 2 => done (if pt.granules.contains (arg 1) then s.emptyGranule (arg 1) else s)
    | 3 => done (s.halt p)
    | _ => s

/-! ## BAR2 (R372) -/

/-- The physical addresses of an access in the 64 GiB of BAR2, when every byte translates under WINCTX and no far tier is
lost (R297, R371, R372). -/
def State.bar2Pas (s : State) (write : Bool) (off n : Nat) : Option (List Nat) :=
  let pas := (range (s.mgmt.mailbox.winbase * 2 ^ 36 + off) n).map (s.walkOf s.mgmt.mailbox.winctx)
  if off + n ≤ 2 ^ 36 && pas.all fun f => match f with | .page pa w _ => (w || !write) && !s.farGone pa | .serv .. | .none => false then
    some (pas.filterMap fun f => match f with | .page pa _ _ => some pa | .serv .. | .none => none)
  else none

/-- One line of a host write at its home slice: a partial write, which a failing line abandons (R294). -/
def State.hostLine (s : State) (line va : Nat) (cells : List Host.Cell) : State :=
  if s.lineBad line then s.findBad [line]
  else s.programWrite line 15 0 cells (s.hubComp s.mgmt.mailbox.winctx va)

def State.bar2 (s : State) (write : Bool) (off n : Nat) (data : List Byte) : State :=
  let unsupported := s.updMgmt fun m => { m with unsupported := true, answer := [] }
  match if s.recovery then none else s.bar2Pas write off n with
  | none => unsupported
  | some pas =>
    if write then
      let va := s.mgmt.mailbox.winbase * 2 ^ 36 + off
      ((intoLines ((range va n).zip (pas.zip data))).foldl (fun x e => x.hostLine e.1 e.2.1 e.2.2) s).updMgmt fun m =>
        { m with unsupported := false, answer := [] }
    else if !(s.poisoned (pas.map fun a => (0, a))).isEmpty then
      (s.findBad (distinct (pas.map (· / 64)))).updMgmt fun m => { m with unsupported := true, answer := [] }
    else s.updMgmt fun m => { m with unsupported := false, answer := pas.map s.mem.read }

/-- HOST_BAR2_ACCESS (R372): an access that fails translation completes with Unsupported Request, as every one does in
recovery (R375). -/
def execHostBar2Access (write : Bool) (off n : Nat) (data : List Byte) (s : State) : Host.Outcome State Fault Refusal :=
  .next (s.bar2 write off n data)

/-! ## The mailbox (R373, R374) -/

/-- A command's step: that of the OP which a write of GO = 1 has started, or one that GO starts with it (log 55); ignored while
another runs. Its effect, and RESULT. -/
def State.go (s : State) (op : Nat) (f : State → State × Nat) : State :=
  let m := s.mgmt.mailbox
  if m.busy && !(m.started && m.op == op) then s
  else
    let r := f s
    r.1.updMgmt fun m => { m with mailbox := { m.mailbox with op := op, busy := true, started := false, result := r.2 } }

/-- An argument of the mailbox. -/
def State.arg (s : State) (i : Fin 29) : Nat := (s.mgmt.mailbox.args.get i).toNat

/-- Bytes put into DATA. -/
def State.putData (s : State) (off : Nat) (bs : List Byte) : State :=
  s.updMgmt fun m => { m with mailbox := { m.mailbox with data := m.mailbox.data.writeN off bs } }

/-- MB_READ_GENERATION_RECORD (R299). -/
def execMbReadGenerationRecord (s : State) : Host.Outcome State Fault Refusal :=
  .next (s.go 1 fun s =>
    if s.arg 0 ≥ 12 then (s, 2) else (s.putData 0 (leBytes 16 (s.die (s.arg 0)).record.toNat), 0))

/-- The granules of the bitmap in ARG0 and ARG1, lowest first. -/
def State.bitmap (s : State) : List Nat :=
  (range 0 88).filter fun g => if g < 64 then (s.arg 0).testBit g else (s.arg 1).testBit (g - 64)

/-- A partition as it is built (R314), its regions where the supervisor's plan has them. -/
def newPart (granules : List Nat) (b : Nat) (x : SuperPlan) : Part :=
  { granules := granules, super := some b, queues := [], seq := 0, table := x.table, page := x.page, window := x.window,
    filled := [], log := x.log, spill := x.spill, live := [], waiting := none, frames := [], groups := [], halted := false,
    capture := none, reserved := [] }

/-- The partition's regions as the supervisor leaves them: the context table with its own entry, the control page empty, the
ring and the fatal log empty (R317, R318, R344). -/
def State.layOut (s : State) (x : SuperPlan) : State :=
  let zeros := ([(x.table, 16384), (x.page, 4096), (x.window, 65536), (x.log, 32768)].foldl
    (fun y e => y.fillFrame e.1 e.2 fun _ => 0) s)
  ((zeros.hubWrite x.table (leBytes 64 (ctxImage x.entry))).hubWrite x.window (leBytes 4 256 ++ leBytes 4 256)).hubWrite x.log
    (leBytes 4 128 ++ leBytes 4 128)

/-- The supervisor's kernel: the descriptor that opens its image, with one shuttle (R315). -/
def superKern (image : List Byte) : Kern := { kernOf 0 (leNat (image.take 64)) with shuttles := 1 }

/-- The partition, and the supervisor's block on core 0 of its lowest granule (R315). -/
def State.build (s : State) (p : Nat) (gs : List Nat) (image : List Byte) (x : SuperPlan) : State :=
  let g := granuleSite (gs.headD 0)
  let s1 := State.layOut { s with parts := Tab.set s.parts p (newPart gs s.nextId x) } x
  ((s1.contextTurn p 0).updMgmt fun m => { m with images := m.images ++ [image] }).birth
    (newBlock p (launchKey p 0) (256 * p) (superKern image) 1 1 1 0 2 [] true s.now) (128 * g.1 + 16 * g.2)

/-- An image that the hub accepts: its signature is good, and its security version is not below the fused floor (R375). -/
def imageGood (image : List Byte) : Bool :=
  Config.signatureGood image && decide (Config.fusedFloor ≤ Config.securityVersion image)

/-- MB_BUILD_PARTITION (R374, R375): `image` is what the hub reads from host memory, ARG4 bytes at the bus address ARG3, `plan`
what the supervisor sets up. A package in recovery builds nothing. -/
def execMbBuildPartition (image : List Byte) (plan : SuperPlan) (s : State) : Host.Outcome State Fault Refusal :=
  .next (if image.length != s.arg 4 then s
    else s.go 2 fun s =>
      let gs := s.bitmap
      let p := s.arg 2
      let x := s.updMgmt fun m => { m with hostRead := some (s.arg 3, s.arg 4) }
      if s.recovery || s.arg 1 ≥ 2 ^ 24 || gs.isEmpty || p ≥ 32 || !plan.entry.valid ||
          gs.any fun g => (s.die (granuleSite g).1).fenced then (s, 2)
      else if (s.part? p).isSome || gs.any fun g => s.parts.any fun e => e.2.granules.contains g then (s, 4)
      else if !imageGood image then (x, 3)
      else (x.build p gs image plan, 0))

/-- MB_DISSOLVE_PARTITION (R374): the halt; MAILBOX_COMMAND_END discards the image. -/
def execMbDissolvePartition (s : State) : Host.Outcome State Fault Refusal :=
  .next (s.go 3 fun s => if (s.part? (s.arg 2)).isNone then (s, 2) else (s.halt (s.arg 2), 0))

/-- MB_SET_POWER_CAP (R377). -/
def execMbSetPowerCap (s : State) : Host.Outcome State Fault Refusal :=
  .next (s.go 4 fun s =>
    if 1200 ≤ s.arg 0 && s.arg 0 ≤ 3600 then (s.updMgmt fun m => { m with newCap := some (s.arg 0) }, 0) else (s, 2))

/-- An error-log entry as a number (R379). -/
def LogEntry.word (e : LogEntry) : Nat :=
  e.time % 2 ^ 64 * 2 ^ 64 + bitNat e.repl * 2 ^ 32 + e.site % 256 * 2 ^ 24 + e.quad % 256 * 2 ^ 16 + e.core % 128 * 2 ^ 9 +
    e.cause % 512

/-- MB_READ_ERROR_LOG (R374). -/
def execMbReadErrorLog (s : State) : Host.Outcome State Fault Refusal :=
  .next (s.go 5 fun s => (s.putData 0 (((s.mgmt.log.drop (s.arg 0)).take 60).flatMap fun e => leBytes 16 e.word), 0))

/-- A part of a firmware image; the last part has the whole verified (R374, R375). -/
def State.stage (s : State) : State × Nat :=
  let n := s.arg 1
  if s.arg 0 != s.mgmt.staged.length || n = 0 || n > 3840 then (s, 2)
  else
    let all := s.mgmt.staged ++ s.mgmt.mailbox.data.readN 0 n
    if !(s.arg 2).testBit 0 then (s.updMgmt fun m => { m with staged := all }, 0)
    else if imageGood all then (s.updMgmt fun m => { m with staged := [], firmware := all }, 0)
    else (s.updMgmt fun m => { m with staged := [] }, 3)

/-- MB_STAGE_FIRMWARE (R374). -/
def execMbStageFirmware (s : State) : Host.Outcome State Fault Refusal := .next (s.go 6 State.stage)

/-- The digests of the images loaded since bring-up: after the 120th each further one is hashed together with the 120th
(R376). -/
def digests (images : List (List Byte)) : List (BitVec 256) :=
  (images.map Config.sha256).foldl (fun ds d => if ds.length < 120 then ds ++ [d]
    else ds.take 119 ++ [Config.sha256 (leBytes 32 (ds.getD 119 0).toNat ++ leBytes 32 d.toNat)]) []

/-- The body of a quote (R376). DESIGN CHOICE (log 109): its parts stand in the order in which the rule names them, the part
number and the floor as .n64 numbers. -/
def quoteBody (nonce : List Byte) (images : List (List Byte)) : List Byte :=
  nonce ++ leBytes 8 Config.partNumber ++ leBytes 8 Config.fusedFloor ++ (digests images).flatMap fun d => leBytes 32 d.toNat

/-- A quote: its body and the hub's signature of it (R376). -/
def quoteOf (nonce : List Byte) (images : List (List Byte)) : List Byte :=
  quoteBody nonce images ++ (range 0 16224).map (Config.signatureByte (quoteBody nonce images))

/-- The quote and the certificate go into the host's buffer, their lengths into DATA (R376). -/
def State.quote (s : State) : State × Nat :=
  if s.arg 5 < 40960 then (s, 2)
  else
    let q := quoteOf (leBytes 8 (s.arg 0) ++ leBytes 8 (s.arg 1) ++ leBytes 8 (s.arg 2) ++ leBytes 8 (s.arg 3)) s.mgmt.images
    let c := Config.certificateBytes.take 17408
    ((s.putData 0 (leBytes 4 q.length ++ leBytes 4 c.length)).updMgmt fun m =>
      { m with hostBuf := [(s.arg 4, q), (s.arg 4 + q.length, c)] }, 0)

/-- MB_ATTESTATION_QUOTE (R376). -/
def execMbAttestationQuote (s : State) : Host.Outcome State Fault Refusal := .next (s.go 7 State.quote)

/-- MB_READMIT_DIE (R305, R374): a die that is not in the pool negotiates; its route table is loaded with it (DESIGN CHOICE,
log 108). -/
def execMbReadmitDie (s : State) : Host.Outcome State Fault Refusal :=
  .next (s.go 8 fun s =>
    if s.recovery || s.arg 0 ≥ 12 || (s.die (s.arg 0)).joined then (s, 2)
    else ((s.updDie (s.arg 0) fun d => { d.emptied with negotiating := true }).loadRoutes (s.arg 0), 0))

/-- A command of no OP that Table 3 lists ends with RESULT 1 (R374). -/
def State.unknownOp (s : State) (op : Nat) : State := if 1 ≤ op && op ≤ 8 then s else s.go op fun s => (s, 1)

/-- MB_UNKNOWN_OP (R374). -/
def execMbUnknownOp (op : BitVec 8) (s : State) : Host.Outcome State Fault Refusal := .next (s.unknownOp op.toNat)

/-- What is left of a partition when its image is discarded (R374): nothing. -/
def State.discard (s : State) (p : Nat) : State :=
  let bs := (s.blocks.filter fun e => e.2.part == p && e.2.status != .ended).map (·.1)
  let s1 := bs.foldl (fun x b => x.endBlock b false) s
  let gone (ctx : Nat) : Bool := ctx / 256 == p
  { s1 with
    parts := Tab.del s1.parts p
    launches := s1.launches.filter fun e => e.2.part != p
    faults := s1.faults.filter fun f => !gone f.ctx
    invals := s1.invals.filter fun e => !gone e.1
    inv := s1.inv.filter fun e => !gone e.1
    code := s1.code.filter fun e => !gone e.2.ctx
    trans := s1.trans.filter fun t => !gone t.ctx
    objs := s1.objs.filter fun o => !gone o.ctx
    cores := s1.cores.map fun (c, k) =>
      (c, { k with overflow := k.overflow.filter fun m => !gone m.ctx, raised := k.raised.filter fun x => !gone x,
                   recvs := k.recvs.filter fun r => !gone r.ctx
                   tenants := k.tenants.map fun t => if t.ctx.any gone then { t with ctx := none } else t })
    dies := s1.dies.map fun (d, x) =>
      (d, { x with ranges := x.ranges.filter fun r => r.2.part != p, tlb := x.tlb.filter fun t => !gone t.ctx })
    hubs := s1.hubs.map fun (h, u) =>
      (h, { u with uses := u.uses.filter fun e => e.1 / 4096 != p, collQ := u.collQ.filter fun k => k.gid / 4096 != p,
                   podWaits := u.podWaits.filter fun k => k.gid / 4096 != p }) }

/-- The command that runs can end: its step has been made, and a dissolved partition's blocks all stand in their images. -/
def State.commandDone (s : State) : Bool :=
  !s.mgmt.mailbox.started && (s.mgmt.mailbox.op != 3 || s.mgmt.mailbox.result != 0 || s.captured (s.arg 2))

/-- MAILBOX_COMMAND_END (R373). -/
def execMailboxCommandEnd (s : State) : Host.Outcome State Fault Refusal :=
  .next (if !s.mgmt.mailbox.busy || !s.commandDone then s
    else
      (if s.mgmt.mailbox.op == 3 && s.mgmt.mailbox.result == 0 then s.discard (s.arg 2) else s).updMgmt fun m =>
        { m with mailbox := { m.mailbox with busy := false }, msix := m.msix ++ [0] })

/-- A host write to a field of the mailbox (R373); GO = 1 starts OP, and its command's own step follows. -/
def Mailbox.write (m : Mailbox) (off : Nat) (v : W64) : Mailbox :=
  if off = 0 then
    (if m.busy then m else { m with op := bitsOf v.toNat 15 8, busy := v.getLsbD 0, started := v.getLsbD 0 })
  else if off = 0x10 then { m with winbase := bitsOf v.toNat 56 36, winctx := bitsOf v.toNat 7 0 }
  else if 0x18 ≤ off ∧ off < 0x100 then
    (if m.busy then m else { m with args := m.args.set (Fin.ofNat 29 (off / 8 - 3)) v })
  else if 0x100 ≤ off ∧ off < 0x1000 then { m with data := m.data.writeN (off - 0x100) (leBytes 8 v.toNat) }
  else m

/-- A host read of the mailbox's 8 bytes at an offset (R373): GO and the reserved fields read zero. -/
def Mailbox.read (m : Mailbox) (off : Nat) : Nat :=
  if off = 0 then m.op % 256 * 256
  else if off = 8 then m.result % 65536 * 65536 + bitNat (m.result != 0) * 2 + bitNat m.busy
  else if off = 0x10 then m.winbase % 2 ^ 21 * 2 ^ 36 + m.winctx % 256
  else if 0x18 ≤ off ∧ off < 0x100 then (m.args.get (Fin.ofNat 29 (off / 8 - 3))).toNat
  else if 0x100 ≤ off ∧ off < 0x1000 then leNat (m.data.readN (off - 0x100) 8)
  else 0

/-- REGISTER_WRITE (R373): `off` is a multiple of 8 in the mailbox. -/
def execRegisterWrite (off : Nat) (v : W64) (s : State) : Host.Outcome State Fault Refusal :=
  .next (if off % 8 = 0 then s.updMgmt fun m => { m with mailbox := m.mailbox.write off v } else s)

/-! ## Power and telemetry (R377, R378) -/

/-- The clock and the cap request at the end of a window whose average power is given in mW; a new clock runs from this cycle
on, at which `ps` picoseconds have passed since bring-up. -/
def Mgmt.endWindow (m : Mgmt) (now ps mw : Nat) : Mgmt :=
  let past : Bool := decide (mw > 1000 * m.cap)
  let calm : Bool := decide (mw < 950 * m.cap)
  let since := if calm then (match m.calmSince with | some n => some n | none => some m.window) else none
  let rise : Bool := match since with | some n => decide (n + 10 ≤ m.window + 1) | none => false
  let mhz := if past then max 500 (m.mhz - 20) else if rise then min 940 (m.mhz + 20) else m.mhz
  { m with
    power := mw, window := m.window + 1, calmSince := since, hold := past
    capRequests := if past then m.capRequests + 1 else m.capRequests
    mhz := mhz, clockFrom := if mhz = m.mhz then m.clockFrom else now, clockPs := if mhz = m.mhz then m.clockPs else ps
    cap := m.newCap.getD m.cap, newCap := none }

/-- POWER_WINDOW (R377): a cap set during the window takes effect after it. -/
def execPowerWindow (m : PowerSample) (s : State) : Host.Outcome State Fault Refusal :=
  .next (s.updMgmt (·.endWindow s.now s.picos m.milliwatts))

/-- POWER_THERMAL_EMERGENCY (R346, R377): every partition is halted and captured. -/
def execPowerThermalEmergency (m : PowerSample) (s : State) : Host.Outcome State Fault Refusal :=
  .next (if m.milliwatts > 1100 * s.mgmt.cap || m.hottest > 105000 then
      ((s.parts.map (·.1)).foldl State.halt s).logSite false 12 0x1F0
    else s)

/-- Errors of the cores of a site. -/
def State.siteErrors (s : State) (f : Core → Nat) (site : Nat) : Nat :=
  ((s.cores.filter fun e => e.1 / 128 == site).map fun e => f e.2).foldl (· + ·) 0

/-- The corrected and the uncorrected errors of every site: the dies, then the hubs. -/
def State.eccCounts (s : State) : List Nat :=
  (range 0 12).map (s.siteErrors Core.corrected) ++ (range 0 2).map (fun h => (s.hub h).corrected) ++
    (range 0 12).map (s.siteErrors Core.uncorrected) ++ (range 0 2).map fun h => (s.hub h).uncorrected

/-- The STALE counters: every core of the twelve dies, then the hubs (R217, R364). -/
def State.staleCounts (s : State) : List Nat :=
  ((range 0 12).flatMap fun d => (range 0 (Config.cores d)).map fun c => (s.core (128 * d + c)).stale) ++
    (range 0 2).map fun h => (s.hub h).stale

/-- The values of the telemetry page as .n64 numbers, in the order in which the manual names them; `temps` are the dies'
temperatures (R378; the order is a DESIGN CHOICE, log 62). -/
def State.telemetry (s : State) (temps : List Nat) : List Nat :=
  ([s.mgmt.power] ++ ((range 0 12).map fun d => temps.getD d 0) ++ [s.mgmt.mhz] ++ s.eccCounts ++ s.staleCounts ++
    [s.faults.length, s.mgmt.capRequests]).map (· % 2 ^ 64)

/-- TELEMETRY_UPDATE (R378). -/
def execTelemetryUpdate (temps : List Nat) (s : State) : Host.Outcome State Fault Refusal :=
  .next (s.updMgmt fun m => { m with telemetry := s.telemetry temps })

/-! ## Bring-up (R375) -/

/-- A die site at bring-up: a die that is there has its route table loaded and negotiates (R237, R305); one that is not, or
fails its checks, is fenced off (R347). -/
def State.startSite (present : List Nat) (s : State) (site : Nat) : State :=
  if present.contains site then (s.updDie site fun d => { d with negotiating := true }).loadRoutes site else s.refuseDie site

/-- A package that is powered on again is as after power-on, with the firmware that was staged (R374; DEDUCED, log 110). -/
def State.powerCycle (s : State) : State :=
  { State.reset with agenda := s.agenda, tick := s.tick, mgmt := { State.reset.mgmt with firmware := s.mgmt.firmware } }

/-- The steps of bring-up; `hubGood`: the hub firmware and every other image that is loaded were accepted (R375). -/
def State.bringup (s0 : State) (hubGood : Bool) (present : List Nat) (pkg : Nat) : State :=
  let s := if s0.started then s0.powerCycle else s0
  if !hubGood then { s with started := true, recovery := true }
  else
    let s1 := (range 0 12).foldl (State.startSite present)
      { s with started := true, pkg := pkg % 256, podRoutes := (range 0 256).map fun i => (i, Config.podRoute i) }
    ((range 0 16).foldl (fun x n => x.updPort n fun p => { p with up := true }) s1).updMgmt fun m =>
      { m with images := [m.firmware] }

/-- POWER_ON_BRINGUP (R237, R360, R375): the pod route table loaded is the one computed off line; a refused image leaves the
package in recovery. A package that runs is powered on anew. -/
def execPowerOnBringup (hubGood : Bool) (present : List Nat) (pkg : Nat) (s : State) :
    Host.Outcome State Fault Refusal := .next (s.bringup hubGood present pkg)

/-! ## BAR0 (R371) -/

/-- The byte that the host reads at an offset of BAR0: the mailbox, the telemetry page, or a partition's command window; what
the map does not name reads as zero (DESIGN CHOICE, log 111). In recovery only the mailbox answers (R375). -/
def State.bar0Byte (s : State) (a : Nat) : Byte :=
  if a < 0x1000 then BitVec.ofNat 8 (s.mgmt.mailbox.read (a / 8 * 8) / 2 ^ (8 * (a % 8)))
  else if s.recovery then 0
  else if 0x10000 ≤ a ∧ a < 0x20000 then BitVec.ofNat 8 (s.mgmt.telemetry.getD ((a - 0x10000) / 8) 0 / 2 ^ (8 * (a % 8)))
  else if 0x1000000 ≤ a ∧ a < 0x1200000 then
    (match s.part? ((a - 0x1000000) / 65536) with | some pt => s.mem.read (pt.window + a % 65536) | none => 0)
  else 0

/-- A host write to the mailbox, register by register: the bytes of a register that the write leaves out keep their values. -/
def Mailbox.writeBytes (m : Mailbox) (off : Nat) (data : List Byte) : Mailbox :=
  (range (off / 8) ((off + data.length + 7) / 8 - off / 8)).foldl (fun m i =>
    m.write (8 * i) (BitVec.ofNat 64 (leNat ((range 0 8).map fun j =>
      let a := 8 * i + j
      if off ≤ a ∧ a < off + data.length then data.getD (a - off) 0 else BitVec.ofNat 8 (m.read (8 * i) / 2 ^ (8 * j)))))) m

/-- A host access to BAR0 (R371): writes reach the mailbox and the command windows, and a read's bytes are the answer. -/
def State.bar0 (s : State) (write : Bool) (off n : Nat) (data : List Byte) : State :=
  if !write then s.updMgmt fun m => { m with unsupported := false, answer := (range off n).map s.bar0Byte }
  else if off < 0x1000 then s.updMgmt fun m => { m with mailbox := m.mailbox.writeBytes off (data.take (0x1000 - off)) }
  else if 0x1000000 ≤ off ∧ off < 0x1200000 then
    (range ((off - 0x1000000) / 65536) ((off % 65536 + data.length + 65535) / 65536)).foldl (fun x p =>
      let lo := 0x1000000 + 65536 * p
      x.windowWrite p (max off lo - lo) ((data.drop (lo - off)).take (65536 - (max off lo - lo)))) s
  else s

/-! ## The model's own turns (log 1) -/

/-- A group-table entry given to the hub (R363). -/
def State.giveGroup (s : State) (p gid entry : Nat) : State :=
  s.updPart p fun x => { x with groups := Tab.set x.groups (gid % 4096) entry }

end Sys2Proof.Machine
end

