-- ==== Sys2Proof/Machine/Scalar.lean ====
section
/-! DEFINITION. Scalar arithmetic, predicates and moves of the control stream (R113 to R119). -/

namespace Sys2Proof.Machine

/-- sd := a value, and on to the next word (R111). -/
def setS (s : State) (d : SReg) (f : Shuttle → W64) : Host.Outcome State Fault Refusal :=
  onCur s fun w => s.complete w fun sh => sh.writeS d (f sh)

/-- kd := a value, and on to the next word (R111). -/
def setK (s : State) (k : KReg) (f : Shuttle → Bool) : Host.Outcome State Fault Refusal :=
  onCur s fun w => s.complete w fun sh => sh.writeK k (f sh)

/-! ## Functions of R113 Table 1 -/

def fAdd (t : CType) (a b : W64) : W64 := cExt t (cInt t a + cInt t b)
def fSub (t : CType) (a b : W64) : W64 := cExt t (cInt t a - cInt t b)
def fMul (t : CType) (a b : W64) : W64 := cExt t (cInt t a * cInt t b)
def fMulh (t : CType) (a b : W64) : W64 := cExt t (cInt t a * cInt t b / (2 ^ cWidth t : Nat))
/-- Truncated toward zero; all ones of the width when b = 0. -/
def fDiv (t : CType) (a b : W64) : W64 :=
  if cInt t b = 0 then cExt t (-1) else cExt t (Int.tdiv (cInt t a) (cInt t b))
def fRem (t : CType) (a b : W64) : W64 :=
  if cInt t b = 0 then cExt t (cInt t a) else cExt t (Int.tmod (cInt t a) (cInt t b))
def fMin (t : CType) (a b : W64) : W64 := cExt t (if cInt t a ≤ cInt t b then cInt t a else cInt t b)
def fMax (t : CType) (a b : W64) : W64 := cExt t (if cInt t a ≤ cInt t b then cInt t b else cInt t a)
/-- A bit function of the operands' bits. -/
def fBits (t : CType) (f : Nat → Nat → Nat) (a b : W64) : W64 := cExt t (f (cNat t a) (cNat t b) : Nat)
def fAndn (t : CType) (a b : W64) : W64 := cExt t (cNat t a &&& (2 ^ cWidth t - 1 - cNat t b) : Nat)
/-- The shift count is a whole .n64 (R113). -/
def fShl (t : CType) (a b : W64) : W64 :=
  cExt t (if b.toNat ≥ cWidth t then 0 else (cNat t a * 2 ^ b.toNat : Nat))
def fShr (t : CType) (a b : W64) : W64 :=
  cExt t (if b.toNat ≥ cWidth t then 0 else (cNat t a / 2 ^ b.toNat : Nat))
def fSra (t : CType) (a b : W64) : W64 :=
  cExt t (toSigned (cWidth t) a.toNat / (2 ^ min b.toNat (cWidth t - 1) : Nat))
def fRot (t : CType) (a b : W64) : W64 :=
  let n := b.toNat % cWidth t
  cExt t (cNat t a * 2 ^ n + cNat t a / 2 ^ (cWidth t - n) : Nat)
/-- The number of one bits among the low `n`. -/
def popcount : Nat → Nat → Nat
  | 0, _ => 0
  | n + 1, x => x % 2 + popcount n (x / 2)
/-- Leading zeros of an `n`-bit number. -/
def leadingZeros : Nat → Nat → Nat
  | 0, _ => 0
  | n + 1, x => if x.testBit n then 0 else 1 + leadingZeros n x
/-- Trailing zeros of an `n`-bit number. -/
def trailingZeros : Nat → Nat → Nat
  | 0, _ => 0
  | n + 1, x => if x % 2 == 1 then 0 else 1 + trailingZeros n (x / 2)
def fPopc (t : CType) (a : W64) : W64 := cExt t (popcount (cWidth t) (cNat t a) : Nat)
def fClz (t : CType) (a : W64) : W64 := cExt t (leadingZeros (cWidth t) (cNat t a) : Nat)
def fCtz (t : CType) (a : W64) : W64 := cExt t (trailingZeros (cWidth t) (cNat t a) : Nat)

/-! ## Meanings -/

def execAddReg (d a b : SReg) (t : CType) (s : State) := setS s d fun x => fAdd t (x.readS a) (x.readS b)
def execSubReg (d a b : SReg) (t : CType) (s : State) := setS s d fun x => fSub t (x.readS a) (x.readS b)
def execMulReg (d a b : SReg) (t : CType) (s : State) := setS s d fun x => fMul t (x.readS a) (x.readS b)
def execMulh (d a b : SReg) (t : CType) (s : State) := setS s d fun x => fMulh t (x.readS a) (x.readS b)
def execDiv (d a b : SReg) (t : CType) (s : State) := setS s d fun x => fDiv t (x.readS a) (x.readS b)
def execRem (d a b : SReg) (t : CType) (s : State) := setS s d fun x => fRem t (x.readS a) (x.readS b)
def execMinReg (d a b : SReg) (t : CType) (s : State) := setS s d fun x => fMin t (x.readS a) (x.readS b)
def execMaxReg (d a b : SReg) (t : CType) (s : State) := setS s d fun x => fMax t (x.readS a) (x.readS b)
def execAndReg (d a b : SReg) (t : CType) (s : State) := setS s d fun x => fBits t (· &&& ·) (x.readS a) (x.readS b)
def execOrReg (d a b : SReg) (t : CType) (s : State) := setS s d fun x => fBits t (· ||| ·) (x.readS a) (x.readS b)
def execXorReg (d a b : SReg) (t : CType) (s : State) := setS s d fun x => fBits t (· ^^^ ·) (x.readS a) (x.readS b)
def execAndn (d a b : SReg) (t : CType) (s : State) := setS s d fun x => fAndn t (x.readS a) (x.readS b)
def execShlReg (d a b : SReg) (t : CType) (s : State) := setS s d fun x => fShl t (x.readS a) (x.readS b)
def execShrReg (d a b : SReg) (t : CType) (s : State) := setS s d fun x => fShr t (x.readS a) (x.readS b)
def execSraReg (d a b : SReg) (t : CType) (s : State) := setS s d fun x => fSra t (x.readS a) (x.readS b)
def execRotReg (d a b : SReg) (t : CType) (s : State) := setS s d fun x => fRot t (x.readS a) (x.readS b)
def execPopcReg (d a : SReg) (t : CType) (s : State) := setS s d fun x => fPopc t (x.readS a)
def execClzReg (d a : SReg) (t : CType) (s : State) := setS s d fun x => fClz t (x.readS a)
def execCtz (d a : SReg) (t : CType) (s : State) := setS s d fun x => fCtz t (x.readS a)
def execAddImm (d a : SReg) (i : BitVec 12) (s : State) := setS s d fun x => x.readS a + imm64 i
def execAndImm (d a : SReg) (i : BitVec 12) (s : State) := setS s d fun x => x.readS a &&& imm64 i
def execOrImm (d a : SReg) (i : BitVec 12) (s : State) := setS s d fun x => x.readS a ||| imm64 i
def execXorImm (d a : SReg) (i : BitVec 12) (s : State) := setS s d fun x => x.readS a ^^^ imm64 i
def execShlImm (d a : SReg) (n : Fin 64) (s : State) := setS s d fun x => x.readS a <<< n.val
def execShrImm (d a : SReg) (n : Fin 64) (s : State) := setS s d fun x => x.readS a >>> n.val
def execSraImm (d a : SReg) (n : Fin 64) (s : State) := setS s d fun x => (x.readS a).sshiftRight n.val
def execMulImm (d a : SReg) (i : BitVec 12) (s : State) := setS s d fun x => x.readS a * imm64 i
def execCmpReg (k : KReg) (a b : SReg) (t : CType) (c : ICond) (s : State) :=
  setK s k fun x => iHolds c (cInt t (x.readS a)) (cInt t (x.readS b))
def execCmpImm (k : KReg) (a : SReg) (c : ImmCond) (i : BitVec 12) (s : State) :=
  setK s k fun x => immHolds c (x.readS a) (imm64 i)
/-- LUI (R115). -/
def execLui (d : SReg) (i : BitVec 20) (s : State) := setS s d fun _ => (i ++ (0 : BitVec 12)).signExtend 64
/-- APC (R115): pc is the address of the word itself. -/
def execApc (d : SReg) (i : BitVec 20) (s : State) := setS s d fun x => x.pc + (i ++ (0 : BitVec 12)).signExtend 64
def execKand (d a b : KReg) (s : State) := setK s d fun x => x.readK a && x.readK b
def execKor (d a b : KReg) (s : State) := setK s d fun x => x.readK a || x.readK b
def execKxor (d a b : KReg) (s : State) := setK s d fun x => xor (x.readK a) (x.readK b)
def execKnot (d a : KReg) (s : State) := setK s d fun x => !(x.readK a)
/-- CSEL (R118). -/
def execCsel (d a b : SReg) (p : KReg) (n : Bool) (s : State) :=
  setS s d fun x => if predHolds x p n then x.readS a else x.readS b
/-- MOVSK (R119). -/
def execMovsk (d : SReg) (s : State) := setS s d fun x => BitVec.ofNat 64 x.predBits
/-- MOVKS (R119). -/
def execMovks (a : SReg) (s : State) : Host.Outcome State Fault Refusal :=
  onCur s fun w => s.complete w fun sh => sh.setPreds (sh.readS a).toNat
/-- MOVSM waits for the queued runs, then reads a mask (R75, R119). -/
def execMovsm (d : SReg) (m : MReg) (s : State) : Host.Outcome State Fault Refusal :=
  onCur s fun w => s.whenDrained w (s.complete w fun sh => sh.writeS d ((sh.readM m).zeroExtend 64))
/-- MOVMS waits for the queued runs, then writes a mask (R75, R119). -/
def execMovms (m : MReg) (a : SReg) (s : State) : Host.Outcome State Fault Refusal :=
  onCur s fun w => s.whenDrained w (s.complete w fun sh => sh.writeM m ((sh.readS a).truncate 8))

end Sys2Proof.Machine
end

