-- ==== Sys2Proof/Machine/LaneBit.lean ====
section
/-! DEFINITION. Lane bit and field operations (R95), moves, the thread index and the empty word (R110). -/

namespace Sys2Proof.Machine

/-- The ones' complement of a 32-bit pattern. -/
def not32 (a : Nat) : Nat := 2 ^ 32 - 1 - a % 2 ^ 32
def shl32 (a b : Nat) : Nat := if b ≥ 32 then 0 else a * 2 ^ b % 2 ^ 32
def shr32 (a b : Nat) : Nat := if b ≥ 32 then 0 else a / 2 ^ b
def sra32 (a b : Nat) : Nat := (toSigned 32 a / (2 ^ min b 31 : Nat) % (2 ^ 32 : Nat)).toNat
def rot32 (a b : Nat) : Nat := (a * 2 ^ (b % 32) + a / 2 ^ (32 - b % 32)) % 2 ^ 32
/-- Bit i of the result is bit n-1-i of the operand. -/
def reverseBits : Nat → Nat → Nat
  | 0, _ => 0
  | n + 1, a => a % 2 * 2 ^ n + reverseBits n (a / 2)

/-- BFX (R95): bits past 63 of the extended operand read as its bit 63. -/
def bfx (signed : Bool) (a b c : Nat) : Nat :=
  let pos := b % 256
  let len := min (c % 256) 32
  if len = 0 then 0
  else
    let w : Int := if signed then toSigned 32 a else (a : Int)
    let f := (w / (2 ^ pos : Nat) % (2 ^ len : Nat)).toNat
    if signed then (toSigned len f % (2 ^ 32 : Nat)).toNat else f

/-- BFI (R95). -/
def bfi (a b c : Nat) : Nat :=
  let pos := c % 256
  let len := min (c / 256 % 256) 32
  ((range 0 32).map fun i =>
    if pos ≤ i && i < pos + len then b / 2 ^ (i - pos) % 2 * 2 ^ i else a / 2 ^ i % 2 * 2 ^ i).foldl (· + ·) 0

/-- Result bytes of BYTESEL from byte `i` on, `last` the byte below (R95, log 12). -/
def byteselFrom (v c : Nat) : Nat → Nat → Nat → Nat
  | 0, _, _ => 0
  | n + 1, i, last =>
    let sel := c / 2 ^ (4 * i) % 16
    let x := if sel < 8 then v / 2 ^ (8 * sel) % 256 else if i = 0 then 0 else if last ≥ 128 then 255 else 0
    x * 2 ^ (8 * i) + byteselFrom v c n (i + 1) x
def bytesel (a b c : Nat) : Nat := byteselFrom (a + 2 ^ 32 * b) c 4 0 0

/-- TRUTH (R95). -/
def truth (table : BitVec 8) (a b c : Nat) : Nat :=
  ((range 0 32).map fun j =>
    if table.getLsbD (a / 2 ^ j % 2 + 2 * (b / 2 ^ j % 2) + 4 * (c / 2 ^ j % 2)) then 2 ^ j else 0).foldl (· + ·) 0

/-- FUNNEL (R95). -/
def funnel (lo : Bool) (a b c : Nat) : Nat :=
  let v := a + 2 ^ 32 * b
  if lo then v / 2 ^ (c % 32) % 2 ^ 32 else v * 2 ^ (c % 32) / 2 ^ 32 % 2 ^ 32

def execLAnd (hd : Head) (d : LDst) (a b : LSrc) (s : State) := laneMap s hd d [a, b] (fn2 fun x y => x &&& y)
def execLOr (hd : Head) (d : LDst) (a b : LSrc) (s : State) := laneMap s hd d [a, b] (fn2 fun x y => x ||| y)
def execLXor (hd : Head) (d : LDst) (a b : LSrc) (s : State) := laneMap s hd d [a, b] (fn2 fun x y => x ^^^ y)
def execLNot (hd : Head) (d : LDst) (a : LSrc) (s : State) := laneMap s hd d [a] (fn1 not32)
def execLShl (hd : Head) (d : LDst) (a b : LSrc) (s : State) := laneMap s hd d [a, b] (fn2 shl32)
def execLShr (hd : Head) (d : LDst) (a b : LSrc) (s : State) := laneMap s hd d [a, b] (fn2 shr32)
/-- .s32 and .n32 behave alike (R95). -/
def execLSra (hd : Head) (_signed : Bool) (d : LDst) (a b : LSrc) (s : State) := laneMap s hd d [a, b] (fn2 sra32)
def execLRot (hd : Head) (d : LDst) (a b : LSrc) (s : State) := laneMap s hd d [a, b] (fn2 rot32)
def execLPopc (hd : Head) (d : LDst) (a : LSrc) (s : State) := laneMap s hd d [a] (fn1 (popcount 32))
def execLClz (hd : Head) (d : LDst) (a : LSrc) (s : State) := laneMap s hd d [a] (fn1 (leadingZeros 32))
def execLBrev (hd : Head) (d : LDst) (a : LSrc) (s : State) := laneMap s hd d [a] (fn1 (reverseBits 32))
def execLBfx (hd : Head) (signed : Bool) (d : LDst) (a b c : LSrc) (s : State) :=
  laneMap s hd d [a, b, c] (fn3 (bfx signed))
def execLBfi (hd : Head) (d : LDst) (a b c : LSrc) (s : State) := laneMap s hd d [a, b, c] (fn3 bfi)
def execLBytesel (hd : Head) (d : LDst) (a b c : LSrc) (s : State) := laneMap s hd d [a, b, c] (fn3 bytesel)
def execLTruth (hd : Head) (d : LDst) (a b c : LSrc) (table : BitVec 8) (s : State) :=
  laneMap s hd d [a, b, c] (fn3 (truth table))
def execLScadd (hd : Head) (d : LDst) (a b : LSrc) (n : Fin 32) (s : State) :=
  laneMap s hd d [a, b] (fn2 fun x y => (x * 2 ^ n.val + y) % 2 ^ 32)
def execLFunnel (hd : Head) (lo : Bool) (d : LDst) (a b c : LSrc) (s : State) :=
  laneMap s hd d [a, b, c] (fn3 (funnel lo))

/-! ## Moves -/

def execLMov (hd : Head) (d : LDst) (a : LSrc) (s : State) := laneMap s hd d [a] (fn1 id)

/-- LTID (R110): 8 times the shuttle's index, plus t. -/
def execLLtid (hd : Head) (d : LDst) (s : State) : Host.Outcome State Fault Refusal :=
  onLane s fun w _ =>
    s.laneDone w [] (putEach (guardOf w.sh hd) fun t => putDst s d t (8 * w.sh.idx + t))

/-- NOP (R110). -/
def execLNop (_bnd : Bool) (s : State) : Host.Outcome State Fault Refusal := onLane s fun w _ => s.laneDone w [] id

end Sys2Proof.Machine
end

