-- ==== Sys2Proof/Machine/LaneFloat.lean ====
section
/-! DEFINITION. Lane floating-point arithmetic, selection and correctly rounded functions (R96 to R98). -/

namespace Sys2Proof.Machine

/-- The format of an element of class F (R37). -/
def fFmt : FType → FFmt
  | .f32 => fF32
  | .f16x2 => fF16
  | .bf16x2 => fBf16

/-- A pattern of a thread's operands. -/
def nth (xs : List Nat) (i : Nat) : Nat := xs.getD i 0

/-- An exact expression per element, rounded once by the mode (R96). -/
def floatMap (s : State) (hd : Head) (t : FType) (r : Rnd) (d : LDst) (srcs : List LSrc) (g : List Num → Num) :
    Host.Outcome State Fault Refusal :=
  laneMap s hd d srcs (perElem (fWidth t) fun xs => roundF (fFmt t) (g (xs.map (decodeF (fFmt t)))) r false)

/-- An operand's exact value. -/
def nthNum (xs : List Num) (i : Nat) : Num := xs.getD i .nan

def execLFadd (hd : Head) (t : FType) (r : Rnd) (d : LDst) (a b : LSrc) (s : State) :=
  floatMap s hd t r d [a, b] fun xs => Num.add r (nthNum xs 0) (nthNum xs 1)
def execLFsub (hd : Head) (t : FType) (r : Rnd) (d : LDst) (a b : LSrc) (s : State) :=
  floatMap s hd t r d [a, b] fun xs => Num.add r (nthNum xs 0) (nthNum xs 1).neg
def execLFmul (hd : Head) (t : FType) (r : Rnd) (d : LDst) (a b : LSrc) (s : State) :=
  floatMap s hd t r d [a, b] fun xs => Num.mul (nthNum xs 0) (nthNum xs 1)
def execLFma (hd : Head) (t : FType) (r : Rnd) (d : LDst) (a b c : LSrc) (s : State) :=
  floatMap s hd t r d [a, b, c] fun xs => Num.add r (Num.mul (nthNum xs 0) (nthNum xs 1)) (nthNum xs 2)

/-- FDOT2 (R96): packed halves of a and b, a single .f32 c and result. -/
def fdot2 (bf : Bool) (r : Rnd) (a b c : Nat) : Nat :=
  let dec (i x : Nat) : Num := decodeF (if bf then fBf16 else fF16) (elemAt 16 i x)
  roundF fF32 (Num.add r (Num.add r (Num.mul (dec 0 a) (dec 0 b)) (Num.mul (dec 1 a) (dec 1 b))) (decF32 c)) r false
def execLFdot2 (hd : Head) (bf : Bool) (r : Rnd) (d : LDst) (a b c : LSrc) (s : State) :=
  laneMap s hd d [a, b, c] (fn3 (fdot2 bf r))

/-! ## Selection and signs (R97) -/

/-- A function of patterns per element. -/
def patMap (s : State) (hd : Head) (t : FType) (d : LDst) (srcs : List LSrc) (g : List Nat → Nat) :
    Host.Outcome State Fault Refusal := laneMap s hd d srcs (perElem (fWidth t) g)

def execLFmin (hd : Head) (t : FType) (d : LDst) (a b : LSrc) (s : State) :=
  patMap s hd t d [a, b] fun xs => minMaxF (fFmt t) false (nth xs 0) (nth xs 1)
def execLFmax (hd : Head) (t : FType) (d : LDst) (a b : LSrc) (s : State) :=
  patMap s hd t d [a, b] fun xs => minMaxF (fFmt t) true (nth xs 0) (nth xs 1)
def execLFclamp (hd : Head) (t : FType) (d : LDst) (a b c : LSrc) (s : State) :=
  patMap s hd t d [a, b, c] fun xs =>
    minMaxF (fFmt t) false (minMaxF (fFmt t) true (nth xs 0) (nth xs 1)) (nth xs 2)
def execLFabs (hd : Head) (t : FType) (d : LDst) (a : LSrc) (s : State) :=
  patMap s hd t d [a] fun xs => nth xs 0 % 2 ^ (fWidth t - 1)
def execLFneg (hd : Head) (t : FType) (d : LDst) (a : LSrc) (s : State) :=
  patMap s hd t d [a] fun xs => nth xs 0 ^^^ 2 ^ (fWidth t - 1)
def execLFcpsgn (hd : Head) (t : FType) (d : LDst) (a b : LSrc) (s : State) :=
  patMap s hd t d [a, b] fun xs =>
    nth xs 0 % 2 ^ (fWidth t - 1) + nth xs 1 / 2 ^ (fWidth t - 1) * 2 ^ (fWidth t - 1)

/-- FRND (R97): a zero keeps the sign of its operand. -/
def frnd (f : FFmt) (r : Rnd) (a : Nat) : Nat :=
  match decodeF f a with
  | .nan => f.nan
  | .inf neg => f.infinite neg false
  | .fin neg m e => roundF f (.fin neg (roundInt r neg m e).natAbs 0) r false
def execLFrnd (hd : Head) (t : FType) (r : Rnd) (d : LDst) (a : LSrc) (s : State) :=
  patMap s hd t d [a] fun xs => frnd (fFmt t) r (nth xs 0)

/-! ## .f32 functions (R98) -/

def execLFdiv (hd : Head) (d : LDst) (a b : LSrc) (s : State) := laneMap s hd d [a, b] (fn2 divF32)
def execLFsqrt (hd : Head) (d : LDst) (a : LSrc) (s : State) := laneMap s hd d [a] (fn1 sqrtF32)
def execLFrcp (hd : Head) (d : LDst) (a : LSrc) (s : State) := laneMap s hd d [a] (fn1 rcpF32)
def execLFrsq (hd : Head) (d : LDst) (a : LSrc) (s : State) := laneMap s hd d [a] (fn1 rsqF32)
def execLFexp2 (hd : Head) (d : LDst) (a : LSrc) (s : State) := laneMap s hd d [a] (fn1 exp2F32)
def execLFlog2 (hd : Head) (d : LDst) (a : LSrc) (s : State) := laneMap s hd d [a] (fn1 log2F32)
def execLFsin (hd : Head) (d : LDst) (a : LSrc) (s : State) := laneMap s hd d [a] (fn1 sinF32)
def execLFcos (hd : Head) (d : LDst) (a : LSrc) (s : State) := laneMap s hd d [a] (fn1 cosF32)
/-- b is read as .s32. -/
def execLFldexp (hd : Head) (r : Rnd) (d : LDst) (a b : LSrc) (s : State) :=
  laneMap s hd d [a, b] (fn2 fun x y => ldexpF32 r x (toSigned 32 y))

/-- The class bit of a .f32 pattern (R98). -/
def fclass (a : Nat) : Nat :=
  let neg : Bool := a ≥ 2 ^ 31
  let mag := a % 2 ^ 31
  if mag > 0x7F800000 then (if a / 2 ^ 22 % 2 = 1 then 2 ^ 9 else 2 ^ 8)
  else if mag = 0x7F800000 then (if neg then 1 else 2 ^ 7)
  else if mag = 0 then (if neg then 2 ^ 3 else 2 ^ 4)
  else if mag < 0x00800000 then (if neg then 2 ^ 2 else 2 ^ 5)
  else if neg then 2 else 2 ^ 6
def execLFclass (hd : Head) (d : LDst) (a : LSrc) (s : State) := laneMap s hd d [a] (fn1 fclass)

end Sys2Proof.Machine
end

