-- ==== Sys2Proof/Machine/LaneInt.lean ====
section
/-! DEFINITION. Lane integer arithmetic (R93, R94). -/

namespace Sys2Proof.Machine

/-- An exact value per element, fitted to the type (R93, R51). -/
def intMap (s : State) (hd : Head) (t : IType) (sat : Bool) (d : LDst) (srcs : List LSrc) (g : List Int → Int) :
    Host.Outcome State Fault Refusal :=
  laneMap s hd d srcs (perElem (iWidth t) fun xs => fitInt (iSigned t) sat (iWidth t) (g (xs.map (iVal t))))

/-- Exact results of Table 1 on a thread's operand values. -/
def xAdd (xs : List Int) : Int := xs.getD 0 0 + xs.getD 1 0
def xSub (xs : List Int) : Int := xs.getD 0 0 - xs.getD 1 0
def xMul (xs : List Int) : Int := xs.getD 0 0 * xs.getD 1 0
def xMad (xs : List Int) : Int := xs.getD 0 0 * xs.getD 1 0 + xs.getD 2 0
def xSum3 (xs : List Int) : Int := xs.getD 0 0 + xs.getD 1 0 + xs.getD 2 0
def xAbs (xs : List Int) : Int := ((xs.getD 0 0).natAbs : Int)
def xNeg (xs : List Int) : Int := -xs.getD 0 0
def xClamp (xs : List Int) : Int := min (max (xs.getD 0 0) (xs.getD 1 0)) (xs.getD 2 0)
def xMulhi (n : Nat) (xs : List Int) : Int := xMul xs / (2 ^ n : Nat)
def xMin (xs : List Int) : Int := min (xs.getD 0 0) (xs.getD 1 0)
def xMax (xs : List Int) : Int := max (xs.getD 0 0) (xs.getD 1 0)

def execLAdd (hd : Head) (t : IType) (sat : Bool) (d : LDst) (a b : LSrc) (s : State) := intMap s hd t sat d [a, b] xAdd
def execLSub (hd : Head) (t : IType) (sat : Bool) (d : LDst) (a b : LSrc) (s : State) := intMap s hd t sat d [a, b] xSub
def execLMul (hd : Head) (t : IType) (sat : Bool) (d : LDst) (a b : LSrc) (s : State) := intMap s hd t sat d [a, b] xMul
def execLMulhi (hd : Head) (t : IType) (d : LDst) (a b : LSrc) (s : State) :=
  intMap s hd t false d [a, b] (xMulhi (iWidth t))
def execLMad (hd : Head) (t : IType) (sat : Bool) (d : LDst) (a b c : LSrc) (s : State) :=
  intMap s hd t sat d [a, b, c] xMad
def execLMin (hd : Head) (t : IType) (d : LDst) (a b : LSrc) (s : State) := intMap s hd t false d [a, b] xMin
def execLMax (hd : Head) (t : IType) (d : LDst) (a b : LSrc) (s : State) := intMap s hd t false d [a, b] xMax
def execLAbs (hd : Head) (t : IType) (sat : Bool) (d : LDst) (a : LSrc) (s : State) := intMap s hd t sat d [a] xAbs
def execLNeg (hd : Head) (t : IType) (sat : Bool) (d : LDst) (a : LSrc) (s : State) := intMap s hd t sat d [a] xNeg
def execLSum3 (hd : Head) (t : IType) (sat : Bool) (d : LDst) (a b c : LSrc) (s : State) :=
  intMap s hd t sat d [a, b, c] xSum3
def execLClamp (hd : Head) (t : IType) (sat : Bool) (d : LDst) (a b c : LSrc) (s : State) :=
  intMap s hd t sat d [a, b, c] xClamp

/-- The exact dot product of packed elements of width `n`, plus a 32-bit addend (R94). -/
def dotInt (signed : Bool) (n a b c : Nat) : Int :=
  let v (k x : Nat) : Int := if signed then toSigned k x else (x % 2 ^ k : Nat)
  v 32 c + ((range 0 (32 / n)).map fun i => v n (elemAt n i a) * v n (elemAt n i b)).foldl (· + ·) 0

def execLQdot (hd : Head) (signed sat : Bool) (d : LDst) (a b c : LSrc) (s : State) :=
  laneMap s hd d [a, b, c] (fn3 fun x y z => fitInt signed sat 32 (dotInt signed 8 x y z))
def execLHdot (hd : Head) (signed sat : Bool) (d : LDst) (a b c : LSrc) (s : State) :=
  laneMap s hd d [a, b, c] (fn3 fun x y z => fitInt signed sat 32 (dotInt signed 16 x y z))

/-- The exact 64-bit product (R94). -/
def wideMul (signed : Bool) (a b : Nat) : Nat :=
  if signed then fitInt false false 64 (toSigned 32 a * toSigned 32 b) else a * b % 2 ^ 64

/-- MULFULL writes a pair; the latch receives the low word (R94). -/
def execLMulfull (hd : Head) (signed : Bool) (d : Fin 256) (a b : LSrc) (s : State) : Host.Outcome State Fault Refusal :=
  onLane s fun w r =>
    s.laneDone w [a, b] (putEach (guardOf w.sh hd) fun t sh =>
      let p := wideMul signed (readSrc s w.sh r a 0 t) (readSrc s w.sh r b 1 t)
      putGroup s d t sh [p % 2 ^ 32, p / 2 ^ 32] 0)

end Sys2Proof.Machine
end

