-- ==== Sys2Proof/Machine/LaneMask.lean ====
section
/-! DEFINITION. Compares, masks and selection (R103 to R105), and operations across the shuttle (R106 to R109). -/

namespace Sys2Proof.Machine

/-! ## Masks -/

/-- One bit of a mask register for each selected thread (R78, R103). -/
def putMask (d : MReg) (g : BitVec 8) (f : Nat → Bool) (sh : Shuttle) : Shuttle :=
  putEach g (fun t x => x.writeM d (setMaskBit (x.readM d) t (f t))) sh

/-- A condition over two exact values; NaN satisfies only ne and unord (R103). -/
def fHolds (c : FCond) (x y : Num) : Bool :=
  match Num.cmp x y, c with
  | none, .ne | none, .unord => true
  | none, _ => false
  | some _, .ord => true
  | some _, .unord => false
  | some o, .eq => o == .eq
  | some o, .ne => o != .eq
  | some o, .lt => o == .lt
  | some o, .le => o != .gt
  | some o, .gt => o == .gt
  | some o, .ge => o != .lt

/-- A condition that every element of two words meets. -/
def allElems (n : Nat) (p : Nat → Nat → Bool) (x y : Nat) : Bool :=
  (range 0 (32 / n)).all fun i => p (elemAt n i x) (elemAt n i y)

/-- A compare writes one mask bit per selected thread (R103). -/
def compareMap (s : State) (hd : Head) (d : MReg) (a b : LSrc) (p : Nat → Nat → Bool) :
    Host.Outcome State Fault Refusal :=
  onLane s fun w r =>
    s.laneDone w [a, b] (putMask d (guardOf w.sh hd) fun t => p (readSrc s w.sh r a 0 t) (readSrc s w.sh r b 1 t))

def execLIcmp (hd : Head) (t : IType) (c : ICond) (d : MReg) (a b : LSrc) (s : State) :=
  compareMap s hd d a b (allElems (iWidth t) fun x y => iHolds c (iVal t x) (iVal t y))
def execLFcmp (hd : Head) (t : FType) (c : FCond) (d : MReg) (a b : LSrc) (s : State) :=
  compareMap s hd d a b (allElems (fWidth t) fun x y => fHolds c (decodeF (fFmt t) x) (decodeF (fFmt t) y))

/-- SEL (R105). -/
def execLSel (hd : Head) (d : LDst) (a b : LSrc) (m : MReg) (s : State) : Host.Outcome State Fault Refusal :=
  onLane s fun w r =>
    s.laneDone w [a, b] (putEach (guardOf w.sh hd) fun t =>
      putDst s d t (if maskBit (w.sh.readM m) t then readSrc s w.sh r a 0 t else readSrc s w.sh r b 1 t))

/-- MLOGIC's function (R104). -/
def mFun (f : MFn) (a b : Bool) : Bool :=
  match f with
  | .and => a && b
  | .or => a || b
  | .xor => xor a b
  | .andn => a && !b
def execLMlogic (hd : Head) (f : MFn) (d a b : MReg) (s : State) : Host.Outcome State Fault Refusal :=
  onLane s fun w _ =>
    s.laneDone w [] (putMask d (guardOf w.sh hd) fun t => mFun f (maskBit (w.sh.readM a) t) (maskBit (w.sh.readM b) t))

/-! ## Across the shuttle -/

/-- The thread that PASS reads (R106). -/
def passFrom (m : PassMode) (t n : Nat) : Nat :=
  match m with
  | .from => n % 8
  | .back => if n ≤ t then t - n else t
  | .fwd => if t + n ≤ 7 then t + n else t
  | .mirror => t ^^^ (n % 8)
  | .rot => (t + n) % 8

/-- PASS (R106): every operand is read before any thread writes. -/
def execLPass (hd : Head) (m : PassMode) (d : LDst) (a b : LSrc) (s : State) : Host.Outcome State Fault Refusal :=
  onLane s fun w r =>
    s.laneDone w [a, b] (putEach (guardOf w.sh hd) fun t =>
      putDst s d t (readSrc s w.sh r a (16 + t) (passFrom m t (readSrc s w.sh r b 1 t))))

/-- VOTE's result (R107). -/
def vote (f : VoteFn) (g p : BitVec 8) : Nat :=
  match f with
  | .any => if g &&& p = 0 then 0 else 1
  | .all => if g &&& ~~~p = 0 then 1 else 0
  | .ballot => (g &&& p).toNat
  | .count => popcount 8 (g &&& p).toNat

/-- A pending scalar result recorded (R74). -/
def pendResult (d : SReg) (v : Nat) (sh : Shuttle) : Shuttle := { sh with pend := sh.pend ++ [(d, BitVec.ofNat 64 v)] }

def execLVote (hd : Head) (f : VoteFn) (d : SReg) (a : MReg) (s : State) : Host.Outcome State Fault Refusal :=
  onLane s fun w _ => s.laneDone w [] (pendResult d (vote f (guardOf w.sh hd) (w.sh.readM a)))

/-- Identity of a reduction (R108). -/
def redIdentity : RedFn → Nat
  | .add _ | .or _ | .xor _ | .fadd => 0
  | .and _ => 0xFFFFFFFF
  | .min signed => if signed then 0x7FFFFFFF else 0xFFFFFFFF
  | .max signed => if signed then 0x80000000 else 0
  | .fmin => 0x7F800000
  | .fmax => 0xFF800000

/-- One step of a reduction on 32-bit patterns (R108). -/
def redStep (f : RedFn) (x y : Nat) : Nat :=
  let less (signed : Bool) (u v : Nat) : Bool := if signed then decide (toSigned 32 u ≤ toSigned 32 v) else decide (u ≤ v)
  match f with
  | .add _ => (x + y) % 2 ^ 32
  | .min g => if less g x y then x else y
  | .max g => if less g x y then y else x
  | .and _ => x &&& y
  | .or _ => x ||| y
  | .xor _ => x ^^^ y
  | .fadd => addF32 x y
  | .fmin => minMaxF fF32 false x y
  | .fmax => minMaxF fF32 true x y

/-- The pending result: sign-extended for .s32; a NaN of a float function is made canonical (R108). -/
def redResult (f : RedFn) (acc : Nat) : Nat :=
  match f with
  | .add g | .min g | .max g | .and g | .or g | .xor g =>
    if g then (toSigned 32 acc % (2 ^ 64 : Nat)).toNat else acc
  | .fadd | .fmin | .fmax => if decF32 acc == .nan then nanF32 else acc

/-- RED over the values of the selected threads in ascending order (R108). -/
def reduce (f : RedFn) : List Nat → Nat
  | [] => redResult f (redIdentity f)
  | x :: xs => redResult f (xs.foldl (redStep f) x)

def execLRed (hd : Head) (f : RedFn) (d : SReg) (a : LSrc) (s : State) : Host.Outcome State Fault Refusal :=
  onLane s fun w r =>
    s.laneDone w [a] (pendResult d (reduce f ((threadsOf (guardOf w.sh hd)).map fun t => readSrc s w.sh r a 0 t)))

/-- SCAN's value for thread t: the sum over the selected threads up to it (R109). -/
def scanSum (ts : List Nat) (excl : Bool) (f : Nat → Nat) (t : Nat) : Nat :=
  ((ts.filter fun u => if excl then u < t else u ≤ t).map f).foldl (· + ·) 0 % 2 ^ 32

/-- SCAN (R109): the type affects no bit. -/
def execLScan (hd : Head) (_signed excl : Bool) (d : LDst) (a : LSrc) (s : State) : Host.Outcome State Fault Refusal :=
  onLane s fun w r =>
    s.laneDone w [a] (putEach (guardOf w.sh hd) fun t =>
      putDst s d t (scanSum (threadsOf (guardOf w.sh hd)) excl (fun u => readSrc s w.sh r a 0 u) t))

end Sys2Proof.Machine
end

