-- ==== Sys2Proof/Machine/Dispatch.lean ====
section
/-! DEFINITION. One arm for each constructor of Instr: its meaning, or its rejection by name. -/

namespace Sys2Proof.Machine

/-- The effect of an instruction or of a step of another agent. -/
def exec (i : Instr) (s : State) : Host.Outcome State Fault Refusal :=
  match i with
  | .addReg d a b t => Sys2Proof.Machine.execAddReg d a b t s
  | .subReg d a b t => Sys2Proof.Machine.execSubReg d a b t s
  | .mulReg d a b t => Sys2Proof.Machine.execMulReg d a b t s
  | .mulh d a b t => Sys2Proof.Machine.execMulh d a b t s
  | .div d a b t => Sys2Proof.Machine.execDiv d a b t s
  | .rem d a b t => Sys2Proof.Machine.execRem d a b t s
  | .minReg d a b t => Sys2Proof.Machine.execMinReg d a b t s
  | .maxReg d a b t => Sys2Proof.Machine.execMaxReg d a b t s
  | .andReg d a b t => Sys2Proof.Machine.execAndReg d a b t s
  | .orReg d a b t => Sys2Proof.Machine.execOrReg d a b t s
  | .xorReg d a b t => Sys2Proof.Machine.execXorReg d a b t s
  | .andn d a b t => Sys2Proof.Machine.execAndn d a b t s
  | .shlReg d a b t => Sys2Proof.Machine.execShlReg d a b t s
  | .shrReg d a b t => Sys2Proof.Machine.execShrReg d a b t s
  | .sraReg d a b t => Sys2Proof.Machine.execSraReg d a b t s
  | .rotReg d a b t => Sys2Proof.Machine.execRotReg d a b t s
  | .popcReg d a t => Sys2Proof.Machine.execPopcReg d a t s
  | .clzReg d a t => Sys2Proof.Machine.execClzReg d a t s
  | .ctz d a t => Sys2Proof.Machine.execCtz d a t s
  | .addImm d a i0 => Sys2Proof.Machine.execAddImm d a i0 s
  | .andImm d a i0 => Sys2Proof.Machine.execAndImm d a i0 s
  | .orImm d a i0 => Sys2Proof.Machine.execOrImm d a i0 s
  | .xorImm d a i0 => Sys2Proof.Machine.execXorImm d a i0 s
  | .shlImm d a n => Sys2Proof.Machine.execShlImm d a n s
  | .shrImm d a n => Sys2Proof.Machine.execShrImm d a n s
  | .sraImm d a n => Sys2Proof.Machine.execSraImm d a n s
  | .mulImm d a i0 => Sys2Proof.Machine.execMulImm d a i0 s
  | .cmpReg k a b t c => Sys2Proof.Machine.execCmpReg k a b t c s
  | .cmpImm k a c i0 => Sys2Proof.Machine.execCmpImm k a c i0 s
  | .lui d i0 => Sys2Proof.Machine.execLui d i0 s
  | .apc d i0 => Sys2Proof.Machine.execApc d i0 s
  | .br p n o => Sys2Proof.Machine.execBr p n o s
  | .call p n o => Sys2Proof.Machine.execCall p n o s
  | .loop d gt i0 => Sys2Proof.Machine.execLoop d gt i0 s
  | .jr a => Sys2Proof.Machine.execJr a s
  | .callr a => Sys2Proof.Machine.execCallr a s
  | .ret a => Sys2Proof.Machine.execRet a s
  | .lrun l => Sys2Proof.Machine.execLrun l s
  | .trap a => Sys2Proof.Machine.execTrap a s
  | .mfs d v => Sys2Proof.Machine.execMfs d v s
  | .icinvPkg a b => Sys2Proof.Machine.execIcinvPkg a b s
  | .launch d a b => Sys2Proof.Machine.execLaunch d a b s
  | .fence s0 pred succ => Sys2Proof.Machine.execFence s0 pred succ s
  | .kand d a b => Sys2Proof.Machine.execKand d a b s
  | .kor d a b => Sys2Proof.Machine.execKor d a b s
  | .kxor d a b => Sys2Proof.Machine.execKxor d a b s
  | .knot d a => Sys2Proof.Machine.execKnot d a s
  | .ldsG d a s0 i0 => Sys2Proof.Machine.execLdsG d a s0 i0 s
  | .ldsGSigned d a s0 i0 => Sys2Proof.Machine.execLdsGSigned d a s0 i0 s
  | .stsG d a s0 i0 => Sys2Proof.Machine.execStsG d a s0 i0 s
  | .ldsA d a wide i0 => Sys2Proof.Machine.execLdsA d a wide i0 s
  | .stsA d a wide i0 => Sys2Proof.Machine.execStsA d a wide i0 s
  | .lr d a t => Sys2Proof.Machine.execLr d a t s
  | .sc d a b t => Sys2Proof.Machine.execSc d a b t s
  | .amos d a b t f => Sys2Proof.Machine.execAmos d a b t f s
  | .movsk d => Sys2Proof.Machine.execMovsk d s
  | .movks a => Sys2Proof.Machine.execMovks a s
  | .movsm d m => Sys2Proof.Machine.execMovsm d m s
  | .movms m a => Sys2Proof.Machine.execMovms m a s
  | .csel d a b p n => Sys2Proof.Machine.execCsel d a b p n s
  | .binit d a b => Sys2Proof.Machine.execBinit d a b s
  | .barrive a b => Sys2Proof.Machine.execBarrive a b s
  | .bexpect a b => Sys2Proof.Machine.execBexpect a b s
  | .bwait a b => Sys2Proof.Machine.execBwait a b s
  | .btest d a b => Sys2Proof.Machine.execBtest d a b s
  | .empty w a b => Sys2Proof.Machine.execEmpty w a b s
  | .gbar die id => Sys2Proof.Machine.execGbar die id s
  | .tdef n a => Sys2Proof.Machine.execTdef n a s
  | .cpy d a b m => Sys2Proof.Machine.execCpy d a b m s
  | .cpyt d a b m => Sys2Proof.Machine.execCpyt d a b m s
  | .cpyg d a b m => Sys2Proof.Machine.execCpyg d a b m s
  | .cpym d a b m => Sys2Proof.Machine.execCpym d a b m s
  | .cmovCToA c a => Sys2Proof.Machine.execCmovCToA c a s
  | .cmovNowait c a => Sys2Proof.Machine.execCmovNowait c a s
  | .cmovAToC c a => Sys2Proof.Machine.execCmovAToC c a s
  | .czero c => Sys2Proof.Machine.execCzero c s
  | .mma c a b f aten bten => Sys2Proof.Machine.execMma c a b f aten bten s
  | .mgemm c a f aten bten => Sys2Proof.Machine.execMgemm c a f aten bten s
  | .mwait c => Sys2Proof.Machine.execMwait c s
  | .xclr e a b => Sys2Proof.Machine.execXclr e a b s
  | .xshift d s0 o => Sys2Proof.Machine.execXshift d s0 o s
  | .xm2l d s0 o => Sys2Proof.Machine.execXm2l d s0 o s
  | .xl2l d s0 o => Sys2Proof.Machine.execXl2l d s0 o s
  | .xadm k a b => Sys2Proof.Machine.execXadm k a b s
  | .xld e a local_ => Sys2Proof.Machine.execXld e a local_ s
  | .xst e a local_ => Sys2Proof.Machine.execXst e a local_ s
  | .xownTake k e => Sys2Proof.Machine.execXownTake k e s
  | .xownRel e => Sys2Proof.Machine.execXownRel e s
  | .ord o a => Sys2Proof.Machine.execOrd o a s
  | .sgjoin k a => Sys2Proof.Machine.execSgjoin k a s
  | .npenter a => Sys2Proof.Machine.execNpenter a s
  | .send a b => Sys2Proof.Machine.execSend a b s
  | .recvpost k a b => Sys2Proof.Machine.execRecvpost k a b s
  | .rinit a => Sys2Proof.Machine.execRinit a s
  | .rgrab d a => Sys2Proof.Machine.execRgrab d a s
  | .cred d a b => Sys2Proof.Machine.execCred d a b s
  | .credExact d a b => Sys2Proof.Machine.execCredExact d a b s
  | .cmc d a b => Sys2Proof.Machine.execCmc d a b s
  | .cag d a b => Sys2Proof.Machine.execCag d a b s
  | .lAdd h t sat d a b => Sys2Proof.Machine.execLAdd h t sat d a b s
  | .lSub h t sat d a b => Sys2Proof.Machine.execLSub h t sat d a b s
  | .lMul h t sat d a b => Sys2Proof.Machine.execLMul h t sat d a b s
  | .lMulhi h t d a b => Sys2Proof.Machine.execLMulhi h t d a b s
  | .lMad h t sat d a b c => Sys2Proof.Machine.execLMad h t sat d a b c s
  | .lMin h t d a b => Sys2Proof.Machine.execLMin h t d a b s
  | .lMax h t d a b => Sys2Proof.Machine.execLMax h t d a b s
  | .lAbs h t sat d a => Sys2Proof.Machine.execLAbs h t sat d a s
  | .lNeg h t sat d a => Sys2Proof.Machine.execLNeg h t sat d a s
  | .lSum3 h t sat d a b c => Sys2Proof.Machine.execLSum3 h t sat d a b c s
  | .lClamp h t sat d a b c => Sys2Proof.Machine.execLClamp h t sat d a b c s
  | .lQdot h signed sat d a b c => Sys2Proof.Machine.execLQdot h signed sat d a b c s
  | .lHdot h signed sat d a b c => Sys2Proof.Machine.execLHdot h signed sat d a b c s
  | .lMulfull h signed d a b => Sys2Proof.Machine.execLMulfull h signed d a b s
  | .lAnd h d a b => Sys2Proof.Machine.execLAnd h d a b s
  | .lOr h d a b => Sys2Proof.Machine.execLOr h d a b s
  | .lXor h d a b => Sys2Proof.Machine.execLXor h d a b s
  | .lNot h d a => Sys2Proof.Machine.execLNot h d a s
  | .lShl h d a b => Sys2Proof.Machine.execLShl h d a b s
  | .lShr h d a b => Sys2Proof.Machine.execLShr h d a b s
  | .lSra h signed d a b => Sys2Proof.Machine.execLSra h signed d a b s
  | .lRot h d a b => Sys2Proof.Machine.execLRot h d a b s
  | .lPopc h d a => Sys2Proof.Machine.execLPopc h d a s
  | .lClz h d a => Sys2Proof.Machine.execLClz h d a s
  | .lBrev h d a => Sys2Proof.Machine.execLBrev h d a s
  | .lBfx h signed d a b c => Sys2Proof.Machine.execLBfx h signed d a b c s
  | .lBfi h d a b c => Sys2Proof.Machine.execLBfi h d a b c s
  | .lBytesel h d a b c => Sys2Proof.Machine.execLBytesel h d a b c s
  | .lTruth h d a b c table => Sys2Proof.Machine.execLTruth h d a b c table s
  | .lScadd h d a b n => Sys2Proof.Machine.execLScadd h d a b n s
  | .lFunnel h lo d a b c => Sys2Proof.Machine.execLFunnel h lo d a b c s
  | .lFadd h t r d a b => Sys2Proof.Machine.execLFadd h t r d a b s
  | .lFsub h t r d a b => Sys2Proof.Machine.execLFsub h t r d a b s
  | .lFmul h t r d a b => Sys2Proof.Machine.execLFmul h t r d a b s
  | .lFma h t r d a b c => Sys2Proof.Machine.execLFma h t r d a b c s
  | .lFdot2 h bf r d a b c => Sys2Proof.Machine.execLFdot2 h bf r d a b c s
  | .lFmin h t d a b => Sys2Proof.Machine.execLFmin h t d a b s
  | .lFmax h t d a b => Sys2Proof.Machine.execLFmax h t d a b s
  | .lFclamp h t d a b c => Sys2Proof.Machine.execLFclamp h t d a b c s
  | .lFabs h t d a => Sys2Proof.Machine.execLFabs h t d a s
  | .lFneg h t d a => Sys2Proof.Machine.execLFneg h t d a s
  | .lFcpsgn h t d a b => Sys2Proof.Machine.execLFcpsgn h t d a b s
  | .lFrnd h t r d a => Sys2Proof.Machine.execLFrnd h t r d a s
  | .lFdiv h d a b => Sys2Proof.Machine.execLFdiv h d a b s
  | .lFsqrt h d a => Sys2Proof.Machine.execLFsqrt h d a s
  | .lFrcp h d a => Sys2Proof.Machine.execLFrcp h d a s
  | .lFrsq h d a => Sys2Proof.Machine.execLFrsq h d a s
  | .lFexp2 h d a => Sys2Proof.Machine.execLFexp2 h d a s
  | .lFlog2 h d a => Sys2Proof.Machine.execLFlog2 h d a s
  | .lFsin h d a => Sys2Proof.Machine.execLFsin h d a s
  | .lFcos h d a => Sys2Proof.Machine.execLFcos h d a s
  | .lFldexp h r d a b => Sys2Proof.Machine.execLFldexp h r d a b s
  | .lFclass h d a => Sys2Proof.Machine.execLFclass h d a s
  | .lCvt h df sf r sat d a => Sys2Proof.Machine.execLCvt h df sf r sat d a s
  | .lCvtpk h df sf r sat d a b => Sys2Proof.Machine.execLCvtpk h df sf r sat d a b s
  | .lQblk h df r sat d a b => Sys2Proof.Machine.execLQblk h df r sat d a b s
  | .lDqblk h sf d a b => Sys2Proof.Machine.execLDqblk h sf d a b s
  | .lIcmp h t c d a b => Sys2Proof.Machine.execLIcmp h t c d a b s
  | .lFcmp h t c d a b => Sys2Proof.Machine.execLFcmp h t c d a b s
  | .lSel h d a b m => Sys2Proof.Machine.execLSel h d a b m s
  | .lMlogic h f d a b => Sys2Proof.Machine.execLMlogic h f d a b s
  | .lPass h m d a b => Sys2Proof.Machine.execLPass h m d a b s
  | .lVote h f d a => Sys2Proof.Machine.execLVote h f d a s
  | .lRed h f d a => Sys2Proof.Machine.execLRed h f d a s
  | .lScan h signed excl d a => Sys2Proof.Machine.execLScan h signed excl d a s
  | .lMov h d a => Sys2Proof.Machine.execLMov h d a s
  | .lLtid h d => Sys2Proof.Machine.execLLtid h d s
  | .lNop bnd => Sys2Proof.Machine.execLNop bnd s
  | .lLd h t mc d a off => Sys2Proof.Machine.execLLd h t mc d a off s
  | .lSt h t mc a b off => Sys2Proof.Machine.execLSt h t mc a b off s
  | .lLdw h t wf clr d a off => Sys2Proof.Machine.execLLdw h t wf clr d a off s
  | .lLdg h wide d a b off => Sys2Proof.Machine.execLLdg h wide d a b off s
  | .lBld h d rec b off => Sys2Proof.Machine.execLBld h d rec b off s
  | .lBst h rec b c off => Sys2Proof.Machine.execLBst h rec b c off s
  | .lAmo h f signed sp d a b off => Sys2Proof.Machine.execLAmo h f signed sp d a b off s
  | .lAmo3 h f signed sp res d a b c => Sys2Proof.Machine.execLAmo3 h f signed sp res d a b c s
  | .lRld h t d a b c off => Sys2Proof.Machine.execLRld h t d a b c off s
  | .lXform h e o a b c => Sys2Proof.Machine.execLXform h e o a b c s
  | .lXeval h d e o a b => Sys2Proof.Machine.execLXeval h d e o a b s
  | .lXnear h a b off => Sys2Proof.Machine.execLXnear h a b off s
  | .runReady h => Sys2Proof.Machine.execRunReady h s
  | .laneArbitration c lane => Sys2Proof.Machine.execLaneArbitration c lane s
  | .runEnd h => Sys2Proof.Machine.execRunEnd h s
  | .breakerStage1 c => Sys2Proof.Machine.execBreakerStage1 c s
  | .breakerStage2 c => Sys2Proof.Machine.execBreakerStage2 c s
  | .drainEnd h => Sys2Proof.Machine.execDrainEnd h s
  | .blockAdmission b => Sys2Proof.Machine.execBlockAdmission b s
  | .dispatchPlace p => Sys2Proof.Machine.execDispatchPlace p s
  | .dispatchReservation p => Sys2Proof.Machine.execDispatchReservation p s
  | .priorityPreemption p => Sys2Proof.Machine.execPriorityPreemption p s
  | .wfWaitRelease h => Sys2Proof.Machine.execWfWaitRelease h s
  | .fullEmptyWaitExpired h => Sys2Proof.Machine.execFullEmptyWaitExpired h s
  | .copySlotAccept c => Sys2Proof.Machine.execCopySlotAccept c s
  | .copyStart c => Sys2Proof.Machine.execCopyStart c s
  | .copyComplete c i0 => Sys2Proof.Machine.execCopyComplete c i0 s
  | .copyFailure c i0 why => Sys2Proof.Machine.execCopyFailure c i0 why s
  | .peerPacketArrival i0 => Sys2Proof.Machine.execPeerPacketArrival i0 s
  | .mmaSlotAccept c => Sys2Proof.Machine.execMmaSlotAccept c s
  | .followOnAccept c i0 => Sys2Proof.Machine.execFollowOnAccept c i0 s
  | .matrixFetch c => Sys2Proof.Machine.execMatrixFetch c s
  | .matrixFetchResume c => Sys2Proof.Machine.execMatrixFetchResume c s
  | .matrixFetchFatal c => Sys2Proof.Machine.execMatrixFetchFatal c s
  | .matrixCompute c => Sys2Proof.Machine.execMatrixCompute c s
  | .matrixRetire c => Sys2Proof.Machine.execMatrixRetire c s
  | .mgemmStep c => Sys2Proof.Machine.execMgemmStep c s
  | .mgemmCopies c => Sys2Proof.Machine.execMgemmCopies c s
  | .mgemmStop c => Sys2Proof.Machine.execMgemmStop c s
  | .translationEvict i0 => Sys2Proof.Machine.execTranslationEvict i0 s
  | .preemptBlock b => Sys2Proof.Machine.execPreemptBlock b s
  | .fetchFaultSwap h => Sys2Proof.Machine.execFetchFaultSwap h s
  | .blockResume b => Sys2Proof.Machine.execBlockResume b s
  | .npEntryComplete c => Sys2Proof.Machine.execNpEntryComplete c s
  | .stepNotice c => Sys2Proof.Machine.execStepNotice c s
  | .stepAdvance c => Sys2Proof.Machine.execStepAdvance c s
  | .npExitComplete c => Sys2Proof.Machine.execNpExitComplete c s
  | .rldWaitEnd h => Sys2Proof.Machine.execRldWaitEnd h s
  | .stepWaitExpired h => Sys2Proof.Machine.execStepWaitExpired h s
  | .rldTargetGone h => Sys2Proof.Machine.execRldTargetGone h s
  | .packetRoute i0 => Sys2Proof.Machine.execPacketRoute i0 s
  | .routerGrant site quad out => Sys2Proof.Machine.execRouterGrant site quad out s
  | .messageArrival i0 => Sys2Proof.Machine.execMessageArrival i0 s
  | .messageResend c => Sys2Proof.Machine.execMessageResend c s
  | .sendSlotAccept c => Sys2Proof.Machine.execSendSlotAccept c s
  | .congestionWindow site quad => Sys2Proof.Machine.execCongestionWindow site quad s
  | .rangeSlotAccept site => Sys2Proof.Machine.execRangeSlotAccept site s
  | .globalWritePerformed i0 => Sys2Proof.Machine.execGlobalWritePerformed i0 s
  | .cacheRevalidate c line => Sys2Proof.Machine.execCacheRevalidate c line s
  | .collectiveNewUse hub gid => Sys2Proof.Machine.execCollectiveNewUse hub gid s
  | .collectiveSlotAccept hub => Sys2Proof.Machine.execCollectiveSlotAccept hub s
  | .collectiveSourceRead i0 => Sys2Proof.Machine.execCollectiveSourceRead i0 s
  | .collectiveResultWrite i0 => Sys2Proof.Machine.execCollectiveResultWrite i0 s
  | .laneRepair port => Sys2Proof.Machine.execLaneRepair port s
  | .trapDelivery h => Sys2Proof.Machine.execTrapDelivery h s
  | .deferredTrapDelivery h => Sys2Proof.Machine.execDeferredTrapDelivery h s
  | .fatalEnd b => Sys2Proof.Machine.execFatalEnd b s
  | .joinNegotiation site record failed => Sys2Proof.Machine.execJoinNegotiation site record failed s
  | .cmdLaunch p => Sys2Proof.Machine.execCmdLaunch p s
  | .cmdPreemptGranule p => Sys2Proof.Machine.execCmdPreemptGranule p s
  | .cmdHaltAndCapture p => Sys2Proof.Machine.execCmdHaltAndCapture p s
  | .cmdResume p => Sys2Proof.Machine.execCmdResume p s
  | .cmdRefused p => Sys2Proof.Machine.execCmdRefused p s
  | .launchEligible p q => Sys2Proof.Machine.execLaunchEligible p q s
  | .launchComplete l => Sys2Proof.Machine.execLaunchComplete l s
  | .powerOnBringup hubGood present pkg => Sys2Proof.Machine.execPowerOnBringup hubGood present pkg s
  | .illegalInstruction slot => Sys2Proof.Machine.execIllegalInstruction slot s
  | .translationReplace i0 => Sys2Proof.Machine.execTranslationReplace i0 s
  | .faultDeclaredFatal i0 => Sys2Proof.Machine.execFaultDeclaredFatal i0 s
  | .invalidateCommand cx lo len => Sys2Proof.Machine.execInvalidateCommand cx lo len s
  | .translateRegion reed cx lo words => Sys2Proof.Machine.execTranslateRegion reed cx lo words s
  | .haltAndCapture p => Sys2Proof.Machine.execHaltAndCapture p s
  | .captureResume p => Sys2Proof.Machine.execCaptureResume p s
  | .rangeClaim p site r cx => Sys2Proof.Machine.execRangeClaim p site r cx s
  | .partialWriteError i0 => Sys2Proof.Machine.execPartialWriteError i0 s
  | .patrolScrub line => Sys2Proof.Machine.execPatrolScrub line s
  | .farTierLoss hub => Sys2Proof.Machine.execFarTierLoss hub s
  | .collectivePacketArrival hub part fn desc data => Sys2Proof.Machine.execCollectivePacketArrival hub part fn desc data s
  | .linkBurstReceive port seq ack flits crc lane => Sys2Proof.Machine.execLinkBurstReceive port seq ack flits crc lane s
  | .replayRequest port seq => Sys2Proof.Machine.execReplayRequest port seq s
  | .packageLost pkg => Sys2Proof.Machine.execPackageLost pkg s
  | .machineCheck e => Sys2Proof.Machine.execMachineCheck e s
  | .fenceUnit u cause => Sys2Proof.Machine.execFenceUnit u cause s
  | .dieOffline site => Sys2Proof.Machine.execDieOffline site s
  | .contextEntryValid p idx e => Sys2Proof.Machine.execContextEntryValid p idx e s
  | .hostWindowWrite p off data => Sys2Proof.Machine.execHostWindowWrite p off data s
  | .hostBar2Access write off n data => Sys2Proof.Machine.execHostBar2Access write off n data s
  | .mbBuildPartition image plan => Sys2Proof.Machine.execMbBuildPartition image plan s
  | .mbUnknownOp op => Sys2Proof.Machine.execMbUnknownOp op s
  | .registerWrite off v => Sys2Proof.Machine.execRegisterWrite off v s
  | .powerWindow m => Sys2Proof.Machine.execPowerWindow m s
  | .powerThermalEmergency m => Sys2Proof.Machine.execPowerThermalEmergency m s
  | .telemetryUpdate temps => Sys2Proof.Machine.execTelemetryUpdate temps s
  | .fetchPoisoned h => Sys2Proof.Machine.execFetchPoisoned h s
  | .syncrun => Sys2Proof.Machine.execSyncrun s
  | .yield => Sys2Proof.Machine.execYield s
  | .halt => Sys2Proof.Machine.execHalt s
  | .eret => Sys2Proof.Machine.execEret s
  | .sgleave => Sys2Proof.Machine.execSgleave s
  | .npexit => Sys2Proof.Machine.execNpexit s
  | .stepdone => Sys2Proof.Machine.execStepdone s
  | .faultService => Sys2Proof.Machine.execFaultService s
  | .spaceRecovered => Sys2Proof.Machine.execSpaceRecovered s
  | .mbReadGenerationRecord => Sys2Proof.Machine.execMbReadGenerationRecord s
  | .mbDissolvePartition => Sys2Proof.Machine.execMbDissolvePartition s
  | .mbSetPowerCap => Sys2Proof.Machine.execMbSetPowerCap s
  | .mbReadErrorLog => Sys2Proof.Machine.execMbReadErrorLog s
  | .mbStageFirmware => Sys2Proof.Machine.execMbStageFirmware s
  | .mbAttestationQuote => Sys2Proof.Machine.execMbAttestationQuote s
  | .mbReadmitDie => Sys2Proof.Machine.execMbReadmitDie s
  | .mailboxCommandEnd => Sys2Proof.Machine.execMailboxCommandEnd s

end Sys2Proof.Machine
end

