-- ==== Sys2Proof/Machine/Turns.lean ====
section
/-! DEFINITION. Whose turn it is (log 1): the agenda, the turns that the machine itself can take, and what a shuttle does
in its turn before its instruction executes (R28, R77, R308, R333, R342). -/

namespace Sys2Proof.Machine

/-- What a turn comes to: a state, or an instruction that executes in a state. -/
inductive Plan
  | done (s : State)
  | run (i : Instr) (s : State)

/-! ## The streams of a shuttle -/

/-- A control stream may go on: the shuttle runs, or drains inside a handler or with deferred traps pending (R86). -/
def State.controlGoes (s : State) (h : Nat) : Option Who :=
  match s.sh? h, s.blk? (blockOf h) with
  | some sh, some b =>
    if b.status == .resident && !b.stopping && b.fatal.isNone &&
        (sh.status == .running || (sh.status == .draining && (sh.handler || !sh.deferred.isEmpty))) then
      some { h := h, sh := sh, blk := b }
    else none
  | _, _ => none

/-- The next control word: the trap of a fetch (R333, R337), the swap-out for a fetch fault, or the instruction. -/
def State.nextWord (s : State) (w : Who) : Plan :=
  match s.fetchControl w with
  | .trap c => .done (s.fetchTrap w c)
  | .swap p => .done (s.fetchSwap w p)
  | .wait => .done (s.waits w .other)
  | .bytes x =>
    match decodeCtl x with
    | .error slot => .run (.illegalInstruction (Fin.ofNat 8 slot)) { s with cur := some w.h }
    | .ok i => .run i { s with cur := some w.h }

/-- A turn of a control stream: pending traps come first (R342). -/
def State.controlTurn (s : State) (h : Nat) : Plan :=
  match s.controlGoes h with
  | none => .done s
  | some w =>
    match s.boundary h w.sh with
    | some s' => .done s'
    | none => (s.enterTranslation w).nextWord w

/-- A turn of a lane: the next word of the run that the shuttle's lane executes. -/
def State.laneTurn (s : State) (h : Nat) : Plan :=
  match s.laneWord h with
  | some (_, _, i) => .run i { s with cur := some h }
  | none => .done s

/-- One half of each thread's bytes of a 16-byte global load is read ahead of the other (R255). -/
def State.halfLoad (s : State) (h : Nat) : State :=
  match s.laneWord h with
  | some (w, r, .lLd hd .b128 mc _ a off) =>
    if mc.space != .g || mc.inv || r.half.isSome then s
    else
      s.laneRead w 16 (forThreads (unserved (guardOf w.sh hd) r.replaced) (globalAddr s w r a off)) fun pas =>
        let upper : Bool := Config.freeChoice s.tick 14 % 2 == 1
        let bytes := pas.map fun e => (e.1, s.view w.blk.site w.blk.core (if upper then e.2 + 8 else e.2) 8)
        s.updSh h (·.updHead fun q => { q with half := some (upper, bytes) })
  | _ => s

/-- What a turn comes to. -/
def State.plan (s : State) (t : Turn) : Plan :=
  match t with
  | .control h => s.controlTurn h
  | .lane h => s.laneTurn h
  | .event i => .run i { s with cur := none }
  | .pass n => .done (s.clock n)
  | .copyUnit c i => .done (s.moveUnit c i)
  | .toDie i => .done (s.toDie i)
  | .split i => .done (s.split i)
  | .halfLoad h => .done (s.halfLoad h)
  | .granule c => .done (s.granule c)
  | .tlbFill site ctx page => .done (s.tlbFill site ctx page)
  | .dieFill site line => .done (s.dieFill site line)
  | .coreFill site core line => .done (s.coreFill site core line)
  | .invalidate i => .done (s.invalidate i)
  | .refetch b => .done (s.refetch b)
  | .translateFor h => .done (s.translatorTurn h)
  | .flit i j => .done (s.flit i j)
  | .replyEnter i => .done (s.replyEnter i)
  | .collDeliver _ id => .done (s.collDeliver id)
  | .podReport hub i => .done (s.podReport hub i)
  | .controlPage p => .done (s.controlPage p)
  | .capture p => .done (s.takeCapture p)
  | .bar0 write off n data => .done (s.bar0 write off n data)
  | .unknownOp => .done (s.unknownOp s.mgmt.mailbox.op)
  | .reserveShort => .done s.reserveShort
  | .contextLook p idx => .done (s.contextTurn p idx)
  | .offline site => .done (if (s.die site).leaving then s.dieOffline site else s)
  | .memCorrected hub => .done (s.memCorrected hub)
  | .rangeRetire site => .done (s.rangeRetire site)
  | .collectiveAck hub gid => .done (s.collectiveAck hub gid)
  | .strike line => .done (s.strike line)
  | .frames p pas => .done (s.giveFrames p pas)
  | .groupEntry p gid entry => .done (s.giveGroup p gid entry)
  | .allotRange site r ctx => .done (s.allotRange site r ctx)
  | .load ctx base file => .done (s.loadObj ctx base file)
  | .unload i => .done (s.unload i)
  | .corrected c => .done (s.correctError c)
  | .linkSend pkg flits => .done (s.linkSend pkg flits)
  | .linkMove port => .done (s.linkMove port)

/-! ## The machine's own turns -/

/-- Steps of other agents as turns. -/
def events (is : List Instr) : List Turn := is.map .event

/-- Turns of a shuttle. -/
def shuttleTurns (h : Nat) : List Turn :=
  [.control h, .lane h, .halfLoad h, .translateFor h] ++ events [.runReady h, .runEnd h, .drainEnd h, .wfWaitRelease h, .fullEmptyWaitExpired h,
    .fetchFaultSwap h, .rldWaitEnd h, .stepWaitExpired h, .rldTargetGone h, .trapDelivery h, .deferredTrapDelivery h]

/-- Turns of a core's engines, queues and lanes; the head of its send queue competes at its quad's router (R252). -/
def coreTurns (c : Nat) (k : Core) : List Turn :=
  events ((range 0 (Config.lanes (c / 128))).map (.laneArbitration c)) ++
  .granule c :: events [.breakerStage1 c, .breakerStage2 c, .copySlotAccept c, .copyStart c, .mmaSlotAccept c, .matrixFetch c,
    .matrixFetchResume c, .matrixFetchFatal c, .matrixCompute c, .matrixRetire c, .mgemmStep c, .mgemmCopies c, .mgemmStop c,
    .npEntryComplete c, .stepNotice c, .stepAdvance c, .npExitComplete c, .messageResend c, .sendSlotAccept c] ++
  ((range 0 k.copyQ.length).flatMap fun i =>
    .copyUnit c i :: events [.copyComplete c i, .followOnAccept c i, .copyFailure c i .uncorrectableRead,
      .copyFailure c i .peerLost]) ++
  (if k.sendQ.isEmpty then [] else events ((range 0 8).map (.routerGrant (c / 128) (c % 128 / 4))))

/-- Turns of a block; only a block that is being stopped is sealed. -/
def blockTurns (b : Nat) (k : Block) : List Turn :=
  .refetch b :: events ([.blockAdmission b, .blockResume b, .fatalEnd b] ++ if k.stopping then [.preemptBlock b] else [])

/-- Turns of a partition's dispatcher, queues and supervisor. -/
def partTurns (p : Nat) (x : Part) : List Turn :=
  .controlPage p :: .capture p :: (range 0 256).map (.contextLook p) ++ events ([.dispatchPlace p, .dispatchReservation p, .priorityPreemption p, .cmdLaunch p, .cmdPreemptGranule p,
    .cmdHaltAndCapture p, .cmdResume p, .cmdRefused p] ++ x.queues.map fun e => .launchEligible p e.1)

/-- Turns of a die: its range unit, its negotiation, and its caches, whose fills come at any time. -/
def State.dieTurns (s : State) (site : Nat) (d : Die) : List Turn :=
  [.rangeRetire site, .dieFill site (Config.freeChoice s.tick 1),
   .coreFill site (Config.freeChoice s.tick 2 % 128) (Config.freeChoice s.tick 1),
   .tlbFill site (Config.freeChoice s.tick 2) (Config.freeChoice s.tick 1)] ++
  (if d.leaving then [.offline site] else []) ++ events ([.rangeSlotAccept site] ++ (if d.negotiating then [.joinNegotiation site (Config.genRecord site) []] else []) ++
    d.coreCache.map fun e => .cacheRevalidate (128 * site + e.1 / 2 ^ 48) (e.1 % 2 ^ 48))

/-- Turns of a hub. -/
def hubTurns (n : Nat) (u : Hub) : List Turn :=
  events ([.collectiveSlotAccept n] ++ u.collQ.flatMap fun k => [.collectiveSourceRead k.id, .collectiveResultWrite k.id]) ++
    u.collQ.map (fun k => .collDeliver n k.id) ++ (range 0 u.podWaits.length).map (.podReport n) ++
    u.uses.flatMap fun e => [.event (.collectiveNewUse n e.1), .collectiveAck n e.1]

/-- Turns of the router torus for the packet at a position: its route, its flits, its arrival, and a reply's entry. -/
def netTurns (p : NetPacket) (i : Nat) : List Turn :=
  events [.packetRoute i, .messageArrival i] ++ (range 0 p.seats.length).map (.flit i) ++ [.replyEnter i] ++
    events (p.seats.flatMap fun a => (range 0 8).map (.routerGrant p.site a.quad))

/-- Turns that belong to the package: its networks, its writes on their way, its hub, its management plane. -/
def State.packageTurns (s : State) : List Turn :=
  (s.net.zipIdx.flatMap fun (p, i) => netTurns p i) ++
  events ((range 0 s.peers.length).map .peerPacketArrival) ++
  ((range 0 s.posted.length).flatMap fun i => [.toDie i, .split i, .event (.globalWritePerformed i)]) ++
  events ((range 0 s.trans.length).map .translationEvict) ++
  events (s.launches.map fun e => .launchComplete e.1) ++ events (s.ports.map fun e => .laneRepair e.1) ++
  s.ports.map (fun e => .linkMove e.1) ++ (range 0 s.invals.length).map .invalidate ++
  [.event .faultService, .reserveShort]

/-- Turns of the mailbox: the step of the command that GO has started (the image of a partition comes from outside, with its
own turn), the end of a command, and time. -/
def State.mailboxTurns (s : State) : List Turn :=
  let m := s.mgmt.mailbox
  (if !m.started then [] else match m.op with
    | 1 => events [.mbReadGenerationRecord]
    | 2 => []
    | 3 => events [.mbDissolvePartition]
    | 4 => events [.mbSetPowerCap]
    | 5 => events [.mbReadErrorLog]
    | 6 => events [.mbStageFirmware]
    | 7 => events [.mbAttestationQuote]
    | 8 => events [.mbReadmitDie]
    | _ => [.unknownOp]) ++ [.event .mailboxCommandEnd, .pass 1]

/-- The turns that the machine can take by itself: before bring-up, bring-up, whose images the hub verifies (R375); in recovery
those of the mailbox alone; otherwise those of every agent. A turn that is not due leaves the state as it is. -/
def State.ownTurns (s : State) : List Turn :=
  if !s.started then [.event (.powerOnBringup ((s.mgmt.firmware :: Config.bringupImages).all imageGood) (range 0 12) 0)]
  else if s.recovery then s.mailboxTurns
  else
    s.shuttles.flatMap (fun e => shuttleTurns e.1) ++ s.cores.flatMap (fun e => coreTurns e.1 e.2) ++
      s.blocks.flatMap (fun e => blockTurns e.1 e.2) ++ s.parts.flatMap (fun e => partTurns e.1 e.2) ++
      s.dies.flatMap (fun e => s.dieTurns e.1 e.2) ++ s.hubs.flatMap (fun e => hubTurns e.1 e.2) ++ s.packageTurns ++ s.mailboxTurns

/-- One of a list of turns: the only one, or the one that the hardware chooses. -/
def State.pick (s : State) (ts : List Turn) : Turn :=
  match ts with
  | [t] => t
  | _ => ts.getD (Config.freeChoice s.tick 0 % ts.length) (.pass 1)

/-- The next turn, and the state in which it is taken: the clocks have moved on. -/
def State.nextTurn (s : State) : Turn × State :=
  match s.agenda with
  | t :: ts => (t, State.clock { s with agenda := ts, tick := s.tick + 1 } 1)
  | [] => (s.pick s.ownTurns, State.clock { s with tick := s.tick + 1 } 1)

/-- What the next step comes to. -/
def State.nextPlan (s : State) : Plan := s.nextTurn.2.plan s.nextTurn.1

/-! ## Placing an instruction -/

/-- A kernel for a placed instruction: every feature, stores and tiles of some size. -/
def placedKern (pc : Nat) : Kern :=
  { entry := pc, laneAddr := 0, laneLen := 0, peak := 256, init := 0, shuttles := 1, astore := 65536, wstore := 65536,
    ctiles := 16, feat := 15 }

/-- A resident block of one shuttle, with its number. -/
def placedBlock (b pc now : Nat) : Block :=
  { newBlock 0 0 0 (placedKern pc) 1 1 1 0 4 [] false now with status := .resident, tiles := range 0 16, admitted := b }

/-- A shuttle at a position, with its runs; its registers are zero and every main-file name is bound. -/
def placedShuttle (pc : Nat) (runs : List Run) : Shuttle :=
  { idx := 0, slot := 0, s := Vector.replicate 64 0, k := (Vector.replicate 8 false).set 0 true,
    m := (Vector.replicate 8 0).set 0 0xFF, q := Vector.replicate 8 (Vector.replicate 8 0), lat := Vector.replicate 8 0,
    latOk := 0xFF, v := Vector.replicate 256 (some (Vector.replicate 8 0)), pc := BitVec.ofNat 64 pc, queue := runs, pend := [], resv := none,
    handler := false, trap := none, owed := none, held := none, laneTrap := none, deferred := [], status := .running, wait := .none,
    record := none, waitPages := [], fatalPages := [], hist := 0 }

/-- A run of one word that holds lane 0. -/
def placedRun (x : Nat) : Run :=
  { lword := 0, words := [x], off := 0, caps := Vector.replicate 64 0, ords := Vector.replicate 4 0, step := 0, lrunPc := 0,
    phase := .running 0, aside := 0, freed := 0, waited := false, since := none, pages := [], fatal := [],
    gone := [], repl := none, half := none }

/-- The position at which an instruction is placed. -/
def placedPc : Nat := 0x100000

/-- A shuttle with its block joins the machine and has the next turn. -/
def State.place (s : State) (runs : List Run) (turn : Nat → Turn) : State :=
  let b := s.nextId
  { s with
    agenda := turn (64 * b) :: s.agenda, nextId := b + 1
    blocks := Tab.set s.blocks b (placedBlock b placedPc s.now)
    shuttles := Tab.set s.shuttles (64 * b) (placedShuttle placedPc runs) }

/-- A control word stands at the shuttle's pc, in memory and in the native code that the shuttle is inside, followed by
words of zeros. -/
def State.placeControl (s : State) (w : Nat) : State :=
  let s1 := s.place [] .control
  let native : Translation :=
    { reed := true, run := false, ctx := 0, lo := placedPc, words := [w, 0, 0], current := true, inside := [64 * s.nextId] }
  { s1 with mem := s1.mem.writeN placedPc (wordBytes 32 w ++ List.replicate 8 0), trans := native :: s1.trans }

/-- A lane word stands in a run that executes. -/
def State.placeLane (s : State) (w : Nat) : State := s.place [placedRun w] .lane

end Sys2Proof.Machine
end

