-- ==== Sys2Proof/Machine/Step.lean ====
section
/-! DEFINITION. One step of the machine: the next turn is taken (log 1). -/

namespace Sys2Proof.Machine

/-- A turn that is done, or the effect of the instruction that it comes to. -/
def Plan.outcome (p : Plan) : Host.Outcome State Fault Refusal :=
  match p with
  | .done s => .next s
  | .run i s => exec i s

/-- One step: what the next turn comes to. -/
def step (s : State) : Host.Outcome State Fault Refusal := s.nextPlan.outcome

/-- The state in which the next step fetches and runs the instruction whose bits are `w` (log 1): a control word at the
pc of a shuttle whose turn comes, or a lane word in its run. -/
def State.withFetchWord (s : State) (nbits w : Nat) : State :=
  if nbits ≤ 32 then s.placeControl (w % 2 ^ nbits) else s.placeLane (w % 2 ^ nbits)

end Sys2Proof.Machine
end

