-- ==== Sys2Proof/Certificates/Slice0/Obligations.lean ====
section
/-! DEFINITION. The statements about the machine that are to be proved, in terms of its states and instructions. -/

/-! ## How the statements speak of a state -/

namespace Sys2Proof.Machine

/-- Two states differ in nothing but one shuttle, which is now `sh`: every other field of the machine, every other
shuttle, every byte of memory and every byte that any core reads is what it was. -/
def OnlyShuttle (s t : State) (h : Nat) (sh : Shuttle) : Prop :=
  t = { s with shuttles := t.shuttles } ∧ t.sh? h = some sh ∧ (∀ j, j ≠ h → t.sh? j = s.sh? j) ∧
    (∀ a, t.mem.read a = s.mem.read a) ∧ ∀ site core a, t.viewByte site core a = s.viewByte site core a

/-- The instruction answers a next state, in which only the executing shuttle has changed, and is now `sh`. -/
def Gives (i : Instr) (s : State) (w : Who) (sh : Shuttle) : Prop :=
  ∃ t, exec i s = .next t ∧ OnlyShuttle s t w.h sh

/-- The instruction completes with no other effect than the changes from the shuttle to `sh`: the pc is at the next word
and nothing is waited for. -/
def Completes (i : Instr) (s : State) (w : Who) (sh : Shuttle) : Prop :=
  Gives i s w { sh with pc := sh.pc + 4, wait := .none, waitPages := [], fatalPages := [], record := none }

/-- The instruction raises a precise trap of the control stream with the record `r`: the next state is the one that
`raise` gives, of which TrapEntry and HandlerTrapIsFatal say what it is. -/
def Traps (i : Instr) (s : State) (w : Who) (r : TrapRec) : Prop := exec i s = .next (s.raise w r)

/-- The state in which a turn is taken: the agenda, the step counter and the clock have moved on (log 1, log 5). -/
def State.ticked (s : State) (ts : List Turn) : State := State.clock { s with agenda := ts, tick := s.tick + 1 } 1

/-- The byte that a write of `b` to the physical address `a` leaves there: `b`, without the bits that are reserved in a trap
record in service or in the header of a window or a log (R11). -/
def State.kept (s : State) (a : Nat) (b : Byte) : Byte := ((s.keepRz [(a, b)]).map (·.2)).headD b

/-! ## Results of the scalar instructions -/

/-- The scalar register that an instruction of R113 to R115, R118, R119 or R131 writes, and its value. -/
def scalarResult (s : State) (w : Who) : Instr → Option (SReg × W64)
  | .addReg d a b t => some (d, cExt t (cInt t (w.sh.readS a) + cInt t (w.sh.readS b)))
  | .subReg d a b t => some (d, cExt t (cInt t (w.sh.readS a) - cInt t (w.sh.readS b)))
  | .mulReg d a b t => some (d, cExt t (cInt t (w.sh.readS a) * cInt t (w.sh.readS b)))
  | .mulh d a b t => some (d, cExt t (cInt t (w.sh.readS a) * cInt t (w.sh.readS b) / 2 ^ cWidth t))
  | .div d a b t =>
    some (d, cExt t (if cInt t (w.sh.readS b) = 0 then -1 else (cInt t (w.sh.readS a)).tdiv (cInt t (w.sh.readS b))))
  | .rem d a b t =>
    some (d, cExt t (cInt t (w.sh.readS a) -
      cInt t (w.sh.readS b) * (cInt t (w.sh.readS a)).tdiv (cInt t (w.sh.readS b))))
  | .minReg d a b t => some (d, cExt t (min (cInt t (w.sh.readS a)) (cInt t (w.sh.readS b))))
  | .maxReg d a b t => some (d, cExt t (max (cInt t (w.sh.readS a)) (cInt t (w.sh.readS b))))
  | .andReg d a b t => some (d, cExt t (cNat t (w.sh.readS a) &&& cNat t (w.sh.readS b) : Nat))
  | .orReg d a b t => some (d, cExt t (cNat t (w.sh.readS a) ||| cNat t (w.sh.readS b) : Nat))
  | .xorReg d a b t => some (d, cExt t (cNat t (w.sh.readS a) ^^^ cNat t (w.sh.readS b) : Nat))
  | .andn d a b t => some (d, cExt t (cNat t (w.sh.readS a) &&& (2 ^ cWidth t - 1 - cNat t (w.sh.readS b)) : Nat))
  | .shlReg d a b t => some (d, fShl t (w.sh.readS a) (w.sh.readS b))
  | .shrReg d a b t => some (d, fShr t (w.sh.readS a) (w.sh.readS b))
  | .sraReg d a b t => some (d, fSra t (w.sh.readS a) (w.sh.readS b))
  | .rotReg d a b t => some (d, fRot t (w.sh.readS a) (w.sh.readS b))
  | .popcReg d a t => some (d, fPopc t (w.sh.readS a))
  | .clzReg d a t => some (d, fClz t (w.sh.readS a))
  | .ctz d a t => some (d, fCtz t (w.sh.readS a))
  | .addImm d a i => some (d, w.sh.readS a + i.signExtend 64)
  | .andImm d a i => some (d, w.sh.readS a &&& i.signExtend 64)
  | .orImm d a i => some (d, w.sh.readS a ||| i.signExtend 64)
  | .xorImm d a i => some (d, w.sh.readS a ^^^ i.signExtend 64)
  | .shlImm d a n => some (d, w.sh.readS a <<< n.val)
  | .shrImm d a n => some (d, w.sh.readS a >>> n.val)
  | .sraImm d a n => some (d, (w.sh.readS a).sshiftRight n.val)
  | .mulImm d a i => some (d, w.sh.readS a * i.signExtend 64)
  | .lui d i => some (d, (i ++ 0#12).signExtend 64)
  | .apc d i => some (d, w.sh.pc + (i ++ 0#12).signExtend 64)
  | .csel d a b p n => some (d, if w.sh.readK p != n then w.sh.readS a else w.sh.readS b)
  | .movsk d => some (d, BitVec.ofNat 64 w.sh.predBits)
  | .mfs d v => some (d, BitVec.ofNat 64 (match v with
    | .tid => 8 * w.sh.idx
    | .shuttle => w.sh.idx
    | .blockX => w.blk.x
    | .blockY => w.blk.y
    | .blockZ => w.blk.z
    | .gridX => w.blk.gx
    | .gridY => w.blk.gy
    | .gridZ => w.blk.gz
    | .core => w.blk.core
    | .quad => w.blk.core / 4
    | .die => w.blk.site
    | .step => s.stepOf w.blk
    | .gen => if w.blk.site < 8 then 2 else 1))
  | _ => none

/-- The predicate that an instruction of R116 or R117 writes, and its value. -/
def predicateResult (w : Who) : Instr → Option (KReg × Bool)
  | .cmpReg k a b t c => some (k, match c with
    | .eq => decide (cInt t (w.sh.readS a) = cInt t (w.sh.readS b))
    | .ne => decide (cInt t (w.sh.readS a) ≠ cInt t (w.sh.readS b))
    | .lt => decide (cInt t (w.sh.readS a) < cInt t (w.sh.readS b))
    | .le => decide (cInt t (w.sh.readS a) ≤ cInt t (w.sh.readS b))
    | .gt => decide (cInt t (w.sh.readS a) > cInt t (w.sh.readS b))
    | .ge => decide (cInt t (w.sh.readS a) ≥ cInt t (w.sh.readS b)))
  | .cmpImm k a c i => some (k, match c with
    | .eq => decide (w.sh.readS a = i.signExtend 64)
    | .ne => decide (w.sh.readS a ≠ i.signExtend 64)
    | .ltS => (w.sh.readS a).slt (i.signExtend 64)
    | .ltN => (w.sh.readS a).ult (i.signExtend 64))
  | .kand d a b => some (d, w.sh.readK a && w.sh.readK b)
  | .kor d a b => some (d, w.sh.readK a || w.sh.readK b)
  | .kxor d a b => some (d, w.sh.readK a != w.sh.readK b)
  | .knot d a => some (d, !w.sh.readK a)
  | _ => none

/-- The control instructions of R75 whose wait for the queued runs is their first act: the others of Table 2 first
check the feature that they need. -/
def waitsFirst : Instr → Bool
  | .syncrun | .movsm .. | .movms .. | .fence .. | .halt | .sgjoin .. | .sgleave | .send .. | .recvpost .. | .eret => true
  | _ => false

/-- The control instructions of R75 that first check the feature `n` of the kernel: 4 the expansion unit, 8
neighbour-paced mode. -/
def waitsAfterFeature : Instr → Option Nat
  | .xclr .. | .xshift .. | .xm2l .. | .xl2l .. | .xadm .. | .xld .. | .xst .. | .xownTake .. | .xownRel .. | .ord .. =>
    some 4
  | .npenter .. | .npexit | .stepdone => some 8
  | _ => none

/-- A taken or untaken transfer of control: the target and the shuttle that goes there, before its pc changes. -/
def transfer (w : Who) : Instr → Option (W64 × Shuttle)
  | .br p n o => if w.sh.readK p != n then some (w.sh.pc + 4 * o.signExtend 64, w.sh) else none
  | .call p n o =>
    if w.sh.readK p != n then some (w.sh.pc + 4 * o.signExtend 64, w.sh.writeS 63 (w.sh.pc + 4)) else none
  | .loop d gt o =>
    let v := w.sh.readS d - 1
    if (if gt then (0#64).slt v else decide (v ≠ 0)) then some (w.sh.pc + 4 * o.signExtend 64, w.sh.writeS d v) else none
  | _ => none

/-- A transfer to a register's value: the register and the shuttle that goes there, before its pc changes. -/
def registerTransfer (w : Who) : Instr → Option (SReg × Shuttle)
  | .jr a => some (a, w.sh)
  | .ret a => some (a, w.sh)
  | .callr a => some (a, w.sh.writeS 63 (w.sh.pc + 4))
  | _ => none

/-- The address may be accessed by the control stream, at the physical address `pa` (R284). -/
def MayAccess (s : State) (w : Who) (write : Bool) (size va pa : Nat) : Prop :=
  s.check w.blk.site w.blk.ctx w.sh.fatalPages write 5 size [(0, va)] = .go [(0, pa)] ∧ s.farGone pa = false

/-- Beside that, the line that holds it is neither poisoned nor uncorrectable (R295). -/
def MayRead (s : State) (w : Who) (write : Bool) (size va pa : Nat) : Prop :=
  MayAccess s w write size va pa ∧ s.poisoned [(0, pa)] = []

/-- No table of contexts lies in the line of a physical address: a write there is no context's (R145). -/
def State.OffTables (s : State) (pa : Nat) : Prop :=
  ∀ e ∈ s.parts, pa / 64 * 64 + 64 ≤ e.2.table ∨ e.2.table + 16384 ≤ pa / 64 * 64

/-- No event object that a queued or running launch names lies among `n` bytes from `pa` on (R322). -/
def State.FreeOfEvents (s : State) (pa n : Nat) : Prop := ∀ o ∈ s.eventObjects, pa + n ≤ o ∨ o + 16 ≤ pa

/-- A word has an instruction of its own: it is no step of another agent. -/
def Instr.isWord (i : Instr) : Bool :=
  (encodeCtl i).isSome || (encodeLane i).isSome || match i with | .illegalInstruction _ => true | _ => false

end Sys2Proof.Machine

open Sys2Proof Sys2Proof.Machine

/-! ## Words (R28 to R46) -/

/-- Words that the spec writes out in full: LOOP.gt and JR (R126's example), MWAIT, LAUNCH, ERET, AMOS, LR, SC and MMA as
control words, and AMO3 and RLD as the bytes of lane words. -/
def Obligations.DecodeSpecWords : Prop :=
  decodeCtl 0x2C0FC000 = .ok (.jr 63) ∧ decodeCtl 0x88300000 = .ok (.mwait 3) ∧
    decodeCtl 0x34510607 = .ok (.launch 5 4 6) ∧ decodeCtl 0x34000003 = .ok .eret ∧
    decodeCtl 0x50510648 = .ok (.amos 5 4 6 .n64 .add) ∧ decodeCtl 0x50710000 = .ok (.lr 7 4 .s64) ∧
    decodeCtl 0x50810901 = .ok (.sc 8 4 9 .s64) ∧ decodeCtl 0x80320911 = .ok (.mma 3 8 9 .e4m3 false true) ∧
    decodeCtl 0x28401FFF = .ok (.loop 4 true 0xFFF#12) ∧
    decodeLane (leNat [0x00, 0x00, 0x00, 0x04, 0x02, 0x03, 0x08, 0x80, 0xB0, 0x01, 0x01, 0x56]) =
      .ok (.lAmo3 { bnd := false, mask := 0, neg := false } .addb false .g 2 (.main 6) (.uni 8) (.main 2 false)
        (.main 3 false)) ∧
    decodeLane (leNat [0x00, 0x00, 0x00, 0x00, 0x00, 0x0A, 0x27, 0x2C, 0x80, 0x01, 0x00, 0x58]) =
      .ok (.lRld { bnd := false, mask := 0, neg := false } .b32 (.main 6) (.main 2 false) (.uni 9) (.uni 10) 0)

/-- Every well-formed control instruction survives encoding: its word has 32 bits and decodes to it. -/
def Obligations.ControlEncodingRoundTrip : Prop :=
  ∀ (i : Instr) (x : Nat), i.wf = true → encodeCtl i = some x → x < 2 ^ 32 ∧ decodeCtl x = .ok i

/-- Every well-formed lane instruction survives encoding: its word has 96 bits and decodes to it. -/
def Obligations.LaneEncodingRoundTrip : Prop :=
  ∀ (i : Instr) (x : Nat), i.wf = true → encodeLane i = some x → x < 2 ^ 96 ∧ decodeLane x = .ok i

/-- A word has one meaning: what decodes is well formed and encodes to the same word, so no bit of a control or lane word
is ignored; and a control word whose major opcode is reserved is illegal with slot 0, whatever its other bits (R41,
R44). -/
def Obligations.WordsUnambiguous : Prop :=
  (∀ (x : Nat) (i : Instr), x < 2 ^ 32 → decodeCtl x = .ok i → i.wf = true ∧ encodeCtl i = some x) ∧
  (∀ (x : Nat) (i : Instr), x < 2 ^ 96 → decodeLane x = .ok i → i.wf = true ∧ encodeLane i = some x) ∧
  (∀ x : Nat, x < 2 ^ 32 →
    (x / 2 ^ 26 ∈ [0x00, 0x17, 0x1D, 0x1E, 0x1F, 0x23, 0x24, 0x25, 0x26, 0x27, 0x29, 0x2A, 0x2B, 0x2D, 0x2E, 0x2F, 0x32, 0x33] ∨
      0x35 ≤ x / 2 ^ 26) → decodeCtl x = .error 0)

/-! ## Steps -/

/-- A step runs the decoded instruction. A turn of a control stream that may go on and has no trap pending runs the
instruction that its word decodes to, or the illegal-instruction trap of the word (R44, R45); a turn of a lane runs
the instruction of the word at the offset of the shuttle's running run; a turn of another agent is its step. That
turns come from an agenda is log 1. -/
def Obligations.StepRunsDecoded : Prop :=
  (∀ (s : State) (ts : List Turn) (h x : Nat) (w : Who), s.agenda = .control h :: ts →
    (s.ticked ts).controlGoes h = some w → (s.ticked ts).boundary h w.sh = none →
    ((s.ticked ts).enterTranslation w).fetchControl w = .bytes x →
    (∀ i, decodeCtl x = .ok i → step s = exec i { (s.ticked ts).enterTranslation w with cur := some w.h }) ∧
    (∀ slot, decodeCtl x = .error slot →
      step s = exec (.illegalInstruction (Fin.ofNat 8 slot)) { (s.ticked ts).enterTranslation w with cur := some w.h })) ∧
  (∀ (s : State) (ts : List Turn),
    (∀ h w r i, s.agenda = .lane h :: ts → (s.ticked ts).laneWord h = some (w, r, i) →
      step s = exec i { s.ticked ts with cur := some h }) ∧
    (∀ i, s.agenda = .event i :: ts → step s = exec i { s.ticked ts with cur := none }))

/-- No data ends a run: a step answers a next state unless its turn is the event of a word's instruction, which is no
turn of another agent (turns are log 1's, and an open result is a free value, log 3). -/
def Obligations.StepAlwaysGoesOn : Prop :=
  ∀ s : State, (∀ i ts, s.agenda = .event i :: ts → Instr.isWord i = false) → ∃ t, step s = .next t

/-- Memory keeps its canonical form: addresses rise and no listed byte is what an unlisted address reads as (log 2). -/
def Obligations.StepKeepsMemoryForm : Prop :=
  ∀ s t : State, s.mem.wf = true → step s = .next t → t.mem.wf = true

/-- The machine at power-on: nothing joined, built, loaded or resident, memory with nothing listed and in its form, where each
byte reads 0 (log 2), the clock at 940 MHz (R7), every cap on memory-bound runs at 128 (R246); the power cap of 3600 W is log
6's. -/
def Obligations.ResetState : Prop :=
  State.reset.mem = [] ∧ State.reset.mem.wf = true ∧ State.reset.started = false ∧ State.reset.shuttles = [] ∧
    State.reset.blocks = [] ∧ State.reset.dies = [] ∧ State.reset.parts = [] ∧ State.reset.trans = [] ∧
    State.reset.mgmt.mhz = 940 ∧ State.reset.mgmt.cap = 3600 ∧ State.reset.mgmt.mailbox.busy = false ∧
    ∀ site, (State.reset.die site).joined = false ∧ (State.reset.core site).cap = 128

/-! ## Registers and scalar instructions (R70, R113 to R119) -/

/-- R70: s0 reads zero, k0 true and m0 0xFF, and writes to them are discarded; any other register reads what was written
last and a write to it leaves every other register alone. -/
def Obligations.HardwiredRegisters : Prop :=
  ∀ sh : Shuttle,
    (∀ r v, (sh.writeS r v).readS 0 = 0 ∧ (r = 0 → sh.writeS r v = sh) ∧ (r ≠ 0 → (sh.writeS r v).readS r = v) ∧
      (∀ q, q ≠ r → (sh.writeS r v).readS q = sh.readS q) ∧ sh.writeS r v = { sh with s := (sh.writeS r v).s }) ∧
    (∀ r v, (sh.writeK r v).readK 0 = true ∧ (r = 0 → sh.writeK r v = sh) ∧ (r ≠ 0 → (sh.writeK r v).readK r = v) ∧
      (∀ q, q ≠ r → (sh.writeK r v).readK q = sh.readK q) ∧ sh.writeK r v = { sh with k := (sh.writeK r v).k }) ∧
    (∀ r v, (sh.writeM r v).readM 0 = 0xFF ∧ (r = 0 → sh.writeM r v = sh) ∧ (r ≠ 0 → (sh.writeM r v).readM r = v) ∧
      (∀ q, q ≠ r → (sh.writeM r v).readM q = sh.readM q) ∧ sh.writeM r v = { sh with m := (sh.writeM r v).m })

/-- R113 on DIV and REM: by zero, DIV gives all ones of the type's width and REM the dividend; the most negative number by
−1 gives itself and 0; otherwise the quotient is truncated toward zero and a = b · q + r, r with the sign of a and
smaller than b. On shifts and counts, bit by bit: SHL and SHR by the width or more give 0, SRA shifts in copies of the
sign bit and at most width − 1 places, ROT turns by b mod width, and the counts of zero. -/
def Obligations.DivisionAndShiftValues : Prop :=
  (∀ (t : CType) (a b : W64),
    (cInt t b = 0 → fDiv t a b = cExt t (2 ^ cWidth t - 1) ∧ fRem t a b = cExt t (cInt t a)) ∧
    (cSigned t = true → cInt t a = -(2 ^ (cWidth t - 1)) → cInt t b = -1 → fDiv t a b = cExt t (cInt t a) ∧ fRem t a b = 0) ∧
    (cInt t b ≠ 0 → ¬(cInt t a = -(2 ^ (cWidth t - 1)) ∧ cInt t b = -1) →
      cInt t a = cInt t b * cInt t (fDiv t a b) + cInt t (fRem t a b) ∧
        (cInt t (fRem t a b)).natAbs < (cInt t b).natAbs ∧
        (0 ≤ cInt t a → 0 ≤ cInt t (fRem t a b)) ∧ (cInt t a ≤ 0 → cInt t (fRem t a b) ≤ 0))) ∧
  (∀ (t : CType) (a b : W64) (i : Nat), i < cWidth t →
    (fShl t a b).getLsbD i = (decide (b.toNat ≤ i) && a.getLsbD (i - b.toNat)) ∧
    (fShr t a b).getLsbD i = (decide (i + b.toNat < cWidth t) && a.getLsbD (i + b.toNat)) ∧
    (fSra t a b).getLsbD i = a.getLsbD (if i + b.toNat < cWidth t then i + b.toNat else cWidth t - 1) ∧
    (fRot t a b).getLsbD i = a.getLsbD ((i + cWidth t - b.toNat % cWidth t) % cWidth t) ∧
    (a.toNat % 2 ^ cWidth t = 0 → fClz t a = BitVec.ofNat 64 (cWidth t) ∧ fCtz t a = BitVec.ofNat 64 (cWidth t) ∧ fPopc t a = 0))

/-- The scalar instructions complete for every state and operand, with the result of `scalarResult` in their
destination register and nothing else changed; so do the compares and the predicate logic, with their predicate, and
MOVKS with k1 to k7 set from the bits of its register. Says that these forms complete, their own effect being the next
state of exec: addReg, subReg, mulReg, mulh, div, rem, minReg, maxReg, andReg, orReg, xorReg, andn, shlReg, shrReg,
sraReg, rotReg, popcReg, clzReg, ctz, addImm, andImm, orImm, xorImm, shlImm, shrImm, sraImm, mulImm, lui, apc, csel,
movsk, mfs, cmpReg, cmpImm, kand, kor, kxor, knot, movks. -/
def Obligations.ScalarResults : Prop :=
  (∀ (s : State) (w : Who) (i : Instr) (d : SReg) (v : W64), s.who? = some w → scalarResult s w i = some (d, v) →
    Completes i s w (w.sh.writeS d v)) ∧
  (∀ (s : State) (w : Who), s.who? = some w →
    (∀ i k v, predicateResult w i = some (k, v) → Completes i s w (w.sh.writeK k v)) ∧
    (∀ a, ∃ sh, Completes (.movks a) s w sh ∧ sh = { w.sh with k := sh.k } ∧
      ∀ n : KReg, n ≠ 0 → sh.readK n = (w.sh.readS a).getLsbD n.val))

/-! ## Waits for the queued runs, transfers of control (R75, R120 to R124) -/

/-- R121 and R122 whole: which words LOOP, JR, CALLR and RET are; LOOP counts down and branches in one step, and with
0 on entry LOOP.ne wraps and branches while LOOP.gt falls through; JR and RET set pc to the register, CALLR also s63,
its target read first. That LOOP of s0 tests the decremented value is log 88. Says that these forms complete, their
own effect being the next state of exec: loop, jr, callr, ret. -/
def Obligations.LoopAndRegisterTransfers : Prop :=
  (∀ (d : SReg) (sub a i : Nat), sub < 4 → a < 64 → i < 2 ^ 12 →
    decodeCtl (0x0A * 2 ^ 26 + d.val * 2 ^ 20 + a * 2 ^ 14 + sub * 2 ^ 12 + i) =
      if sub ≥ 2 then .error 0 else if a ≠ 0 then .error 2 else .ok (.loop d (sub == 1) (BitVec.ofNat 12 i))) ∧
  (∀ (d : Nat) (a : SReg) (b fn : Nat), d < 64 → b < 64 → fn < 256 →
    decodeCtl (0x0B * 2 ^ 26 + d * 2 ^ 20 + a.val * 2 ^ 14 + b * 2 ^ 8 + fn) =
      if fn ≥ 3 then .error 0 else if d ≠ 0 then .error 1 else if b ≠ 0 then .error 3
      else .ok (if fn = 0 then .jr a else if fn = 1 then .callr a else .ret a)) ∧
  ∀ (s : State) (w : Who), s.who? = some w →
    (∀ (d : SReg) (gt : Bool) (i : BitVec 12),
      (transfer w (.loop d gt i) = none → Completes (.loop d gt i) s w (w.sh.writeS d (w.sh.readS d - 1))) ∧
      (∀ t sh, transfer w (.loop d gt i) = some (t, sh) → s.sameSection w.blk.ctx w.sh.pc t = true →
        Gives (.loop d gt i) s w { sh with pc := t, wait := .none, waitPages := [], fatalPages := [] }) ∧
      (w.sh.readS d = 0 → (transfer w (.loop d gt i) = none ↔ gt = true))) ∧
    (∀ i a sh, registerTransfer w i = some (a, sh) → s.validTarget w.blk.ctx (w.sh.readS a) = true →
      Gives i s w { sh with pc := w.sh.readS a, wait := .none, waitPages := [], fatalPages := [] })

/-- R120: a taken BR or CALL goes to pc + 4 · sext64(offset), CALL with s63 := pc + 4; one not taken goes on at the
next word with s63 as it was. R124: a transfer whose target is not valid traps, with the target in ADDR, and the trap
finds the shuttle as it was: pc at the transferring word, s63 and the counter unchanged. Says that these forms
complete, their own effect being the next state of exec: br, call. -/
def Obligations.BranchTransfers : Prop :=
  (∀ (s : State) (w : Who) (p : KReg) (n : Bool) (o : BitVec 22), s.who? = some w →
    ((w.sh.readK p != n) = true → s.sameSection w.blk.ctx w.sh.pc (w.sh.pc + 4 * o.signExtend 64) = true →
      Gives (.br p n o) s w { w.sh with pc := w.sh.pc + 4 * o.signExtend 64, wait := .none, waitPages := [], fatalPages := [] } ∧
      Gives (.call p n o) s w
        { w.sh.writeS 63 (w.sh.pc + 4) with pc := w.sh.pc + 4 * o.signExtend 64, wait := .none, waitPages := [], fatalPages := [] }) ∧
    ((w.sh.readK p != n) = false → Completes (.br p n o) s w w.sh ∧ Completes (.call p n o) s w w.sh)) ∧
  (∀ (s : State) (w : Who), s.who? = some w →
    (∀ i t sh, transfer w i = some (t, sh) → s.sameSection w.blk.ctx w.sh.pc t = false →
      Traps i s w { cause := 0x155, addr := t.toNat }) ∧
    (∀ i a sh, registerTransfer w i = some (a, sh) →
      ((w.sh.readS a).toNat % 4 ≠ 0 ∨ 2 ^ 57 ≤ (w.sh.readS a).toNat ∨
        ∀ o ∈ s.objs, o.ctx ≠ w.blk.ctx ∨ (w.sh.readS a).toNat < o.ctlLo ∨ o.ctlLo + o.ctlLen ≤ (w.sh.readS a).toNat) →
      Traps i s w { cause := 0x152, addr := (w.sh.readS a).toNat }))

/-! ## Traps and the return from them (R340 to R344) -/

/-- R339: the fields of a trap record that software reads, where each lies in the 128 bytes. -/
def Obligations.TrapRecordFields : Prop :=
  ∀ (r : TrapRec) (s : State) (blk : Block) (sh : Shuttle), r.cause < 2 ^ 9 → r.tmask < 256 → r.cpc < 2 ^ 57 →
    r.lword < 2 ^ 20 → r.roff < 32 → r.addr < 2 ^ 64 → r.ipc < 2 ^ 57 →
    bitsOf (r.word s blk sh) 15 0 = r.cause ∧ bitsOf (r.word s blk sh) 16 16 = bitNat r.lane ∧
      bitsOf (r.word s blk sh) 17 17 = bitNat r.defer ∧ bitsOf (r.word s blk sh) 18 18 = bitNat r.drain ∧
      bitsOf (r.word s blk sh) 25 24 = 0 ∧ bitsOf (r.word s blk sh) 39 32 = r.tmask ∧
      bitsOf (r.word s blk sh) 120 64 = r.cpc ∧ bitsOf (r.word s blk sh) 121 121 = bitNat r.lrunv ∧
      bitsOf (r.word s blk sh) 147 128 = r.lword ∧ bitsOf (r.word s blk sh) 152 148 = r.roff ∧
      bitsOf (r.word s blk sh) 287 224 = r.addr ∧ bitsOf (r.word s blk sh) 575 512 = (sh.s.get 60).toNat ∧
      bitsOf (r.word s blk sh) 639 576 = (sh.s.get 61).toNat ∧ bitsOf (r.word s blk sh) 696 640 = r.ipc ∧
      r.word s blk sh < 2 ^ 1024 ∧
    bitsOf (r.word s blk sh) 42 40 = r.opslot.getD (r.cause % 8) % 8 ∧
      bitsOf (r.word s blk sh) 47 43 = r.tile.getD 0 % 32 ∧ bitsOf (r.word s blk sh) 48 48 = bitNat r.tile.isSome ∧
      bitsOf (r.word s blk sh) 49 49 = bitNat r.tid.isSome ∧ bitsOf (r.word s blk sh) 59 50 = (r.tid.getD (0, 0)).1 % 1024 ∧
      bitsOf (r.word s blk sh) 223 160 = (r.tid.getD (0, 0)).2 % 2 ^ 64 ∧
    bitsOf (r.word s blk sh) 303 288 = blk.x % 2 ^ 16 ∧ bitsOf (r.word s blk sh) 319 304 = blk.y % 2 ^ 16 ∧
      bitsOf (r.word s blk sh) 335 320 = blk.z % 2 ^ 16 ∧ bitsOf (r.word s blk sh) 341 336 = sh.idx % 64 ∧
      bitsOf (r.word s blk sh) 351 344 = blk.ctx % 256 ∧ bitsOf (r.word s blk sh) 359 352 = s.pkg % 256 ∧
      bitsOf (r.word s blk sh) 363 360 = r.lostSite.getD blk.site % 16 ∧
      bitsOf (r.word s blk sh) 372 368 = (if r.lostSite.isSome then 31 else blk.core / 4 % 32) ∧
      bitsOf (r.word s blk sh) 382 376 = (if r.lostSite.isSome then 127 else blk.core % 128) ∧
      bitsOf (r.word s blk sh) 447 384 = (match s.launch? blk.launch with | some l => l.seq % 2 ^ 64 | none => 0) ∧
      bitsOf (r.word s blk sh) 455 448 = r.pending % 256 ∧ bitsOf (r.word s blk sh) 463 456 = r.lost % 256 ∧
    (∀ e ∈ [(15, 9), (23, 19), (31, 26), (63, 60), (127, 122), (159, 153), (343, 342), (367, 364), (375, 373), (383, 383),
        (511, 464), (1023, 697)], bitsOf (r.word s blk sh) e.1 e.2 = 0)

namespace Sys2Proof.Machine

/-- The frame of the shuttle lies in one page and may be written, from the physical address `pa` on, and no line of it is lost
(R294, R297, R340); its context `e` has a handler. -/
def CanDeliver (s : State) (w : Who) (e : CtxEntry) (pa : Nat) : Prop :=
  s.ctx? w.blk.ctx = some e ∧ e.handler ≠ 0 ∧ w.sh.handler = false ∧
    frameAddr e w.blk w.sh.idx / 65536 = (frameAddr e w.blk w.sh.idx + 255) / 65536 ∧
    (∀ i, i < 256 → s.farGone (pa + i) = false ∧ s.poisoned [(0, pa + i)] = []) ∧
    ∃ last, s.check w.blk.site w.blk.ctx w.sh.fatalPages true 5 1
      [(0, frameAddr e w.blk w.sh.idx), (1, frameAddr e w.blk w.sh.idx + 255)] = .go [(0, pa), (1, last)]

/-- A trap has been delivered (R340): handler mode at HANDLER with the frame's address in s60 and the cause in s61, the
queue as it was, the record and a replacement block of zeros in the frame as the shuttle's core reads it, and every other
byte, every other shuttle and memory unchanged. -/
def Delivered (s t : State) (w : Who) (e : CtxEntry) (pa : Nat) (r : TrapRec) : Prop :=
  (∃ sh, t.sh? w.h = some sh ∧ sh.handler = true ∧ sh.pc = BitVec.ofNat 64 e.handler ∧
    sh.s = (w.sh.s.set 60 (BitVec.ofNat 64 (frameAddr e w.blk w.sh.idx))).set 61 (BitVec.ofNat 64 r.cause) ∧
    sh.queue = w.sh.queue ∧ sh.trap = some r ∧ sh.wait = .none ∧ sh.k = w.sh.k ∧ sh.m = w.sh.m ∧ sh.q = w.sh.q ∧
    sh.v = w.sh.v ∧ sh.pend = w.sh.pend ∧ sh.resv = w.sh.resv ∧ sh.status = w.sh.status) ∧
  (∀ j, j ≠ w.h → t.sh? j = s.sh? j) ∧
  (∀ i, i < 256 → t.viewByte w.blk.site w.blk.core (pa + i) =
    s.kept (pa + i) (if i < 128 then BitVec.ofNat 8 (r.word s w.blk w.sh / 256 ^ i) else 0)) ∧
  (∀ site core a, (site, core) ≠ (w.blk.site, w.blk.core) ∨ a < pa ∨ pa + 256 ≤ a →
    t.viewByte site core a = s.viewByte site core a) ∧
  t.mem = s.mem ∧ t.blocks = s.blocks

end Sys2Proof.Machine

/-- R340 for a precise control trap without queued runs (R77): it is delivered at once, and the record says where.
TRAP and a word that is no instruction complete by taking their trap: cause 0x190 with the register's value in ADDR,
and 0x140 plus the slot (R44, R130). A control trap with queued runs is held: nothing happens but that the record
waits with the shuttle. Says that these forms complete, their own effect being the next state of exec: trap,
illegalInstruction. -/
def Obligations.TrapDelivery : Prop :=
  (∀ (s : State) (w : Who) (e : CtxEntry) (pa : Nat) (r : TrapRec), s.who? = some w → CanDeliver s w e pa →
    w.sh.queue = [] → w.sh.deferred = [] → Delivered s (s.raise w r) w e pa
      { r with code := s.codeHere w, cpc := w.sh.pc.toNat, drain := w.sh.status == .draining, pending := 0 }) ∧
  (∀ (s : State) (w : Who) (e : CtxEntry) (pa : Nat), s.who? = some w → CanDeliver s w e pa → w.sh.queue = [] →
    w.sh.deferred = [] →
    (∀ a, ∃ t, exec (.trap a) s = .next t ∧ Delivered s t w e pa
      { cause := 0x190, addr := (w.sh.readS a).toNat, code := s.codeHere w, cpc := w.sh.pc.toNat,
        drain := w.sh.status == .draining }) ∧
    (∀ slot : Fin 8, ∃ t, exec (.illegalInstruction slot) s = .next t ∧ Delivered s t w e pa
      { cause := 0x140 + slot.val, code := s.codeHere w, cpc := w.sh.pc.toNat, drain := w.sh.status == .draining })) ∧
  (∀ (s : State) (w : Who) (r : TrapRec), s.who? = some w → w.sh.handler = false → w.sh.queue ≠ [] ∨ w.sh.deferred ≠ [] →
    OnlyShuttle s (s.raise w r) w.h
      { w.sh with held := some { r with code := s.codeHere w }, wait := .other, waitPages := [], fatalPages := [] })

/-- R341 and R344: a precise trap in handler mode, and an LRUN there, is Fatal(0x198): the record waits for the end of
the block, every shuttle of it that has not exited stops, and no other shuttle, block or byte changes. That the record keeps the
replaced trap's fields, with CPC at the handler's word and DRAIN by the shuttle's status, is log 72. -/
def Obligations.HandlerTrapIsFatal : Prop :=
  ∀ (s : State) (w : Who) (r : TrapRec) (l : BitVec 20), s.who? = some w → w.sh.handler = true →
    (∃ t, exec (.lrun l) s = .next t ∧ (w.blk.fatal = none → ∃ k, t.blk? w.b = some k ∧ ∃ f, k.fatal = some (w.h, f) ∧
      f.cause = 0x198)) ∧
    (w.blk.fatal = none → (s.raise w r).blk? w.b =
      some { w.blk with fatal := some (w.h,
        { r with code := s.codeHere w, cpc := w.sh.pc.toNat, cause := 0x198, drain := w.sh.status == .draining }) }) ∧
    (∀ j sh, s.sh? j = some sh → (s.raise w r).sh? j =
      some (if blockOf j = w.b ∧ sh.status ≠ .exited then { sh with status := .fatal } else sh)) ∧
    (∀ b, b ≠ w.b → (s.raise w r).blk? b = s.blk? b) ∧ (s.raise w r).mem = s.mem ∧ (s.raise w r).posted = s.posted

/-- R343: ERET outside handler mode traps; in it, it returns with the frame that the shuttle's core reads, and the
return restores s60 and s61, leaves handler mode and goes on: at the word that trapped, past it under SKIP, at the
frame's CPC after another one, with the stopped run ready again after a lane trap (R246 lets one of a memory-bound
shuttle wait), or at CPC after a deferred trap, where a trap whose ERET the deferred one overtook is over too; a frame
that R343 rejects is Fatal(0x1A8). Says that these forms complete, their own effect being the next state of exec:
eret. -/
def Obligations.ReturnFromHandler : Prop :=
  ∀ (s : State) (w : Who), s.who? = some w →
    (w.sh.handler = false → w.sh.queue = [] → Traps .eret s w { cause := 0x188 }) ∧
    (∀ r e pa last, w.sh.handler = true → w.sh.trap = some r → s.ctx? w.blk.ctx = some e →
      s.check w.blk.site w.blk.ctx w.sh.fatalPages false 5 1
        [(0, frameAddr e w.blk w.sh.idx), (1, frameAddr e w.blk w.sh.idx + 255)] = .go [(0, pa), (1, last)] →
      frameAddr e w.blk w.sh.idx / 65536 = (frameAddr e w.blk w.sh.idx + 255) / 65536 →
      (∀ i, i < 256 → s.farGone (pa + i) = false ∧ s.poisoned [(0, pa + i)] = []) →
      ∃ f : Frame, f.word = leNat (s.view w.blk.site w.blk.core pa 128) ∧
        f.block = s.view w.blk.site w.blk.core (pa + 128) 128 ∧ exec .eret s = .next (s.returnFrom w r f)) ∧
    (∀ r f, w.sh.deferred = [] → s.resumeBad w r f = false →
      let out : State := s.leaveCode (· == w.h)
      let back : Shuttle := { w.sh with
        s := (w.sh.s.set 60 f.save60).set 61 f.save61, handler := false, trap := none, record := none, wait := .none,
        waitPages := [], fatalPages := [] }
      (r.defer = true → w.sh.owed = none →
        OnlyShuttle out (s.returnFrom w r f) w.h
          { back with pc := BitVec.ofNat 64 f.cpc, held := if f.cpc = r.cpc then w.sh.held else none }) ∧
      (∀ r0 word block, r.defer = true → w.sh.owed = some (r0, word, block) → r0.defer = false → r0.lane = false →
        bitsOf word 25 24 = 0 →
        (s.returnFrom w r f).sh? w.h = some { back with owed := none, pc := BitVec.ofNat 64 f.cpc }) ∧
      (r.defer = false → r.lane = false → f.cpc = r.cpc → f.repl = false → f.skip = false →
        OnlyShuttle out (s.returnFrom w r f) w.h { back with pc := BitVec.ofNat 64 r.cpc }) ∧
      (r.defer = false → r.lane = false → f.cpc = r.cpc → f.repl = false → f.skip = true →
        (∀ d a b m, r.instr ≠ some (.cpym d a b m)) →
        ∃ sh, (s.returnFrom w r f).sh? w.h = some sh ∧ sh = { back with pc := BitVec.ofNat 64 (r.cpc + 4) }) ∧
      (r.defer = false → r.lane = false → f.cpc ≠ r.cpc →
        (s.returnFrom w r f).sh? w.h = some { back with pc := BitVec.ofNat 64 f.cpc }) ∧
      (∀ q qs, r.defer = false → r.lane = true → r.cause ≠ 0x031 → w.sh.queue = q :: qs → f.repl = false →
        let q' : Run := if w.sh.memoryBound then q else { q with phase := .ready s.now }
        OnlyShuttle out (s.returnFrom w r f) w.h
          { back with pc := BitVec.ofNat 64 f.cpc, queue := (if f.skip then Run.onward q' else q') :: qs })) ∧
    (∀ r f, s.resumeBad w r f = true → w.blk.fatal = none → ∃ k g, (s.returnFrom w r f).blk? w.b = some k ∧
      k.fatal = some (w.h, g) ∧ g.cause = 0x1A8)

/-! ## LAUNCH (R133, R320) -/

/-- LAUNCH: outside the supervisor's block it traps with 0x180 and nothing is launched; in it, the record of 128 bytes
is judged, a failed check gives its code with bit 63 set, and an accepted launch enters its queue under the next
sequence number, which is the result. Says that these forms complete, their own effect being the next state of exec:
launch. -/
def Obligations.SupervisorLaunch : Prop :=
  ∀ (s : State) (w : Who) (d a b : SReg), s.who? = some w →
    (w.blk.supervisor = false → Traps (.launch d a b) s w { cause := 0x180 }) ∧
    (w.blk.supervisor = true → w.sh.record = none → (w.sh.readS a).toNat % 64 ≠ 0 →
      Traps (.launch d a b) s w { cause := 0x04D, tmask := 1, addr := (w.sh.readS a).toNat }) ∧
    (∀ p lo hi, w.blk.supervisor = true → w.sh.record = none → (w.sh.readS a).toNat % 64 = 0 →
      s.part? w.blk.part = some p → MayRead s w false 64 (w.sh.readS a).toNat lo →
      MayRead s w false 64 ((w.sh.readS a).toNat + 64) hi →
      let r := leNat (s.view w.blk.site w.blk.core lo 64 ++ s.view w.blk.site w.blk.core hi 64)
      (∀ c, s.judgeRecord w p r (w.sh.readS b).toNat = .error c →
        Completes (.launch d a b) s w (w.sh.writeS d (BitVec.ofNat 64 (2 ^ 63 + c)))) ∧
      (∀ l, s.judgeRecord w p r (w.sh.readS b).toNat = .ok l → (Tab.getD p.queues l.queue []).length < 16 →
        ∃ t, exec (.launch d a b) s = .next t ∧
          t.sh? w.h = some { w.sh.writeS d (BitVec.ofNat 64 (p.seq + 1)) with
            pc := w.sh.pc + 4, wait := .none, waitPages := [], fatalPages := [], record := none } ∧
          (∃ x, t.launch? (launchKey l.part (p.seq + 1)) = some x ∧ x = { l with seq := p.seq + 1, before := x.before }) ∧
          t.part? l.part = some { p with
            seq := p.seq + 1, queues := Tab.set p.queues l.queue (Tab.getD p.queues l.queue [] ++ [p.seq + 1]) } ∧
          t.mem = s.mem ∧ t.posted = s.posted ∧ t.blocks = s.blocks ∧ ∀ j, j ≠ w.h → t.sh? j = s.sh? j))

/-! ## Scalar loads, stores and atomics (R127, R128, R284, R289 to R292) -/

/-- LDS completes with the bytes that its core reads, zero-extended or sign-extended, in sd, and changes nothing else.
STS completes: in space G its bytes are posted, so that its core reads them at once and no other core's reading, nor
memory, nor any other byte changes; in space A the block's store holds them and no other byte, full bit, block or
memory changes. Only an MGEMM that owns the bytes written is told (R187). Says that these forms complete, their own
effect being the next state of exec: ldsG, ldsGSigned, ldsA, stsG, stsA. -/
def Obligations.ScalarAccesses : Prop :=
  (∀ (s : State) (w : Who) (d a : SReg) (i : BitVec 12), s.who? = some w →
    (∀ (z : LdsU) pa, MayRead s w false (ldsUSize z) (w.sh.readS a + i.signExtend 64).toNat pa →
      Completes (.ldsG d a z i) s w
        (w.sh.writeS d (BitVec.ofNat 64 (leNat (s.view w.blk.site w.blk.core pa (ldsUSize z)))))) ∧
    (∀ (z : LdsS) pa, MayRead s w false (ldsSSize z) (w.sh.readS a + i.signExtend 64).toNat pa →
      Completes (.ldsGSigned d a z i) s w (w.sh.writeS d (BitVec.ofInt 64
        (toSigned (8 * ldsSSize z) (leNat (s.view w.blk.site w.blk.core pa (ldsSSize z))))))) ∧
    (∀ wide : Bool,
      let size := if wide then 8 else 4
      let off := (w.sh.readS a + i.signExtend 64).toNat % 2 ^ 32
      off + size ≤ w.blk.a.bytes → off % size = 0 →
        Completes (.ldsA d a wide i) s w (w.sh.writeS d (BitVec.ofNat 64 (leNat (w.blk.a.readN off size)))))) ∧
  (∀ (s : State) (w : Who) (d a : SReg) (i : BitVec 12), s.who? = some w →
    (∀ (z : LdsU) pa, MayAccess s w true (ldsUSize z) (w.sh.readS a + i.signExtend 64).toNat pa →
      ∃ t, exec (.stsG d a z i) s = .next t ∧ t = { s with shuttles := t.shuttles, posted := t.posted } ∧
        t.sh? w.h = some w.sh.advance ∧ (∀ j, j ≠ w.h → t.sh? j = s.sh? j) ∧
        (∀ n, n < ldsUSize z →
          t.viewByte w.blk.site w.blk.core (pa + n) = s.kept (pa + n) ((w.sh.readS d >>> (8 * n)).setWidth 8)) ∧
        (∀ site core x, (site, core) ≠ (w.blk.site, w.blk.core) ∨ x < pa ∨ pa + ldsUSize z ≤ x →
          t.viewByte site core x = s.viewByte site core x)) ∧
    (∀ wide : Bool,
      let size := if wide then 8 else 4
      let off := (w.sh.readS a + i.signExtend 64).toNat % 2 ^ 32
      off + size ≤ w.blk.a.bytes → off % size = 0 →
        ∃ t, exec (.stsA d a wide i) s = .next t ∧
          t = { s with shuttles := t.shuttles, blocks := t.blocks, cores := t.cores, older := t.older } ∧
          t.sh? w.h = some w.sh.advance ∧ (∀ j, j ≠ w.h → t.sh? j = s.sh? j) ∧ (∀ b, b ≠ w.b → t.blk? b = s.blk? b) ∧
          (∀ c, { t.core c with matQ := [] } = { s.core c with matQ := [] }) ∧
          ∃ k, t.blk? w.b = some k ∧ k = { w.blk with a := k.a } ∧ k.a.full = w.blk.a.full ∧ k.a.bytes = w.blk.a.bytes ∧
            (∀ n, n < size → k.a.read (off + n) = (w.sh.readS d >>> (8 * n)).setWidth 8) ∧
            ∀ x, x < off ∨ off + size ≤ x → k.a.read x = w.blk.a.read x))

/-- R289: the new value of every always successful function of an atomic, over the values that its type reads, and the
success and value of cas and addb. -/
def Obligations.AtomicValues : Prop :=
  ∀ (sg : Bool) (n old x c : Nat), (n = 32 ∨ n = 64) → old < 2 ^ n → x < 2 ^ n → c < 2 ^ n →
    amoNew .add sg n old x = (old + x) % 2 ^ n ∧
    amoVal sg n (amoNew .min sg n old x) = min (amoVal sg n old) (amoVal sg n x) ∧
    amoVal sg n (amoNew .max sg n old x) = max (amoVal sg n old) (amoVal sg n x) ∧
    amoNew .and sg n old x = old &&& x ∧ amoNew .or sg n old x = old ||| x ∧ amoNew .xor sg n old x = old ^^^ x ∧
    amoNew .xchg sg n old x = x ∧ amoNew .incw sg n old x = (if old < x then old + 1 else 0) ∧
    amo3New .cas sg n old x c = (if old = c then some x else none) ∧
    (∀ v, amo3New .addb sg n old x c = some v →
      v < 2 ^ n ∧ amoVal sg n v = amoVal sg n old + amoVal sg n x ∧ amoVal sg n v ≤ amoVal sg n c ∧
        amoVal sg n old ≤ amoVal sg n c) ∧
    (amo3New .addb sg n old x c = none →
      amoVal sg n c < amoVal sg n old ∨ amoVal sg n c < amoVal sg n old + amoVal sg n x ∨
        amoVal sg n old + amoVal sg n x < (if sg then -(2 ^ (n - 1)) else 0) ∨
        (if sg then 2 ^ (n - 1) else 2 ^ n) ≤ amoVal sg n old + amoVal sg n x)

/-- AMOS, LR and SC where no write to the line is under way, the page is not compressed, no table of contexts lies in
the line and no launch names the bytes as its event object: AMOS returns the old value and memory holds the new one,
its bytes alone changed; LR returns the value, reserves the granule and changes nothing but its core's and its die's
copies of the line, which it reads as memory holds it from then on; SC with the reservation writes and gives 0,
without it writes nothing and gives 1, and clears it either way. A write clears every other reservation of the
granule. Says that these forms complete, their own effect being the next state of exec: amos, lr, sc. -/
def Obligations.ControlAtomics : Prop :=
  ∀ (s : State) (w : Who) (d a b : SReg) (t : CType) (pa : Nat), s.who? = some w →
    let va := (w.sh.readS a).toNat
    let size := cWidth t / 8
    let old := leNat (s.mem.readN pa size)
    s.mem.wf = true → (∀ p ∈ s.posted, p.line ≠ pa / 64 ∧ ∀ c ∈ p.cells, c.1 / 64 ≠ pa / 64) → s.OffTables pa → s.compressedAt w.blk.site w.blk.ctx va = false → pa % size = 0 →
    s.FreeOfEvents pa size →
    (∀ f, MayRead s w true size va pa →
      ∃ t', exec (.amos d a b t f) s = .next t' ∧
        (∃ sh, t'.sh? w.h = some sh ∧ sh.s = (w.sh.writeS d (cExt t old)).s ∧ sh.pc = w.sh.pc + 4 ∧ sh.k = w.sh.k) ∧
        (∀ n, n < size → t'.mem.read (pa + n) =
          s.kept (pa + n) (BitVec.ofNat 8 (amoNew f (cSigned t) (cWidth t) old (cNat t (w.sh.readS b)) / 256 ^ n))) ∧
        (∀ x, x < pa ∨ pa + size ≤ x → t'.mem.read x = s.mem.read x) ∧
        (∀ j sh, t'.sh? j = some sh → sh.resv ≠ some (pa / 64))) ∧
    (MayRead s w false size va pa →
      ∃ t', exec (.lr d a t) s = .next t' ∧ t' = { s with shuttles := t'.shuttles, dies := t'.dies } ∧
        t'.sh? w.h = some { (w.sh.writeS d (cExt t old)).advance with resv := some (pa / 64) } ∧
        (∀ j, j ≠ w.h → t'.sh? j = s.sh? j) ∧
        ∀ n, n < 64 → t'.viewByte w.blk.site w.blk.core (pa / 64 * 64 + n) = s.mem.read (pa / 64 * 64 + n)) ∧
    (MayAccess s w true size va pa → w.sh.resv ≠ some (pa / 64) →
      Completes (.sc d a b t) s w { w.sh.writeS d 1 with resv := none }) ∧
    (MayAccess s w true size va pa → w.sh.resv = some (pa / 64) → s.poison.contains (pa / 64) = false →
      s.bad.contains (pa / 64) = false →
      ∃ t', exec (.sc d a b t) s = .next t' ∧
        (∃ sh, t'.sh? w.h = some sh ∧ sh.s = (w.sh.writeS d 0).s ∧ sh.resv = none ∧ sh.pc = w.sh.pc + 4 ∧ sh.k = w.sh.k) ∧
        (∀ n, n < size → t'.mem.read (pa + n) = s.kept (pa + n) (BitVec.ofNat 8 ((w.sh.readS b).toNat / 256 ^ n))) ∧
        (∀ x, x < pa ∨ pa + size ≤ x → t'.mem.read x = s.mem.read x))

/-! ## Runs, waits and order (R73 to R76, R85, R119, R125, R126, R129, R130, R132) -/

/-- R75: a control instruction of Table 2 stands while the shuttle has queued runs; in handler mode the frozen queue
is not waited for (R341). LRUN queues the words it validated with its captures, or traps, or stands at a full queue.
With no runs queued, or in handler mode, SYNCRUN commits the pending results in their order, MOVSM and MOVMS move a
mask, HALT leaves the shuttle draining with its results and its reservation gone, and in handler mode with an empty
queue (log 65). FENCE waits for what its predecessor set names (log 8) and then lets its core see what is performed at
its scope; ICINV.pkg drops the context's translations of its range and leaves those of other contexts (log 66), and a
shuttle inside one that waits executes its instruction again. Says that these forms complete, their own effect being
the next state of exec: lrun, syncrun, movsm, movms, halt, fence, yield, icinvPkg. -/
def Obligations.RunsSyncAndOrder : Prop :=
  ∀ (s : State) (w : Who), s.who? = some w →
    (w.sh.handler = false → w.sh.queue ≠ [] → w.sh.wait ≠ .slot →
      (∀ i, waitsFirst i = true → Gives i s w { w.sh with wait := .other }) ∧
      (∀ i n, waitsAfterFeature i = some n → w.blk.kern.feat &&& n = n → Gives i s w { w.sh with wait := .other })) ∧
    (∀ l, w.sh.handler = false →
      (∀ ws, s.validate w l.toNat = .run ws → formFault w.blk w.sh.idx 0 ws = none →
        (w.sh.queue.length < 4 → Completes (.lrun l) s w { w.sh with
          queue := w.sh.queue ++ [{
            lword := l.toNat, words := ws, off := 0, caps := w.sh.s.set 0 0, ords := w.blk.oregs, step := s.stepOf w.blk,
            lrunPc := w.sh.pc.toNat, phase := .queued, aside := 0, freed := 0, waited := false, since := none, pages := [],
            fatal := [], gone := [], repl := none, half := none }] }) ∧
        (4 ≤ w.sh.queue.length → Gives (.lrun l) s w { w.sh with wait := .other })) ∧
      (∀ c off, s.validate w l.toNat = .trap c off →
        Traps (.lrun l) s w { cause := c, lrunv := true, lword := l.toNat, roff := off }) ∧
      (s.validate w l.toNat = .wait → Gives (.lrun l) s w { w.sh with wait := .other })) ∧
    Completes .yield s w w.sh ∧
    (w.sh.drained = true →
      Completes .syncrun s w { w.sh.pend.foldl (fun x e => x.writeS e.1 e.2) w.sh with pend := [] } ∧
      (∀ d m, Completes (.movsm d m) s w (w.sh.writeS d ((w.sh.readM m).setWidth 64))) ∧
      (∀ m a, Completes (.movms m a) s w (w.sh.writeM m ((w.sh.readS a).setWidth 8))) ∧
      (∃ t sh, exec .halt s = .next t ∧ t.sh? w.h = some sh ∧ sh.status = .draining ∧ sh.pend = [] ∧ sh.resv = none ∧
        sh.queue = [] ∧ sh.handler = false ∧ sh.s = w.sh.s ∧ sh.k = w.sh.k ∧ sh.m = w.sh.m ∧ sh.v = w.sh.v ∧
        t.mem = s.mem ∧ t.posted = s.posted ∧ ∀ b, b ≠ w.b → t.blk? b = s.blk? b) ∧
      (∀ sc pred succ,
        ((pred = 0 ∨ succ = 0 ∨
            ((∀ k, k < 7 → pred.getLsbD k = true → s.performedKind w sc k = true) ∧ s.podDone w sc = true)) →
          ∃ t, exec (.fence sc pred succ) s = .next t ∧
            t = { s with shuttles := t.shuttles, dies := t.dies, older := t.older, posted := t.posted } ∧
            (t.posted.map fun p => ({ p with forCpy := none, forMma := none } : Posted)) =
              (s.posted.map fun p => ({ p with forCpy := none, forMma := none } : Posted)) ∧
            t.sh? w.h = some w.sh.advance ∧ (∀ j, j ≠ w.h → t.sh? j = s.sh? j) ∧
            (pred ≠ 0 → succ.getLsbD 0 = true → sc = .pkg ∨ sc = .pod → s.posted = [] →
              ∀ a, a < 2 ^ 48 → t.viewByte w.blk.site w.blk.core a = s.mem.read a)) ∧
        (∀ p ∈ s.posted, p.h = w.h → p.engine = none → p.notAt sc = true → pred.getLsbD 1 = true → succ ≠ 0 →
          Gives (.fence sc pred succ) s w { w.sh with wait := .memory }))) ∧
    (∀ a b : SReg,
      let lo := (w.sh.readS a).toNat
      let n := (w.sh.readS b).toNat
      (n = 0 → Completes (.icinvPkg a b) s w w.sh) ∧
      (n ≠ 0 → 2 ^ 57 < lo + n → Traps (.icinvPkg a b) s w { cause := 0x152, addr := lo }) ∧
      (n ≠ 0 → lo + n ≤ 2 ^ 57 → ∃ t, exec (.icinvPkg a b) s = .next t ∧
        let hit (x : Translation) : Bool := decide (x.ctx = w.blk.ctx ∧ x.lo < (lo + n + 63) / 64 * 64 ∧
          lo / 64 * 64 < x.lo + (if x.run then 12 else 4) * x.words.length)
        t.mem = s.mem ∧ t.posted = s.posted ∧ t.blocks = s.blocks ∧ t.sh? w.h = some w.sh.advance ∧
        (∀ j sh, j ≠ w.h → s.sh? j = some sh → (s.blk? (blockOf j)).isSome = true →
          t.sh? j = some (if s.trans.any (fun x => hit x && x.inside.contains j) then
            { sh with wait := .none, record := none, waitPages := [] } else sh)) ∧
        ∀ x, x ∈ t.trans ↔ x ∈ s.trans ∧ hit x = false))

/-! ## Barrier objects and the store's full bits (R142 to R144, R155 to R160) -/

namespace Sys2Proof.Machine

/-- The instruction answers a next state in which nothing but shuttles and the executing shuttle's block has changed: the
shuttle is now `sh`, the block `k`, any other shuttle what `other` makes of it; every byte of memory reads as before. -/
def Changes (i : Instr) (s : State) (w : Who) (sh : Shuttle) (k : Block) (other : Nat → Shuttle → Shuttle) : Prop :=
  ∃ t, exec i s = .next t ∧ t = { s with shuttles := t.shuttles, blocks := t.blocks } ∧ t.sh? w.h = some sh ∧
    (∀ j, j ≠ w.h → t.sh? j = (s.sh? j).map (other j)) ∧ t.blk? w.b = some k ∧ (∀ b, b ≠ w.b → t.blk? b = s.blk? b) ∧
    ∀ site core a, t.viewByte site core a = s.viewByte site core a

/-- Other shuttles as they were. -/
def same (_ : Nat) (x : Shuttle) : Shuttle := x

/-- A completed phase of object `n` of block `b` wakes every shuttle that waits on it (R144). -/
def wokenBy (done : Bool) (b n j : Nat) (x : Shuttle) : Shuttle :=
  if done ∧ blockOf j = b ∧ x.wait = .barrier n then { x with wait := .woken } else x

/-- The executing block with its object `n` replaced. -/
def withBar (w : Who) (n : Nat) (o : Barrier) : Block := { w.blk with bars := Tab.set w.blk.bars n o }

end Sys2Proof.Machine

/-- R143 whole: an arrival past EXPARR sets OVA, counts nothing and traps at the instruction with 0x0A3; otherwise it
is counted and checked. A landing counts its bytes, or saturates, sets OVB and defers 0x0A7 to the issuer, and is
checked either way. A check completes at most one phase: its bytes are taken off, ARRIVED is 0 and PHASE turns; else
it changes nothing. BARRIVE of s0 arrives 8 times (R157); that a count above 1023 sets OVA too is log 80. Says that
these forms complete, their own effect being the next state of exec: barrive. -/
def Obligations.BarrierPhases : Prop :=
  (∀ o : Barrier, o.check =
    if o.arrived = o.expArr ∧ o.landed ≥ o.expBytes then
      ({ o with landed := o.landed - o.expBytes, arrived := 0, phase := !o.phase }, true)
    else (o, false)) ∧
  (∀ (s : State) (w : Who) (a b : SReg) (n k : Nat), s.who? = some w → n = (w.sh.readS a).toNat → n < w.blk.nbars →
    (w.blk.bar n).init = true → k = (if b = 0 then 8 else (w.sh.readS b).toNat) → s.streamPeers w.h = false →
    let o := w.blk.bar n
    (o.arrived + k ≤ o.expArr →
      let c := ({ o with arrived := o.arrived + k } : Barrier).check
      Changes (.barrive a b) s w w.sh.advance (withBar w n c.1) (wokenBy c.2 w.b n)) ∧
    (o.arrived + k > o.expArr →
      exec (.barrive a b) s = .next ((s.updBlk w.b fun _ => withBar w n { o with ova := true }).raise w { cause := 0x0A3 }))) ∧
  (∀ (s : State) (b n bytes h : Nat) (r : TrapRec) (blk : Block), s.blk? b = some blk →
    let o := blk.bar n
    let past : Bool := o.landed + bytes > 0xFFFFFF
    let o1 := if past then { o with landed := 0xFFFFFF, ovb := true } else { o with landed := o.landed + bytes }
    (s.land b n bytes h r).blk? b = some { blk with bars := Tab.set blk.bars n o1.check.1 } ∧
      (∀ c, c ≠ b → (s.land b n bytes h r).blk? c = s.blk? c) ∧
      ∀ j sh, s.sh? j = some sh → (s.land b n bytes h r).sh? j =
        some (if past ∧ j = h then deferTo (wokenBy o1.check.2 b n j sh) { r with cause := 0x0A7 }
          else wokenBy o1.check.2 b n j sh))

/-- BINIT, BEXPECT, BWAIT and BTEST on an object of the block: BINIT initialises it, keeps PHASE, and empties the
range that sd describes; BEXPECT sets the expectations and checks; BWAIT completes when PHASE differs from the parity
or the phase it stood at has completed, and else waits; BTEST gives the result word. R155, R156, R157: what a barrier
instruction refuses, before any effect: an object beyond the allotment, one not initialised, a bad expectation word, a
range of some length beyond `.astore` (log 19; that TMASK names thread 0 there is log 29); and BARRIVE waits while a
peer store of the shuttle is not applied (R157). Says that these forms complete, their own effect being the next state
of exec: binit, bexpect, bwait, btest. -/
def Obligations.BarrierInstructions : Prop :=
  (∀ (s : State) (w : Who) (d a b : SReg) (n : Nat), s.who? = some w → n = (w.sh.readS a).toNat → n < w.blk.nbars →
    let o := w.blk.bar n
    let v := (w.sh.readS b).toNat
    let fresh : Barrier := { o with
      landed := 0, arrived := 0, ova := false, ovb := false, init := true, expBytes := v / 2 ^ 24 % 2 ^ 24, expArr := v % 2 ^ 10 }
    let legal : Prop := v / 2 ^ 48 = 0 ∧ v / 2 ^ 10 % 2 ^ 14 = 0 ∧ ¬(v % 2 ^ 10 = 0 ∧ v / 2 ^ 24 % 2 ^ 24 = 0)
    (legal → d = 0 → Changes (.binit d a b) s w w.sh.advance (withBar w n fresh) same) ∧
    (∀ off len, legal → d ≠ 0 → off = (w.sh.readS d).toNat % 2 ^ 32 → len = (w.sh.readS d).toNat / 2 ^ 32 →
      len = 0 ∨ off + len ≤ w.blk.a.bytes → Changes (.binit d a b) s w w.sh.advance
        { withBar w n fresh with a := w.blk.a.empty (granules off len) } same) ∧
    (o.init = true → legal → o.arrived ≤ v % 2 ^ 10 →
      let c := ({ o with expBytes := v / 2 ^ 24 % 2 ^ 24, expArr := v % 2 ^ 10 } : Barrier).check
      Changes (.bexpect a b) s w w.sh.advance (withBar w n c.1) (wokenBy c.2 w.b n)) ∧
    (o.init = true → (o.phase ≠ (w.sh.readS b).getLsbD 0 ∨ w.sh.wait = .woken) → Completes (.bwait a b) s w w.sh) ∧
    (o.init = true → o.phase = (w.sh.readS b).getLsbD 0 → w.sh.wait ≠ .woken →
      Gives (.bwait a b) s w { w.sh with wait := .barrier n }) ∧
    (o.init = true → Completes (.btest d a b) s w (w.sh.writeS d (BitVec.ofNat 64 (o.landed * 2 ^ 32 + 2 ^ 22 +
      bitNat o.ovb * 2 ^ 21 + bitNat o.ova * 2 ^ 20 + o.arrived * 2 ^ 10 + bitNat o.phase * 2 +
      bitNat (o.phase != (w.sh.readS b).getLsbD 0)))))) ∧
  (∀ (s : State) (w : Who) (d a b : SReg), s.who? = some w →
    let n := (w.sh.readS a).toNat
    let v := (w.sh.readS b).toNat
    let bad : Prop := v / 2 ^ 48 ≠ 0 ∨ v / 2 ^ 10 % 2 ^ 14 ≠ 0 ∨ (v % 2 ^ 10 = 0 ∧ v / 2 ^ 24 % 2 ^ 24 = 0)
    (n ≥ w.blk.nbars → ∀ i ∈ [Instr.binit d a b, .bexpect a b, .barrive a b, .bwait a b, .btest d a b],
      Traps i s w { cause := 0x09A }) ∧
    (n < w.blk.nbars → (w.blk.bar n).init = false →
      ∀ i ∈ [Instr.bexpect a b, .barrive a b, .bwait a b, .btest d a b], Traps i s w { cause := 0x092 }) ∧
    (n < w.blk.nbars → bad → Traps (.binit d a b) s w { cause := 0x0B3 }) ∧
    (n < w.blk.nbars → (w.blk.bar n).init = true → bad ∨ v % 2 ^ 10 < (w.blk.bar n).arrived →
      Traps (.bexpect a b) s w { cause := 0x0B3 }) ∧
    (n < w.blk.nbars → ¬bad → d ≠ 0 → (w.sh.readS d).toNat / 2 ^ 32 ≠ 0 →
      (w.sh.readS d).toNat % 2 ^ 32 + (w.sh.readS d).toNat / 2 ^ 32 > w.blk.a.bytes →
      Traps (.binit d a b) s w { cause := 0x085, tmask := 1, addr := (w.sh.readS d).toNat % 2 ^ 32 }) ∧
    (n < w.blk.nbars → (w.blk.bar n).init = true → s.streamPeers w.h = true →
      Gives (.barrive a b) s w { w.sh with wait := .memory }))

/-- R159 whole: the words of EMPTY, and its effect: every granule that the range touches becomes empty and no other
changes, a length of 0 has no effect, and a range past the region traps with nothing emptied. Says that these forms
complete, their own effect being the next state of exec: empty. -/
def Obligations.EmptyRule : Prop :=
  (∀ (d : Nat) (a b : SReg), d < 64 →
    decodeCtl (0x18 * 2 ^ 26 + d * 2 ^ 20 + a.val * 2 ^ 14 + b.val * 2 ^ 8 + 5) =
      if d = 1 then .ok (.empty false a b) else if d = 2 then .ok (.empty true a b) else .error 1) ∧
  ∀ (s : State) (w : Who) (ws : Bool) (a b : SReg), s.who? = some w →
    let off := (w.sh.readS a).toNat
    let len := (w.sh.readS b).toNat
    (len = 0 → Completes (.empty ws a b) s w w.sh) ∧
    (len ≠ 0 → off + len > (w.blk.store ws).bytes → ∃ r : TrapRec, r.cause = 0x085 ∧ Traps (.empty ws a b) s w r) ∧
    (len ≠ 0 → off + len ≤ (w.blk.store ws).bytes →
      ∃ st, Changes (.empty ws a b) s w w.sh.advance (w.blk.setStore ws st) same ∧
        st = { w.blk.store ws with full := st.full } ∧
        ∀ g, st.isFull g = ((w.blk.store ws).isFull g && !(decide (16 * g < off + len) && decide (off < 16 * g + 16))))

/-- R160: the first arrival at a quad or die barrier opens an instance, whose participants are the grid's shuttles of
that quad or die that still run; an arrival waits while a participant is awaited; the arrival that leaves nobody
awaited completes the instance: it is gone, and every shuttle that stands arrived goes on at its next word. A shuttle
that is no participant waits for the next instance. That draining shuttles are not awaited is log 16; that a block
resumed elsewhere is not, and that an arrival which a capture kept is not made again, is log 87. Says that these forms
complete, their own effect being the next state of exec: gbar. -/
def Obligations.GridBarrier : Prop :=
  ∀ (s : State) (w : Who) (die : Bool) (id : Fin 16), s.who? = some w →
    let key := if die then w.blk.site else w.blk.quadKey
    let there (k : Block) : Prop := if die then k.site = key else k.quadKey = key
    let awaited (h : Nat) : Prop :=
      ∃ x k, s.sh? h = some x ∧ x.status = .running ∧ s.blk? (blockOf h) = some k ∧ there k
    let kept (t : State) : Prop := t.blocks = s.blocks ∧ t.mem = s.mem ∧ t.posted = s.posted
    let waiting (i : GInst) : Prop :=
      ∃ t, exec (.gbar die id) s = .next t ∧ t.gbarOf die key id = some i ∧ kept t ∧
        t.sh? w.h = some { w.sh with wait := .gbar } ∧ ∀ j, j ≠ w.h → t.sh? j = s.sh? j
    let passing (i : GInst) : Prop :=
      ∃ t, exec (.gbar die id) s = .next t ∧ t.gbarOf die key id = none ∧ kept t ∧ t.sh? w.h = some w.sh.advance ∧
        ∀ j, j ≠ w.h → t.sh? j = (s.sh? j).map fun x => if j ∈ i.arrived ∧ x.wait = .gbar then x.advance else x
    (s.arrivedAt die id w.h = true → Gives (.gbar die id) s w { w.sh with wait := .gbar }) ∧
    (s.arrivedAt die id w.h = false → s.gbarOf die key id = none →
      ∃ ps, (∀ h, h ∈ ps ↔ ∃ x k, (h, x) ∈ s.shuttles ∧ x.status = .running ∧ s.blk? (blockOf h) = some k ∧
          k.status = .resident ∧ k.launch = w.blk.launch ∧ k.supervisor = w.blk.supervisor ∧ there k) ∧
        ((∃ h ∈ ps, h ≠ w.h ∧ awaited h) → waiting { grid := w.blk.launch, parts := ps, arrived := [w.h] }) ∧
        ((∀ h ∈ ps, h = w.h ∨ ¬ awaited h) → passing { grid := w.blk.launch, parts := ps, arrived := [w.h] })) ∧
    (∀ i, s.arrivedAt die id w.h = false → s.gbarOf die key id = some i →
      (w.h ∈ i.parts → (∀ h ∈ i.parts, h = w.h ∨ h ∈ i.arrived ∨ ¬ awaited h) → passing i) ∧
      (w.h ∈ i.parts → (∃ h ∈ i.parts, h ≠ w.h ∧ h ∉ i.arrived ∧ awaited h) →
        waiting { i with arrived := i.arrived ++ [w.h] }) ∧
      (w.h ∉ i.parts → Gives (.gbar die id) s w { w.sh with wait := .gbar }))

/-! ## Copies, tiles and the matrix unit (R145 to R186) -/

namespace Sys2Proof.Machine

/-- The instruction answers a next state in which nothing but the executing shuttle, which is now `sh`, the numbering of
commands and the core `c`, which is now `k`, has changed. -/
def Issues (i : Instr) (s : State) (w : Who) (ids : Nat) (sh : Shuttle) (c : Nat) (k : Core) : Prop :=
  ∃ t, exec i s = .next t ∧ t = { s with shuttles := t.shuttles, cores := t.cores, nextId := s.nextId + ids } ∧
    t.sh? w.h = some sh ∧ (∀ j, j ≠ w.h → t.sh? j = s.sh? j) ∧ t.core c = k ∧ (∀ d, d ≠ c → t.core d = s.core d) ∧
    ∀ site core a, t.viewByte site core a = s.viewByte site core a

/-- The instruction traps with the record `r` and no other effect than this: where the cause is 0x075, the uncorrectable lines
that its reads of tensor entries found are poisoned (R295). -/
def TrapsFinding (i : Instr) (s : State) (w : Who) (r : TrapRec) : Prop :=
  ∃ u : State, exec i s = .next (u.raise w r) ∧ (r.cause ≠ 0x075 → u = s) ∧
    u = { s with bad := u.bad, poison := u.poison, retired := u.retired, parts := u.parts, hubs := u.hubs, mgmt := u.mgmt }

/-- The command that CPY, CPYT or CPYG describes, as its checks at issue find it. -/
def copyOf (s : State) (w : Who) : Instr → Option (Judged Copy)
  | .cpy d a b m => some (s.judgeCpy w (w.sh.readS d).toNat (w.sh.readS a).toNat (w.sh.readS b).toNat m)
  | .cpyt d a b m => some (s.judgeCpyt w (w.sh.readS d).toNat (w.sh.readS a).toNat (w.sh.readS b).toNat m)
  | .cpyg d a b m => some (s.judgeCpyg w (w.sh.readS d).toNat (w.sh.readS a).toNat (w.sh.readS b).toNat m)
  | _ => none

/-- A tile move's instruction, with its tile and the register of its offset. -/
def tileMove : Instr → Option (TileReg × SReg)
  | .cmovCToA c a | .cmovNowait c a | .cmovAToC c a => some (c, a)
  | _ => none

end Sys2Proof.Machine

/-- R149, R150, R163: a copy command that passes its checks enters the engine's queue of 16 when there is room and
nobody waits, and the stream goes on, after CPYM behind its follow-on; otherwise it stands in the shuttle's slot. A
failing check traps with no effect, and one that meets a serviceable fault waits. Says that these forms complete,
their own effect being the next state of exec: cpy, cpyt, cpyg, cpym. -/
def Obligations.CopyCommandsIssue : Prop :=
  ∀ (s : State) (w : Who), s.who? = some w → w.sh.wait ≠ .slot →
    let c := s.core w.coreKey
    (∀ i k, copyOf s w i = some (.ok k) →
      (c.copyQ.length < 16 → c.copySlots = [] →
        Issues i s w 1 w.sh.advance w.coreKey { c with copyQ := c.copyQ ++ [k] }) ∧
      (16 ≤ c.copyQ.length ∨ c.copySlots ≠ [] →
        Issues i s w 1 { w.sh with wait := .slot } w.coreKey { c with copySlots := c.copySlots ++ [k] })) ∧
    (∀ i r, copyOf s w i = some (.trap r) → TrapsFinding i s w r) ∧
    (∀ i ps, copyOf s w i = some (.wait ps) → exec i s = .next (s.waitsOn w ps)) ∧
    (∀ d a b m k o, s.judgeCpyt w (w.sh.readS d).toNat (w.sh.readS a).toNat (w.sh.readS b).toNat m = .ok k →
      s.judgeFollow w = .ok o → c.copyQ.length < 16 → c.copySlots = [] →
      Issues (.cpym d a b m) s w 2 { w.sh.advance with pc := w.sh.pc + 8 } w.coreKey
        { c with copyQ := c.copyQ ++ [{ k with follow := some { o with id := s.nextId + 1 } }] })

/-- R161: TDEF of a record that passes every check writes the entry through with VALID set, and of one that fails
leaves its VALID bit clear and traps with 0x0C6; as the core reads the table, no other byte changes. Says that these
forms complete, their own effect being the next state of exec: tdef. -/
def Obligations.TensorDefinition : Prop :=
  ∀ (s : State) (w : Who) (n : Fin 1024) (a : SReg) (pa at_ : Nat), s.who? = some w →
    MayRead s w false 64 (w.sh.readS a).toNat pa → s.entryPa w.blk.ctx n = some at_ → s.farGone at_ = false →
    let bs := s.view w.blk.site w.blk.core pa 64
    (Entry.ok (leNat bs) = true → ∃ t, exec (.tdef n a) s = .next t ∧
      t = { s with shuttles := t.shuttles, posted := t.posted } ∧ t.sh? w.h = some w.sh.advance ∧
      (∀ j, j ≠ w.h → t.sh? j = s.sh? j) ∧
      (∀ i, i < 64 → t.viewByte w.blk.site w.blk.core (at_ + i) = s.kept (at_ + i)
        (if i = 57 then s.viewByte w.blk.site w.blk.core (pa + i) ||| 0x80 else s.viewByte w.blk.site w.blk.core (pa + i))) ∧
      ∀ x, x < at_ ∨ at_ + 64 ≤ x → t.viewByte w.blk.site w.blk.core x = s.viewByte w.blk.site w.blk.core x) ∧
    (Entry.ok (leNat bs) = false → ∃ u : State, exec (.tdef n a) s = .next (u.raise w { cause := 0x0C6 }) ∧
      u = { s with posted := u.posted } ∧
      u.viewByte w.blk.site w.blk.core (at_ + 57) = s.kept (at_ + 57) (s.viewByte w.blk.site w.blk.core (at_ + 57) &&& 0x7F) ∧
      ∀ x, x ≠ at_ + 57 → u.viewByte w.blk.site w.blk.core x = s.viewByte w.blk.site w.blk.core x)

/-- R172, R182: the moves between a tile and the activation store, CZERO and MWAIT complete while no operation owns
the tile, with the tile's or the store's bytes and nothing else changed, and else wait, but for CMOV.nowait, which
completes with bytes of no stated value; a tile beyond `.ctiles`, a misaligned and a too long range trap, the
alignment checked first (log 32). Says that these forms complete, their own effect being the next state of exec:
cmovCToA, cmovNowait, cmovAToC, czero, mwait. -/
def Obligations.TileMoves : Prop :=
  ∀ (s : State) (w : Who) (c : TileReg) (a : SReg), s.who? = some w →
    let off := (w.sh.readS a).toNat
    let stored (i : Instr) (bs : Nat → Byte) : Prop := ∃ t, exec i s = .next t ∧ t.sh? w.h = some w.sh.advance ∧
      t = { s with shuttles := t.shuttles, blocks := t.blocks, cores := t.cores, older := t.older } ∧
      ∃ k, t.blk? w.b = some k ∧ k = { w.blk with a := k.a } ∧ k.a.full = w.blk.a.full ∧
        (∀ n, n < 4096 → k.a.read (off + n) = bs n) ∧ ∀ x, x < off ∨ off + 4096 ≤ x → k.a.read x = w.blk.a.read x
    let tileByte (n : Nat) : Byte := (Tab.getD (w.blk.tile c) (n / 4) 0 >>> (8 * (n % 4))).setWidth 8
    (w.blk.kern.ctiles ≤ c.val → ∀ i ∈ [Instr.cmovCToA c a, .cmovNowait c a, .cmovAToC c a, .czero c, .mwait c],
      Traps i s w { cause := 0x146 }) ∧
    (c.val < w.blk.kern.ctiles →
      (∀ i, tileMove i = some (c, a) → off % 16 ≠ 0 → Traps i s w { cause := 0x08D, tmask := 1, addr := off }) ∧
      (∀ i, tileMove i = some (c, a) → off % 16 = 0 → w.blk.a.bytes < off + 4096 →
        Traps i s w { cause := 0x085, tmask := 1, addr := off }) ∧
      (s.owned w.coreKey w.b c = false → off % 16 = 0 → off + 4096 ≤ w.blk.a.bytes →
        stored (.cmovCToA c a) tileByte ∧ stored (.cmovNowait c a) tileByte ∧
        ∃ ct, Changes (.cmovAToC c a) s w w.sh.advance { w.blk with ctile := Tab.set w.blk.ctile c ct } same ∧
          ∀ i, i < 1024 → Tab.getD ct i 0 = BitVec.ofNat 32 (leNat (w.blk.a.readN (off + 4 * i) 4))) ∧
      (s.owned w.coreKey w.b c = true → off % 16 = 0 → off + 4096 ≤ w.blk.a.bytes →
        (∃ bs, stored (.cmovNowait c a) bs) ∧ Gives (.cmovCToA c a) s w { w.sh with wait := .other } ∧
          Gives (.cmovAToC c a) s w { w.sh with wait := .other }) ∧
      (s.owned w.coreKey w.b c = false → Completes (.mwait c) s w w.sh ∧
        Changes (.czero c) s w w.sh.advance { w.blk with ctile := Tab.set w.blk.ctile c [] } same) ∧
      (s.owned w.coreKey w.b c = true → Gives (.mwait c) s w { w.sh with wait := .other } ∧
        Gives (.czero c) s w { w.sh with wait := .other }))

/-- R177 to R179, R185, R186: an MMA or MGEMM whose tile, feature and operands pass their checks enters the unit's
queue of 8 when an entry is free beside those due to follow-ons (R216) and nobody waits, with its operands, its tile
and its record, and the stream goes on; a failing check traps with no effect. Says that these forms complete, their
own effect being the next state of exec: mma, mgemm. -/
def Obligations.MatrixCommandsIssue : Prop :=
  ∀ (s : State) (w : Who) (c : TileReg) (a b : SReg) (f : MmaFmt) (ta tb : Bool), s.who? = some w → w.sh.wait ≠ .slot →
    let k := s.core w.coreKey
    let r (n : Nat) : Nat := (w.sh.readS (SReg.plus a n)).toNat
    let oa := s.operand w.blk (w.sh.readS a).toNat ta
    let ob := s.operand w.blk (w.sh.readS b).toNat tb
    (w.blk.kern.ctiles ≤ c.val → Traps (.mma c a b f ta tb) s w { cause := 0x146 } ∧
      Traps (.mgemm c a f ta tb) s w { cause := 0x146 }) ∧
    (c.val < w.blk.kern.ctiles → f = .e2m1 → w.blk.kern.feat / 2 % 2 = 0 →
      Traps (.mma c a b f ta tb) s w { cause := 0x148 } ∧ Traps (.mgemm c a f ta tb) s w { cause := 0x148 }) ∧
    (c.val < w.blk.kern.ctiles → f ≠ .e2m1 ∨ w.blk.kern.feat / 2 % 2 = 1 →
      (judgeOperands (s.entryBad w.blk) w.blk f oa ob = .ok () → k.matQ.length + s.followsDue w.coreKey < 8 → k.matSlots = [] →
        Issues (.mma c a b f ta tb) s w 1 w.sh.advance w.coreKey
          { k with matQ := k.matQ ++ [mkMat s w w.sh.pc.toNat c f oa ob] }) ∧
      (∀ x, judgeOperands (s.entryBad w.blk) w.blk f oa ob = .trap x → TrapsFinding (.mma c a b f ta tb) s w x) ∧
      (∀ g, judgeGemm (s.entryBad w.blk) w.blk f (s.operand w.blk (r 0) ta) (s.operand w.blk (r 1) tb) (r 2) (r 3) = .ok g →
        k.matQ.length + s.followsDue w.coreKey < 8 → k.matSlots = [] →
        Issues (.mgemm c a f ta tb) s w 1 w.sh.advance w.coreKey
          { k with matQ := k.matQ ++ [{ mkMat s w w.sh.pc.toNat c f (s.operand w.blk (r 0) ta) (s.operand w.blk (r 1) tb) with
            gemm := some g }] }) ∧
      (∀ x, judgeGemm (s.entryBad w.blk) w.blk f (s.operand w.blk (r 0) ta) (s.operand w.blk (r 1) tb) (r 2) (r 3) = .trap x →
        TrapsFinding (.mgemm c a f ta tb) s w x))

/-! ## The expansion unit (R193 to R207) -/

namespace Sys2Proof.Machine

/-- The executing block with one expansion register replaced. -/
def withEreg (w : Who) (e : EReg) (r : ExpReg) : Block := { w.blk with eregs := w.blk.eregs.set e r }

/-- The 272 bytes of an image lie in one page of global memory from the physical address `lo` on, and may be accessed (R207,
R284, R297). -/
def ImageAt (s : State) (w : Who) (write : Bool) (va lo : Nat) : Prop :=
  (∃ hi, s.check w.blk.site w.blk.ctx w.sh.fatalPages write 5 16 [(0, va), (0, va + 256)] = .go [(0, lo), (0, hi)]) ∧
    va / 65536 = (va + 271) / 65536 ∧ ∀ i, i < 272 → s.farGone (lo + i) = false

/-- A centre and a radius as XCLR and XLD accept them: finite, the radius not below −0. -/
def CentreOk (x y r : W32) : Prop := finiteF32 x = true ∧ finiteF32 y = true ∧ finiteF32 r = true ∧
  (r.getLsbD 31 = false ∨ r = 0x80000000)

end Sys2Proof.Machine

/-- R134, R172: a tile's image holds its elements row by row as little-endian words, so the tile read from any 4096 bytes
has that image again, and a tile's elements come back from its image. R196, R207: the image of an expansion register
loads back into a register, whatever owner it keeps; a register with a reserved kind, an infinite or NaN centre or
radius, or a negative radius has no image that loads. -/
def Obligations.ImageRoundTrips : Prop :=
  ((∀ bs : List Byte, bs.length = 4096 → tileImage (tileOf bs) = bs) ∧
  (∀ (t : Tile) (i : Nat), i < 1024 → Tab.getD (tileOf (tileImage t)) i 0 = Tab.getD t i 0)) ∧
  (∀ (r old : ExpReg), r.kind < 4 →
    ((r.kind < 3 ∧ CentreOk r.centre.1 r.centre.2 r.radius) → old.load r.image = some { r with owner := old.owner }) ∧
    (¬(r.kind < 3 ∧ CentreOk r.centre.1 r.centre.2 r.radius) → old.load r.image = none))

/-- R201 whole, and the other instructions of the expansion unit, complete, in a kernel that declares it, with no runs
queued: XCLR, the three translations, XLD, XOWN and ORD change one register of the block, XADM and XOWN.take a
predicate, XST the image's 272 bytes in the store or, posted, in global memory, and nothing else changes. R47, R199 to
R202: what stops an instruction of the expansion unit before any effect: a kernel without the feature, a register that
the shuttle does not own, a translation of a register into itself or between wrong kinds, a reserved kind or a bad
number. Says that these forms complete, their own effect being the next state of exec: xclr, xshift, xm2l, xl2l, xadm,
xld, xst, xownTake, xownRel, ord. -/
def Obligations.ExpansionResults : Prop :=
  (∀ (s : State) (w : Who), s.who? = some w → w.blk.kern.feat.testBit 2 = true → w.sh.drained = true →
    let er (e : EReg) : ExpReg := w.blk.eregs.get e
    (∀ e a b, (er e).owner = some w.sh.idx →
      CentreOk ((w.sh.readS a).setWidth 32) ((w.sh.readS a >>> 32).setWidth 32) ((w.sh.readS b).setWidth 32) →
      (w.sh.readS b).toNat / 2 ^ 32 < 3 →
      Changes (.xclr e a b) s w w.sh.advance (withEreg w e { er e with
        kind := (w.sh.readS b).toNat / 2 ^ 32
        centre := ((w.sh.readS a).setWidth 32, (w.sh.readS a >>> 32).setWidth 32)
        radius := radiusOf ((w.sh.readS b).setWidth 32), coef := Vector.replicate 32 (0, 0) }) same) ∧
    (∀ (d e : EReg) (o : OReg), d ≠ e → (er d).owner = some w.sh.idx →
      let p := (w.blk.oregs.get o).toNat
      ((er e).kind = 1 → (er d).kind = 1 → Changes (.xshift d e o) s w w.sh.advance (withEreg w d ((er d).withSeries
        (xshiftSeries (er e).series (er d).series (cSub (natC (er e).centre) (natC (er d).centre)) p))) same) ∧
      ((er e).kind = 1 → (er d).kind = 2 → Changes (.xm2l d e o) s w w.sh.advance (withEreg w d ((er d).withSeries
        (xm2lSeries (er e).series (er d).series (cSub (natC (er e).centre) (natC (er d).centre)) p))) same) ∧
      ((er e).kind = 2 → (er d).kind = 2 → Changes (.xl2l d e o) s w w.sh.advance (withEreg w d ((er d).withSeries
        (xl2lSeries (er e).series (er d).series (cSub (natC (er d).centre) (natC (er e).centre)) p))) same)) ∧
    (∀ k a b (x y : EReg), (w.sh.readS a).toNat = x.val + 256 * y.val → 0 < (w.sh.readS b).toNat →
      (w.sh.readS b).toNat < 0x7F800000 →
      Completes (.xadm k a b) s w (w.sh.writeK k (admissible (er x) (er y) (w.sh.readS b).toNat))) ∧
    (∀ k e, ((er e).owner = none → Changes (.xownTake k e) s w (w.sh.writeK k true).advance
        (withEreg w e { er e with owner := some w.sh.idx }) same) ∧
      (∀ i, (er e).owner = some i → Completes (.xownTake k e) s w (w.sh.writeK k (i == w.sh.idx)))) ∧
    (∀ e, (er e).owner = some w.sh.idx →
      Changes (.xownRel e) s w w.sh.advance (withEreg w e { er e with owner := none }) same) ∧
    (∀ o a, (w.sh.readS a).toNat < 32 → Changes (.ord o a) s w w.sh.advance
      { w.blk with oregs := w.blk.oregs.set o (BitVec.ofNat 5 (w.sh.readS a).toNat) } same) ∧
    (∀ e a r, (er e).owner = some w.sh.idx →
      let off := (w.sh.readS a).toNat % 2 ^ 32
      off % 16 = 0 → off + 272 ≤ w.blk.a.bytes → (er e).load (w.blk.a.readN off 272) = some r →
      Changes (.xld e a true) s w w.sh.advance (withEreg w e r) same) ∧
    (∀ e a r lo, (er e).owner = some w.sh.idx → ImageAt s w false (w.sh.readS a).toNat lo →
      (∀ i, i < 272 → s.poisoned [(0, lo + i)] = []) → (er e).load (s.view w.blk.site w.blk.core lo 272) = some r →
      Changes (.xld e a false) s w w.sh.advance (withEreg w e r) same) ∧
    (∀ e a lo, ImageAt s w true (w.sh.readS a).toNat lo →
      ∃ t, exec (.xst e a false) s = .next t ∧ t = { s with shuttles := t.shuttles, posted := t.posted } ∧
        t.sh? w.h = some w.sh.advance ∧ (∀ j, j ≠ w.h → t.sh? j = s.sh? j) ∧
        (∀ i, i < 272 → t.viewByte w.blk.site w.blk.core (lo + i) = s.kept (lo + i) ((er e).image.getD i 0)) ∧
        ∀ site core x, (site, core) ≠ (w.blk.site, w.blk.core) ∨ x < lo ∨ lo + 272 ≤ x →
          t.viewByte site core x = s.viewByte site core x) ∧
    (∀ e a,
      let off := (w.sh.readS a).toNat % 2 ^ 32
      off % 16 = 0 → off + 272 ≤ w.blk.a.bytes →
      ∃ t, exec (.xst e a true) s = .next t ∧ t.sh? w.h = some w.sh.advance ∧
        t = { s with shuttles := t.shuttles, blocks := t.blocks, cores := t.cores, older := t.older } ∧
        ∃ k, t.blk? w.b = some k ∧ k = { w.blk with a := k.a } ∧ k.a.readN off 272 = (er e).image ∧
          ∀ x, x < off ∨ off + 272 ≤ x → k.a.read x = w.blk.a.read x)) ∧
  (∀ (s : State) (w : Who), s.who? = some w →
    let er (e : EReg) : ExpReg := w.blk.eregs.get e
    (w.blk.kern.feat.testBit 2 = false → ∀ i, waitsAfterFeature i = some 4 → Traps i s w { cause := 0x148 }) ∧
    (w.blk.kern.feat.testBit 2 = true → w.sh.drained = true →
      (∀ e a b l o x, (er e).owner ≠ some w.sh.idx → x ≠ e →
        ∀ i ∈ [Instr.xclr e a b, .xld e a l, .xownRel e, .xshift e x o, .xm2l e x o, .xl2l e x o],
          Traps i s w { cause := 0x0E6, tile := some e.val }) ∧
      (∀ e o, ∀ i ∈ [Instr.xshift e e o, .xm2l e e o, .xl2l e e o], Traps i s w { cause := 0x0F9, tile := some e.val }) ∧
      (∀ d e o, d ≠ e → (er d).owner = some w.sh.idx →
        ((er e).kind ≠ 1 ∨ (er d).kind ≠ 1 → Traps (.xshift d e o) s w { cause := 0x0EE, tile := some d.val }) ∧
        ((er e).kind ≠ 1 ∨ (er d).kind ≠ 2 → Traps (.xm2l d e o) s w { cause := 0x0EE, tile := some d.val }) ∧
        ((er e).kind ≠ 2 ∨ (er d).kind ≠ 2 → Traps (.xl2l d e o) s w { cause := 0x0EE, tile := some d.val })) ∧
      (∀ o a, 32 ≤ (w.sh.readS a).toNat → Traps (.ord o a) s w { cause := 0x0FA })))

/-! ## Groups, neighbour-paced mode, messages, ranges and collectives -/

/-- R218 to R221: SGJOIN puts the block into its quad's group of the tag, or answers 0 where the group has another
member at its position or eight groups exist, or where the quad is fenced (R347; that this is a refusal is log 105);
SGLEAVE takes it out once its peer accesses have ended, and until then it waits, and other members' new accesses to it
are refused. Registers but the predicate, other quads, blocks and memory stay. R218, R220, R221: joining adds one
member to one group and takes nothing away, within the eight groups of a quad; leaving takes out every entry of the
block and no other member of a group that lives on. Says that these forms complete, their own effect being the next
state of exec: sgjoin, sgleave. -/
def Obligations.SharingGroups : Prop :=
  (∀ (s : State) (w : Who) (k : KReg) (a : SReg), s.who? = some w → w.sh.drained = true →
    let q := w.blk.quadKey
    let tag := (w.sh.readS a).toNat
    let me : Member := { block := w.b, tenancy := w.blk.tenancy, base := w.blk.abase, size := w.blk.a.bytes, lost := false,
                         leaving := false }
    let change (i : Instr) (sh : Shuttle) (gs : List Group) : Prop := ∃ t, exec i s = .next t ∧
      t = { s with shuttles := t.shuttles, quads := t.quads } ∧ t.sh? w.h = some sh ∧ (∀ j, j ≠ w.h → t.sh? j = s.sh? j) ∧
      t.quad q = { s.quad q with groups := gs } ∧ ∀ p, p ≠ q → t.quad p = s.quad p
    (65536 ≤ tag → Traps (.sgjoin k a) s w { cause := 0x112 }) ∧
    (∀ g, tag < 65536 → s.groupOf q w.b = some g →
      (g.ctx = w.blk.ctx ∧ g.tag = tag → Completes (.sgjoin k a) s w (w.sh.writeK k true)) ∧
      (g.ctx ≠ w.blk.ctx ∨ g.tag ≠ tag → Traps (.sgjoin k a) s w { cause := 0x112 })) ∧
    (tag < 65536 → s.groupOf q w.b = none → (s.quad q).fenced = true →
      Completes (.sgjoin k a) s w (w.sh.writeK k false)) ∧
    (tag < 65536 → s.groupOf q w.b = none → (s.quad q).fenced = false →
      (∀ gs, joinGroup (s.quad q).groups w.blk.ctx tag w.blk.pos me = some gs →
        change (.sgjoin k a) (w.sh.writeK k true).advance gs) ∧
      (joinGroup (s.quad q).groups w.blk.ctx tag w.blk.pos me = none →
        Completes (.sgjoin k a) s w (w.sh.writeK k false))) ∧
    (s.groupOf q w.b = none → Traps .sgleave s w { cause := 0x110 }) ∧
    (∀ g, s.groupOf q w.b = some g → s.peersOpen w.b w.coreKey = false →
      change .sgleave w.sh.advance (leaveGroup w.b (s.quad q).groups)) ∧
    (∀ g, s.groupOf q w.b = some g → s.peersOpen w.b w.coreKey = true →
      change .sgleave { w.sh with wait := .other } (markLeaving w.b (s.quad q).groups))) ∧
  ((∀ gs ctx tag pos m gs', gs.length ≤ 8 → joinGroup gs ctx tag pos m = some gs' → gs'.length ≤ 8 ∧
    (∃ g ∈ gs', g.ctx = ctx ∧ g.tag = tag ∧ Tab.get? g.members pos = some m) ∧
    ∀ g ∈ gs, ∃ g' ∈ gs', g'.ctx = g.ctx ∧ g'.tag = g.tag ∧ ∀ p x, Tab.get? g.members p = some x → Tab.get? g'.members p = some x) ∧
  (∀ (b : Nat) gs, ∀ g ∈ leaveGroup b gs, (∀ e ∈ g.members, e.2.block ≠ b) ∧
    ∃ g' ∈ gs, g'.ctx = g.ctx ∧ g'.tag = g.tag ∧ ∀ e ∈ g'.members, e.2.block ≠ b → e ∈ g.members))

/-- R226, R227, R230: NPENTER, STEPDONE and NPEXIT in a kernel that declares the mode, with no runs queued: the
shuttle arrives and stands until the operation of its block completes (NP_ENTRY_COMPLETE and its fellows); a STEPDONE
or NPEXIT that completed while its shuttle was stopped completes at once; STEPDONE waits until the shuttle's writes
and those that its loads saw are performed at .die; outside the mode they trap with 0x118, and a bad record with
0x11A. Says that these forms complete, their own effect being the next state of exec: npenter, stepdone, npexit. -/
def Obligations.PacedInstructions : Prop :=
  ∀ (s : State) (w : Who) (a : SReg), s.who? = some w → w.blk.kern.feat.testBit 3 = true → w.sh.drained = true →
    let np := (s.core w.coreKey).np
    let r := [w.sh.readS (SReg.plus a 0), w.sh.readS (SReg.plus a 1), w.sh.readS (SReg.plus a 2), w.sh.readS (SReg.plus a 3)]
    let stands (i : Instr) (p : Paced) : Prop := Issues i s w 0 { w.sh with wait := .paced } w.coreKey
      { s.core w.coreKey with np := p }
    let passes (i : Instr) : Prop := Issues i s w 0 w.sh.advance w.coreKey
      { s.core w.coreKey with np := { np with passed := np.passed.filter (· ≠ w.h) } }
    (w.h ∉ np.entering → (np.on = true ∨ ∃ h ∈ np.entering, blockOf h ≠ w.b) →
      Traps (.npenter a) s w { cause := 0x118 }) ∧
    (w.h ∈ np.entering → Gives (.npenter a) s w { w.sh with wait := .paced }) ∧
    (np.on = false → np.entering = [] → s.entryRecord w.blk r = none → Traps (.npenter a) s w { cause := 0x11A }) ∧
    (np.on = false → np.entering = [] → s.entryRecord w.blk r ≠ none →
      stands (.npenter a) { np with entering := [w.h], record := r }) ∧
    (np.on = false → np.entering ≠ [] → (∀ h ∈ np.entering, blockOf h = w.b ∧ h ≠ w.h) → s.entryRecord w.blk r ≠ none →
      (np.record = r → stands (.npenter a) { np with entering := np.entering ++ [w.h] }) ∧
      (np.record ≠ r → Traps (.npenter a) s w { cause := 0x11A })) ∧
    (w.h ∈ np.passed → passes .stepdone ∧ passes .npexit) ∧
    (w.h ∉ np.passed → np.on = false ∨ np.owner ≠ some w.b →
      Traps .stepdone s w { cause := 0x118 } ∧ Traps .npexit s w { cause := 0x118 }) ∧
    (w.h ∉ np.passed → np.on = true → np.owner = some w.b →
      (w.h ∉ np.leaving → stands .npexit { np with leaving := np.leaving ++ [w.h] }) ∧
      (w.h ∉ np.arrived → s.ownPosted w.h false .die = true ∨ s.streamPeers w.h = true ∨
          s.seenPosted w.blk.site w.blk.core .die = true → Gives .stepdone s w { w.sh with wait := .memory }) ∧
      (w.h ∉ np.arrived → s.ownPosted w.h false .die = false → s.streamPeers w.h = false →
        s.seenPosted w.blk.site w.blk.core .die = false → np.announced = false →
        (s.allStand w.b (np.arrived ++ [w.h]) = false → stands .stepdone { np with arrived := np.arrived ++ [w.h] }) ∧
        (s.allStand w.b (np.arrived ++ [w.h]) = true →
          stands .stepdone { np with arrived := np.arrived ++ [w.h], done := np.step, announced := true })))

/-- R239 to R243: a SEND that passes its checks enters the send queue of 8 with the payload as it stands in the store;
a RECVPOST takes the oldest overflow message that it accepts, else becomes a posted receive where fewer than 32 stand,
else answers 0. Says that these forms complete, their own effect being the next state of exec: send, recvpost. -/
def Obligations.MessageInstructions : Prop :=
  ∀ (s : State) (w : Who) (k : KReg) (a b : SReg), s.who? = some w → w.sh.drained = true → w.sh.wait ≠ .slot →
    let c := s.core w.coreKey
    let va := (w.sh.readS a).toNat
    let vb := (w.sh.readS b).toNat
    (∀ m, s.judgeSend w va vb = .ok m → m.payload = w.blk.a.readN va (vb / 2 ^ 40 % 256) ∧ m.dst = vb % 128 ∧
      m.tag = vb / 2 ^ 16 % 65536 ∧ m.src = w.blk.core ∧ m.ctx = w.blk.ctx ∧
      (c.sendQ.length < 8 → c.sendSlots = [] →
        Issues (.send a b) s w 0 w.sh.advance w.coreKey (Core.headed s.now { c with sendQ := c.sendQ ++ [m] })) ∧
      (8 ≤ c.sendQ.length ∨ c.sendSlots ≠ [] →
        Issues (.send a b) s w 0 { w.sh with wait := .slot } w.coreKey { c with sendSlots := c.sendSlots ++ [m] })) ∧
    (∀ x, s.judgeSend w va vb = .trap x → Traps (.send a b) s w x) ∧
    (∀ x, judgeRecv w va vb = .trap x → Traps (.recvpost k a b) s w x) ∧
    (∀ r, judgeRecv w va vb = .ok r →
      (∀ i m, c.overflow.findIdx? r.accepts = some i → c.overflow[i]? = some m →
        ∃ u : State, exec (.recvpost k a b) s = .next ((u.deliverMessage r m).complete w (·.writeK k true)) ∧
          u = { s with cores := u.cores } ∧ (u.core w.coreKey).overflow = dropAt c.overflow i ∧
          (u.core w.coreKey).recvs = c.recvs ∧ ∀ d, d ≠ w.coreKey → u.core d = s.core d) ∧
      (c.overflow.findIdx? r.accepts = none → c.recvs.length < 32 →
        Issues (.recvpost k a b) s w 0 (w.sh.writeK k true).advance w.coreKey { c with recvs := c.recvs ++ [r] }) ∧
      (c.overflow.findIdx? r.accepts = none → 32 ≤ c.recvs.length →
        Completes (.recvpost k a b) s w (w.sh.writeK k false)))

/-- R248, R249: RINIT of a range that is allotted to the context sets its bounds and starts it; RGRAB gives the length
and the start of the next chunk and moves NEXT past it; a request is applied while the queue of 16 has room and nobody
waits, else it stands in the shuttle's slot; a record that R248 refuses traps with 0x13A. Says that these forms
complete, their own effect being the next state of exec: rinit, rgrab. -/
def Obligations.RangeInstructions : Prop :=
  ∀ (s : State) (w : Who) (d a : SReg), s.who? = some w → w.sh.wait ≠ .slot →
    let site := w.blk.site
    let r (n : Nat) : Nat := (w.sh.readS (SReg.plus a n)).toNat
    let ok : Prop := r 0 < 2 ^ 40 ∧ r 1 < 2 ^ 40 ∧ r 0 ≤ r 1 ∧ r 2 < 2 ^ 48 ∧ r 2 / 2 ^ 16 % 256 = 0 ∧ 0 < r 2 / 2 ^ 24 ∧
      0 < r 2 % 2 ^ 16 ∧ r 3 < 64
    let room : Prop := (s.die site).rangeQ.length < 16 ∧ (s.die site).rangeSlots = []
    let gives (i : Instr) (sh : Shuttle) (dd : Die) : Prop := ∃ t, exec i s = .next t ∧
      t = { s with shuttles := t.shuttles, dies := t.dies } ∧ t.sh? w.h = some sh ∧ (∀ j, j ≠ w.h → t.sh? j = s.sh? j) ∧
      t.die site = dd ∧ ∀ e, e ≠ site → t.die e = s.die e
    (¬ok ∨ s.rangeFor site w.blk.ctx (r 3) = none → Traps (.rinit a) s w { cause := 0x13A }) ∧
    (∀ x, ok → s.rangeFor site w.blk.ctx (r 3) = some x →
      (room → gives (.rinit a) w.sh.advance { s.die site with
        ranges := Tab.set (s.die site).ranges (r 3) { x with
          start := r 0, next := r 0, stop := r 1, min := r 2 / 2 ^ 24, div := r 2 % 2 ^ 16 }
        rangeQ := (s.die site).rangeQ ++ [w.h] }) ∧
      (¬room → gives (.rinit a) { w.sh with wait := .slot } { s.die site with
        rangeSlots := (s.die site).rangeSlots ++ [(w.h, .init (r 3) (r 0) (r 1) (r 2 / 2 ^ 24) (r 2 % 2 ^ 16))] })) ∧
    (∀ n, n = (w.sh.readS a).toNat → (64 ≤ n ∨ s.rangeFor site w.blk.ctx n = none → Traps (.rgrab d a) s w { cause := 0x13A })) ∧
    (∀ n x, n = (w.sh.readS a).toNat → n < 64 → s.rangeFor site w.blk.ctx n = some x → ¬room →
      gives (.rgrab d a) { w.sh with wait := .slot } { s.die site with
        rangeSlots := (s.die site).rangeSlots ++ [(w.h, .grab n d)] }) ∧
    (∀ n x, n = (w.sh.readS a).toNat → n < 64 → s.rangeFor site w.blk.ctx n = some x → room →
      let rem := x.stop - x.next
      let len := if rem = 0 then 0 else min (min (max x.min ((rem + x.div - 1) / x.div)) rem) 0xFFFFFF
      gives (.rgrab d a) (w.sh.writeS d (BitVec.ofNat 64 (len * 2 ^ 40 + x.next))).advance { s.die site with
        ranges := Tab.set (s.die site).ranges n { x with next := x.next + len }
        rangeQ := (s.die site).rangeQ ++ [w.h] })

namespace Sys2Proof.Machine

/-- The collective command that an instruction describes, as its checks at issue find it (R366). -/
def collOf (s : State) (w : Who) : Instr → Option (Judged Coll)
  | .cred d a b => some (s.judgeColl w 0 d a (w.sh.readS d).toNat (w.sh.readS a).toNat (w.sh.readS b).toNat)
  | .credExact d a b => some (s.judgeColl w 1 d a (w.sh.readS d).toNat (w.sh.readS a).toNat (w.sh.readS b).toNat)
  | .cmc d a b => some (s.judgeColl w 2 d a (w.sh.readS d).toNat (w.sh.readS a).toNat (w.sh.readS b).toNat)
  | .cag d a b => some (s.judgeColl w 3 d a (w.sh.readS d).toNat (w.sh.readS a).toNat (w.sh.readS b).toNat)
  | _ => none

end Sys2Proof.Machine

/-- R364, R366: a collective command that passes its checks and names the current use enters the hub's queue of 64 and
its rank joins the use; one that names the next use begins it once nothing of the current one is open, and waits
before; a failing check traps with no effect. Says that these forms complete, their own effect being the next state of
exec: cred, credExact, cmc, cag. -/
def Obligations.CollectiveCommandsIssue : Prop :=
  ∀ (s : State) (w : Who) (i : Instr), s.who? = some w → w.sh.wait ≠ .slot →
    (∀ r, collOf s w i = some (.trap r) → Traps i s w r) ∧
    (∀ ps, collOf s w i = some (.wait ps) → exec i s = .next (s.waitsOn w ps)) ∧
    (∀ k, collOf s w i = some (.ok k) →
      let u := s.hub k.hub
      (k.use = (u.use k.gid).cur → u.collQ.length < 64 → u.collSlots = [] →
        ∃ t, exec i s = .next t ∧ t = { s with shuttles := t.shuttles, hubs := t.hubs, nextId := s.nextId + 1 } ∧
          t.sh? w.h = some w.sh.advance ∧ (∀ j, j ≠ w.h → t.sh? j = s.sh? j) ∧ (∀ n, n ≠ k.hub → t.hub n = s.hub n) ∧
          (t.hub k.hub).collQ = u.collQ ++ [k] ∧ (t.hub k.hub).collSlots = [] ∧
          (t.hub k.hub).use k.gid = { u.use k.gid with joined := (u.use k.gid).joined ++ [k.rank] } ∧
          ∀ g, g ≠ k.gid → (t.hub k.hub).use g = u.use g) ∧
      (k.use ≠ (u.use k.gid).cur → u.drain k.gid ≠ 0 → Gives i s w { w.sh with wait := .newUse k.gid }) ∧
      (k.use ≠ (u.use k.gid).cur → u.drain k.gid = 0 → u.collQ.length < 64 → u.collSlots = [] →
        ∃ t, exec i s = .next t ∧ t.sh? w.h = some w.sh.advance ∧ (t.hub k.hub).collQ = u.collQ ++ [k] ∧
          ((t.hub k.hub).use k.gid).cur = ((u.use k.gid).cur + 1) % 16 ∧ ((t.hub k.hub).use k.gid).joined = [k.rank] ∧
          t.mem = s.mem ∧ t.blocks = s.blocks))

/-! ## Lane instructions (R72, R78 to R110) -/

namespace Sys2Proof.Machine

/-- A lane instruction completes: the last-read names of its sources are released, `f` makes each selected thread's
writes in ascending order, and the run goes on at its next word. -/
def laneAfter (w : Who) (hd : Head) (srcs : List LSrc) (f : Nat → Shuttle → Shuttle) : Shuttle :=
  (putEach (guardOf w.sh hd) f (release srcs w.sh)).updHead Run.onward

/-- A lane instruction completes with a word for each selected thread in its destination, and nothing else changed. -/
def LaneGives (i : Instr) (s : State) (w : Who) (hd : Head) (d : LDst) (srcs : List LSrc) (val : Nat → Nat) : Prop :=
  Gives i s w (laneAfter w hd srcs fun t => putDst s d t (val t))

/-- Element arithmetic of R93: the type, saturation, the guard, the destination, the sources, and the exact result. -/
def intExact : Instr → Option (IType × Bool × Head × LDst × List LSrc × (List Int → Int))
  | .lAdd h t sat d a b => some (t, sat, h, d, [a, b], fun x => x.getD 0 0 + x.getD 1 0)
  | .lSub h t sat d a b => some (t, sat, h, d, [a, b], fun x => x.getD 0 0 - x.getD 1 0)
  | .lMul h t sat d a b => some (t, sat, h, d, [a, b], fun x => x.getD 0 0 * x.getD 1 0)
  | .lMulhi h t d a b => some (t, false, h, d, [a, b], fun x => x.getD 0 0 * x.getD 1 0 / 2 ^ iWidth t)
  | .lMad h t sat d a b c => some (t, sat, h, d, [a, b, c], fun x => x.getD 0 0 * x.getD 1 0 + x.getD 2 0)
  | .lMin h t d a b => some (t, false, h, d, [a, b], fun x => min (x.getD 0 0) (x.getD 1 0))
  | .lMax h t d a b => some (t, false, h, d, [a, b], fun x => max (x.getD 0 0) (x.getD 1 0))
  | .lAbs h t sat d a => some (t, sat, h, d, [a], fun x => max (x.getD 0 0) (-x.getD 0 0))
  | .lNeg h t sat d a => some (t, sat, h, d, [a], fun x => 0 - x.getD 0 0)
  | .lSum3 h t sat d a b c => some (t, sat, h, d, [a, b, c], fun x => x.getD 0 0 + x.getD 1 0 + x.getD 2 0)
  | .lClamp h t sat d a b c => some (t, sat, h, d, [a, b, c], fun x => min (max (x.getD 0 0) (x.getD 1 0)) (x.getD 2 0))
  | _ => none

/-- A 32-bit pattern as a vector, for the bit functions of R95. -/
def asBits (x : List Nat) (i : Nat) : BitVec 32 := BitVec.ofNat 32 (x.getD i 0)

/-- Bit and field operations and moves of R95 and R110: the guard, the destination, the sources, and the word of a thread. -/
def bitResult : Instr → Option (Head × LDst × List LSrc × (List Nat → Nat))
  | .lAnd h d a b => some (h, d, [a, b], fun x => x.getD 0 0 &&& x.getD 1 0)
  | .lOr h d a b => some (h, d, [a, b], fun x => x.getD 0 0 ||| x.getD 1 0)
  | .lXor h d a b => some (h, d, [a, b], fun x => x.getD 0 0 ^^^ x.getD 1 0)
  | .lNot h d a => some (h, d, [a], fun x => (~~~asBits x 0).toNat)
  | .lShl h d a b => some (h, d, [a, b], fun x => (asBits x 0 <<< x.getD 1 0).toNat)
  | .lShr h d a b => some (h, d, [a, b], fun x => (asBits x 0 >>> x.getD 1 0).toNat)
  | .lSra h _ d a b => some (h, d, [a, b], fun x => ((asBits x 0).sshiftRight (x.getD 1 0)).toNat)
  | .lRot h d a b => some (h, d, [a, b], fun x => ((asBits x 0).rotateLeft (x.getD 1 0)).toNat)
  | .lPopc h d a => some (h, d, [a], fun x => popcount 32 (x.getD 0 0))
  | .lClz h d a => some (h, d, [a], fun x => leadingZeros 32 (x.getD 0 0))
  | .lBrev h d a => some (h, d, [a], fun x => (asBits x 0).reverse.toNat)
  | .lBfx h g d a b c => some (h, d, [a, b, c], fun x => bfx g (x.getD 0 0) (x.getD 1 0) (x.getD 2 0))
  | .lBfi h d a b c => some (h, d, [a, b, c], fun x => bfi (x.getD 0 0) (x.getD 1 0) (x.getD 2 0))
  | .lBytesel h d a b c => some (h, d, [a, b, c], fun x => bytesel (x.getD 0 0) (x.getD 1 0) (x.getD 2 0))
  | .lTruth h d a b c tb => some (h, d, [a, b, c], fun x => truth tb (x.getD 0 0) (x.getD 1 0) (x.getD 2 0))
  | .lScadd h d a b n => some (h, d, [a, b], fun x => (asBits x 0 <<< n.val + asBits x 1).toNat)
  | .lFunnel h lo d a b c => some (h, d, [a, b, c], fun x =>
    ((if lo then ((asBits x 1 ++ asBits x 0) >>> (x.getD 2 0 % 32)) else ((asBits x 1 ++ asBits x 0) <<< (x.getD 2 0 % 32)) >>> 32).setWidth
      32).toNat)
  | .lMov h d a => some (h, d, [a], fun x => x.getD 0 0)
  | _ => none

/-- Floating arithmetic of R96 and R97: the type, the guard, the destination, the sources, and the pattern of an element. -/
def floatResult : Instr → Option (FType × Head × LDst × List LSrc × (List Nat → Nat))
  | .lFadd h t r d a b => some (t, h, d, [a, b], fun x =>
    roundF (fFmt t) (Sys2Proof.Machine.Num.add r (decodeF (fFmt t) (x.getD 0 0)) (decodeF (fFmt t) (x.getD 1 0))) r false)
  | .lFsub h t r d a b => some (t, h, d, [a, b], fun x =>
    roundF (fFmt t) (Sys2Proof.Machine.Num.add r (decodeF (fFmt t) (x.getD 0 0)) (decodeF (fFmt t) (x.getD 1 0)).neg) r false)
  | .lFmul h t r d a b => some (t, h, d, [a, b], fun x =>
    roundF (fFmt t) (Sys2Proof.Machine.Num.mul (decodeF (fFmt t) (x.getD 0 0)) (decodeF (fFmt t) (x.getD 1 0))) r false)
  | .lFma h t r d a b c => some (t, h, d, [a, b, c], fun x =>
    roundF (fFmt t) (Sys2Proof.Machine.Num.add r (Sys2Proof.Machine.Num.mul (decodeF (fFmt t) (x.getD 0 0)) (decodeF (fFmt t) (x.getD 1 0)))
      (decodeF (fFmt t) (x.getD 2 0))) r false)
  | .lFmin h t d a b => some (t, h, d, [a, b], fun x => minMaxF (fFmt t) false (x.getD 0 0) (x.getD 1 0))
  | .lFmax h t d a b => some (t, h, d, [a, b], fun x => minMaxF (fFmt t) true (x.getD 0 0) (x.getD 1 0))
  | .lFclamp h t d a b c => some (t, h, d, [a, b, c], fun x =>
    minMaxF (fFmt t) false (minMaxF (fFmt t) true (x.getD 0 0) (x.getD 1 0)) (x.getD 2 0))
  | .lFabs h t d a => some (t, h, d, [a], fun x => x.getD 0 0 % 2 ^ (fWidth t - 1))
  | .lFneg h t d a => some (t, h, d, [a], fun x => x.getD 0 0 ^^^ 2 ^ (fWidth t - 1))
  | .lFcpsgn h t d a b => some (t, h, d, [a, b], fun x =>
    x.getD 0 0 % 2 ^ (fWidth t - 1) + x.getD 1 0 / 2 ^ (fWidth t - 1) * 2 ^ (fWidth t - 1))
  | .lFrnd h t r d a => some (t, h, d, [a], fun x => frnd (fFmt t) r (x.getD 0 0))
  | _ => none

/-- The .f32 functions of R96 and R98 and the conversions of R99 to R102: the word of a thread. -/
def wordResult : Instr → Option (Head × LDst × List LSrc × (List Nat → Nat))
  | .lFdot2 h bf r d a b c => some (h, d, [a, b, c], fun x => fdot2 bf r (x.getD 0 0) (x.getD 1 0) (x.getD 2 0))
  | .lFdiv h d a b => some (h, d, [a, b], fun x => roundF32 ((decF32 (x.getD 0 0)).div (decF32 (x.getD 1 0))))
  | .lFsqrt h d a => some (h, d, [a], fun x => roundF32 (decF32 (x.getD 0 0)).sqrt)
  | .lFrcp h d a => some (h, d, [a], fun x => rcpF32 (x.getD 0 0))
  | .lFrsq h d a => some (h, d, [a], fun x => rsqF32 (x.getD 0 0))
  | .lFexp2 h d a => some (h, d, [a], fun x => exp2F32 (x.getD 0 0))
  | .lFlog2 h d a => some (h, d, [a], fun x => log2F32 (x.getD 0 0))
  | .lFsin h d a => some (h, d, [a], fun x => sinF32 (x.getD 0 0))
  | .lFcos h d a => some (h, d, [a], fun x => cosF32 (x.getD 0 0))
  | .lFldexp h r d a b => some (h, d, [a, b], fun x => ldexpF32 r (x.getD 0 0) (toSigned 32 (x.getD 1 0)))
  | .lFclass h d a => some (h, d, [a], fun x => fclass (x.getD 0 0))
  | .lCvt h df sf r sat d a => some (h, d, [a], fun x => extendFmt df (convert df sf r sat (x.getD 0 0)))
  | .lCvtpk h df sf r sat d a b => some (h, d, [a, b], fun x =>
    convert df sf r sat (x.getD 0 0) + 2 ^ fmtBits df * convert df sf r sat (x.getD 1 0))
  | .lQblk h df r sat d a b => some (h, d, [a, b], fun x => qblk df r sat (x.getD 0 0) (x.getD 1 0))
  | .lDqblk h sf d a b => some (h, d, [a, b], fun x => dqblk sf (x.getD 0 0) (x.getD 1 0))
  | _ => none

end Sys2Proof.Machine

/-- The integer lane instructions complete for every state and operand: each element is the exact result fitted to the
type, wrapped or saturated; the dot products QDOT and HDOT add the products of the packed elements to their 32-bit
addend exactly before they fit the sum; MULFULL writes the exact 64-bit product to a pair. R50, R51, R93: what fitting
and packing mean: element i of a packed result is the function of the operands' elements i; a result wraps modulo 2^n,
or is clamped to the type's range and then reads as that number. Says that these forms complete, their own effect
being the next state of exec: lAdd, lSub, lMul, lMulhi, lMad, lMin, lMax, lAbs, lNeg, lSum3, lClamp, lQdot, lHdot,
lMulfull. -/
def Obligations.LaneIntegerResults : Prop :=
  (∀ (s : State) (w : Who) (r : Run) (rs : List Run), s.who? = some w → w.sh.queue = r :: rs →
    (∀ i t sat h d srcs g, intExact i = some (t, sat, h, d, srcs, g) → LaneGives i s w h d srcs fun th =>
      perElem (iWidth t) (fun xs => fitInt (iSigned t) sat (iWidth t) (g (xs.map (iVal t)))) (readAll s w r srcs th)) ∧
    (∀ h sg sat d a b c,
      let v (k x : Nat) : Int := if sg then toSigned k x else (x % 2 ^ k : Nat)
      let dot (n th : Nat) : Int := v 32 (readSrc s w.sh r c 2 th) + ((range 0 (32 / n)).map fun e =>
        v n (elemAt n e (readSrc s w.sh r a 0 th)) * v n (elemAt n e (readSrc s w.sh r b 1 th))).sum
      LaneGives (.lQdot h sg sat d a b c) s w h d [a, b, c] (fun th => fitInt sg sat 32 (dot 8 th)) ∧
        LaneGives (.lHdot h sg sat d a b c) s w h d [a, b, c] (fun th => fitInt sg sat 32 (dot 16 th))) ∧
    (∀ h sg d a b,
      let v (k x : Nat) : Int := if sg then toSigned k x else x
      Gives (.lMulfull h sg d a b) s w (laneAfter w h [a, b] fun th sh =>
        let p := (v 32 (readSrc s w.sh r a 0 th) * v 32 (readSrc s w.sh r b 1 th) % (2 ^ 64 : Nat)).toNat
        putGroup s d th sh [p % 2 ^ 32, p / 2 ^ 32] 0))) ∧
  ((∀ (n : Nat) (f : List Nat → Nat) (xs : List Nat) (i : Nat), (n = 8 ∨ n = 16 ∨ n = 32) → i < 32 / n →
    elemAt n i (perElem n f xs) = f (xs.map (elemAt n i)) % 2 ^ n ∧ perElem n f xs < 2 ^ 32) ∧
  (∀ (sg : Bool) (n : Nat) (x : Int), 0 < n →
    ((fitInt sg false n x : Nat) : Int) = x % 2 ^ n ∧
    toSigned n (fitInt true true n x) = max (-(2 ^ (n - 1))) (min (2 ^ (n - 1) - 1) x) ∧
    ((fitInt false true n x : Nat) : Int) = max 0 (min (2 ^ n - 1) x)))

/-- The bit and field lane instructions, MOV, LTID and NOP complete for every state and operand. BYTESEL follows R95's
pseudocode where a sign selector has no byte below (log 12). R95: BFX, BFI, TRUTH and BYTESEL bit by bit. Says that
these forms complete, their own effect being the next state of exec: lAnd, lOr, lXor, lNot, lShl, lShr, lSra, lRot,
lPopc, lClz, lBrev, lBfx, lBfi, lBytesel, lTruth, lScadd, lFunnel, lMov, lLtid, lNop. -/
def Obligations.LaneBitResults : Prop :=
  (∀ (s : State) (w : Who) (r : Run) (rs : List Run), s.who? = some w → w.sh.queue = r :: rs →
    (∀ i h d srcs f, bitResult i = some (h, d, srcs, f) →
      LaneGives i s w h d srcs fun th => f (readAll s w r srcs th)) ∧
    (∀ h d, LaneGives (.lLtid h d) s w h d [] fun th => 8 * w.sh.idx + th) ∧
    (∀ b, Gives (.lNop b) s w (w.sh.updHead Run.onward))) ∧
  (∀ (a b c i : Nat), a < 2 ^ 32 → b < 2 ^ 32 → c < 2 ^ 32 → i < 32 →
    (bfx false a b c).testBit i = (decide (i < min (c % 256) 32) && a.testBit (i + b % 256)) ∧
    (0 < c % 256 → (bfx true a b c).testBit i =
      a.testBit (min (min i (min (c % 256) 32 - 1) + b % 256) 31)) ∧
    (bfi a b c).testBit i =
      (if c % 256 ≤ i ∧ i < c % 256 + min (c / 256 % 256) 32 then b.testBit (i - c % 256) else a.testBit i) ∧
    (∀ tb : BitVec 8, (truth tb a b c).testBit i =
      tb.getLsbD ((a.testBit i).toNat + 2 * (b.testBit i).toNat + 4 * (c.testBit i).toNat)) ∧
    (c / 2 ^ (4 * (i / 8)) % 16 < 8 → (bytesel a b c).testBit i =
      (a + 2 ^ 32 * b).testBit (8 * (c / 2 ^ (4 * (i / 8)) % 16) + i % 8)))

/-- The floating-point lane instructions and the conversions complete for every state and operand: each element, or
word, is the exact result rounded once as R57 states, and the sign functions of R97 touch the sign bit alone; the
transcendental functions are log 13's. R53, R57: rounding a number that the format represents gives its own pattern in
every mode, NaN gives the format's canonical NaN, and every result fits the format. Says that these forms complete,
their own effect being the next state of exec: lFadd, lFsub, lFmul, lFma, lFdot2, lFmin, lFmax, lFclamp, lFabs, lFneg,
lFcpsgn, lFrnd, lFdiv, lFsqrt, lFrcp, lFrsq, lFexp2, lFlog2, lFsin, lFcos, lFldexp, lFclass, lCvt, lCvtpk, lQblk,
lDqblk. -/
def Obligations.LaneFloatResults : Prop :=
  (∀ (s : State) (w : Who) (r : Run) (rs : List Run), s.who? = some w → w.sh.queue = r :: rs →
    (∀ i t h d srcs f, floatResult i = some (t, h, d, srcs, f) →
      LaneGives i s w h d srcs fun th => perElem (fWidth t) f (readAll s w r srcs th)) ∧
    (∀ i h d srcs f, wordResult i = some (h, d, srcs, f) → LaneGives i s w h d srcs fun th => f (readAll s w r srcs th))) ∧
  (∀ (f : FFmt) (m : Rnd) (x : Nat), f ∈ [fF32, fF16, fBf16, fE4m3, fE5m2] → x < 2 ^ f.bits →
    (decodeF f x ≠ .nan → roundF f (decodeF f x) m false = x) ∧
    (∀ sat, roundF f .nan m sat = f.nan) ∧ decodeF f f.nan = .nan ∧
    (∀ v sat, roundF f v m sat < 2 ^ f.bits))

/-! ## Masks and operations across the shuttle (R103 to R109) -/

/-- The compares, MLOGIC and SEL complete: one mask bit, or one word, for each selected thread; a packed compare holds
when every element's does; NaN satisfies only ne and unord. Says that these forms complete, their own effect being the
next state of exec: lIcmp, lFcmp, lSel, lMlogic. -/
def Obligations.CompareAndSelect : Prop :=
  ∀ (s : State) (w : Who) (r : Run) (rs : List Run), s.who? = some w → w.sh.queue = r :: rs →
    let masks (i : Instr) (h : Head) (d : MReg) (srcs : List LSrc) (p : Nat → Bool) : Prop :=
      Gives i s w ((putMask d (guardOf w.sh h) p (release srcs w.sh)).updHead Run.onward)
    (∀ h t c d a b, masks (.lIcmp h t c d a b) h d [a, b] fun th =>
      (range 0 (32 / iWidth t)).all fun e =>
        let x := iVal t (elemAt (iWidth t) e (readSrc s w.sh r a 0 th))
        let y := iVal t (elemAt (iWidth t) e (readSrc s w.sh r b 1 th))
        match c with
        | .eq => decide (x = y)
        | .ne => decide (x ≠ y)
        | .lt => decide (x < y)
        | .le => decide (x ≤ y)
        | .gt => decide (x > y)
        | .ge => decide (x ≥ y)) ∧
    (∀ h t c d a b, masks (.lFcmp h t c d a b) h d [a, b] fun th =>
      (range 0 (32 / fWidth t)).all fun e =>
        match Sys2Proof.Machine.Num.cmp (decodeF (fFmt t) (elemAt (fWidth t) e (readSrc s w.sh r a 0 th)))
          (decodeF (fFmt t) (elemAt (fWidth t) e (readSrc s w.sh r b 1 th))) with
        | none => c == .ne || c == .unord
        | some .lt => c == .ne || c == .lt || c == .le || c == .ord
        | some .eq => c == .eq || c == .le || c == .ge || c == .ord
        | some .gt => c == .ne || c == .gt || c == .ge || c == .ord) ∧
    (∀ h f d a b, masks (.lMlogic h f d a b) h d [] fun th =>
      match f with
      | .and => (w.sh.readM a).getLsbD th && (w.sh.readM b).getLsbD th
      | .or => (w.sh.readM a).getLsbD th || (w.sh.readM b).getLsbD th
      | .xor => (w.sh.readM a).getLsbD th != (w.sh.readM b).getLsbD th
      | .andn => (w.sh.readM a).getLsbD th && !(w.sh.readM b).getLsbD th) ∧
    (∀ h d a b m, LaneGives (.lSel h d a b m) s w h d [a, b] fun th =>
      if (w.sh.readM m).getLsbD th then readSrc s w.sh r a 0 th else readSrc s w.sh r b 1 th)

/-- R72, R78, R87 to R90: what completing a lane instruction writes. A selected thread's destination holds its word and
its latch the same word; an excluded thread's operand file, latch and bound name keep theirs; every other name,
register and run is as it was, but that a line set aside is taken for a name that was unbound. What the excluded
threads of such a name hold is not stated (R79). R80: the last-read bits of an instruction unbind exactly the
main-file names that they mark, each bound one returning its line when the run ends, and change nothing else. R70,
R78, R103: a mask write replaces the bits of the selected threads and no other, m0 discards it, and every other mask
and register stays. -/
def Obligations.LaneWriteEffect : Prop :=
  (∀ (s : State) (sh : Shuttle) (g : BitVec 8) (d : LDst) (val : Nat → Nat),
    let t := putEach g (fun th => putDst s d th (val th)) sh
    let word (th : Nat) : W32 := BitVec.ofNat 32 (val th)
    t = { sh with v := t.v, q := t.q, lat := t.lat, latOk := t.latOk, queue := t.queue } ∧
    t.queue.map (fun r => { r with aside := 0, freed := 0 }) = sh.queue.map (fun r => { r with aside := 0, freed := 0 }) ∧
    (∀ th : Fin 8, t.lat.get th = (if g.getLsbD th then word th else sh.lat.get th) ∧
      t.latOk.getLsbD th = (g.getLsbD th || sh.latOk.getLsbD th)) ∧
    (∀ n (th : Fin 8), (t.q.get n).get th = if d = .opf n ∧ g.getLsbD th = true then word th else (sh.q.get n).get th) ∧
    (∀ n, d ≠ .main n ∨ g = 0 → t.v.get n = sh.v.get n) ∧
    (∀ n, d = .main n → g ≠ 0 → ∃ l, t.v.get n = some l ∧ ∀ th : Fin 8,
      (g.getLsbD th = true → l.get th = word th) ∧
      (g.getLsbD th = false → ∀ l0, sh.v.get n = some l0 → l.get th = l0.get th))) ∧
  (∀ (sh : Shuttle) (srcs : List LSrc),
    let t := release srcs sh
    t = { sh with v := t.v, queue := t.queue } ∧
    (∀ n : Fin 256, t.v.get n = if LSrc.main n true ∈ srcs then none else sh.v.get n) ∧
    ∀ r rs, sh.queue = r :: rs → ∃ k, t.queue = { r with freed := r.freed + k } :: rs ∧ k ≤ srcs.length) ∧
  (∀ (sh : Shuttle) (d : MReg) (g : BitVec 8) (p : Nat → Bool),
    let t := putMask d g p sh
    t = { sh with m := t.m } ∧ t.readM 0 = 0xFF ∧ (∀ m, m ≠ d → t.readM m = sh.readM m) ∧
      (d ≠ 0 → ∀ th : Fin 8, (t.readM d).getLsbD th = if g.getLsbD th then p th else (sh.readM d).getLsbD th))

/-- PASS and SCAN read every thread before any writes; VOTE and RED record a pending scalar result over the selected
threads and leave the scalar register alone until SYNCRUN (R74, R106 to R109). Says that these forms complete, their
own effect being the next state of exec: lPass, lVote, lRed, lScan. -/
def Obligations.ShuttleWideResults : Prop :=
  ∀ (s : State) (w : Who) (r : Run) (rs : List Run), s.who? = some w → w.sh.queue = r :: rs →
    let sel (h : Head) : List Nat := (range 0 8).filter fun th => (guardOf w.sh h).getLsbD th
    let pends (i : Instr) (srcs : List LSrc) (d : SReg) (v : Nat) : Prop :=
      Gives i s w (({ release srcs w.sh with pend := w.sh.pend ++ [(d, BitVec.ofNat 64 v)] } : Shuttle).updHead Run.onward)
    (∀ h m d a b, LaneGives (.lPass h m d a b) s w h d [a, b] fun th =>
      let n := readSrc s w.sh r b 1 th
      readSrc s w.sh r a (16 + th) (match m with
        | .from => n % 8
        | .back => if n ≤ th then th - n else th
        | .fwd => if th + n ≤ 7 then th + n else th
        | .mirror => th ^^^ (n % 8)
        | .rot => (th + n) % 8)) ∧
    (∀ h sg x d a, LaneGives (.lScan h sg x d a) s w h d [a] fun th =>
      (((sel h).filter fun u => if x then u < th else u ≤ th).map fun u => readSrc s w.sh r a 0 u).foldl (· + ·) 0 % 2 ^ 32) ∧
    (∀ h d a,
      let bit (th : Nat) : Bool := (w.sh.readM a).getLsbD th
      pends (.lVote h .any d a) [] d (if (sel h).any bit then 1 else 0) ∧
      pends (.lVote h .all d a) [] d (if (sel h).all bit then 1 else 0) ∧
      pends (.lVote h .ballot d a) [] d (((sel h).filter bit).map (2 ^ ·)).sum ∧
      pends (.lVote h .count d a) [] d ((sel h).filter bit).length) ∧
    (∀ h f d a, pends (.lRed h f d a) [a] d (reduce f ((sel h).map fun th => readSrc s w.sh r a 0 th)))

/-! ## Lane loads, stores and atomics (R152, R153, R222, R284 to R290) -/

namespace Sys2Proof.Machine

/-- The selected threads. -/
def selected (w : Who) (h : Head) : List Nat := (range 0 8).filter fun th => maskBit (guardOf w.sh h) th

/-- A lane access to global memory passes its checks: each selected thread's address is at the physical address that `pa`
gives; far memory is there. -/
def LaneMayAccess (s : State) (w : Who) (write : Bool) (size : Nat) (sel : List Nat) (va pa : Nat → Nat) : Prop :=
  s.check w.blk.site w.blk.ctx w.runFatal write 5 size (sel.map fun th => (th, va th)) =
    .go (sel.map fun th => (th, pa th)) ∧ ∀ th ∈ sel, s.farGone (pa th) = false

/-- Beside that, no line is poisoned or uncorrectable. -/
def LaneMayRead (s : State) (w : Who) (write : Bool) (size : Nat) (sel : List Nat) (va pa : Nat → Nat) : Prop :=
  LaneMayAccess s w write size sel va pa ∧ ∀ th ∈ sel, s.poison.contains (pa th / 64) = false ∧ s.bad.contains (pa th / 64) = false

/-- The offset of a thread's local access, after a step qualifier (R153, R228). -/
def stepOff (s : State) (w : Who) (r : Run) (q : Option StepQ) (a : LSrc) (off : W32) (th : Nat) : Nat :=
  let np := (s.core w.coreKey).np
  match q with
  | none => (readSrc s w.sh r a 0 th + off.toNat) % 2 ^ 32
  | some q => np.bufbase + qualStep q r.step % np.depth * np.buflen + (readSrc s w.sh r a 0 th + off.toNat) % 2 ^ 32

/-- A step qualifier passes its checks (R228). -/
def StepOk (s : State) (w : Who) (r : Run) (q : Option StepQ) (size : Nat) (sel : List Nat) (a : LSrc) (off : W32) : Prop :=
  let np := (s.core w.coreKey).np
  ∀ q', q = some q' → np.on = true ∧ q'.d.val < np.depth ∧
    ∀ th ∈ sel, (readSrc s w.sh r a 0 th + off.toNat) % 2 ^ 32 + size ≤ np.buflen

/-- The store that a local space names, its block's key and its region's length: A or W of the block itself, or A of the
member at a window, which is there, not lost, not leaving and the tenant of its region (R222), with no earlier packet of the
shuttle to it under way (R257). -/
def LocalTarget (s : State) (w : Who) (sp : LSpace) (b : Nat) (k : Block) (ws : Bool) (len : Nat) : Prop :=
  s.blk? b = some k ∧
  match sp with
  | .g => False
  | .a => b = w.b ∧ ws = false ∧ len = k.a.bytes
  | .w => b = w.b ∧ ws = true ∧ len = k.w.bytes
  | .peer n => ws = false ∧ ∃ m, s.window w.blk w.b n.val = some m ∧ m.block = b ∧ m.size = len ∧ m.lost = false ∧
      m.leaving = false ∧ s.tenant b m.tenancy = true ∧ (b ≠ w.b → s.reaches w.b b (w.blk.coreAt n.val) = true) ∧
      ∀ p ∈ s.peers, p.h = w.h → p.block ≠ b

/-- A peer access or a global one marks its run as having waited for memory (R245). -/
def marked (sp : LSpace) (sh : Shuttle) : Shuttle := match sp with | .peer _ => markWaited sh | _ => sh

/-- The local load of an LD or LDW: space, step qualifier, .wf, .clr, and its operands. -/
def localLoad : Instr → Option (Head × MType × LSpace × Option StepQ × Bool × Bool × LDst × LSrc × W32)
  | .lLd h t mc d a off => if mc.space = .g then none else some (h, t, mc.space, mc.step, mc.wf, mc.clr, d, a, off)
  | .lLdw h t wf clr d a off => some (h, t, .w, none, wf, clr, d, a, off)
  | _ => none

/-- The global load of an LD or LDG: type, the invariant flag, the destination, the sources and each thread's address. -/
def globalLoad (s : State) (w : Who) (r : Run) : Instr → Option (Head × MType × Bool × LDst × List LSrc × (Nat → Nat))
  | .lLd h t mc d a off => if mc.space = .g then some (h, t, mc.inv, d, [a], globalAddr s w r a off) else none
  | .lLdg h wide d a b off =>
    let t : MType := if wide then .b64 else .b32
    some (h, t, false, d, [b], fun th =>
      ((r.caps.get a).toNat + (if wide then 8 else 4) * readSrc s w.sh r b 1 th + (off.signExtend 64).toNat) % 2 ^ 64)
  | _ => none

end Sys2Proof.Machine

/-- LD from global memory, LDG and BLD complete: each selected thread's destination holds the bytes that its core
reads at its address, or under .inv those that R266 lets an invariant load of its context return, extended as R153 and
R288 state; a BLD thread past the extent gives 0 under BOUNDS 1. No byte of memory, no other register changes; an
invariant load notes the bytes that it reads and which of them are written meanwhile. That the run counts as having
waited is log 42, and what a write under way means to an invariant load is log 114; of a 16-byte load one half may
have been read before (R255), and it completes with that half as it was read. Says that these forms complete, their
own effect being the next state of exec: lLd, lLdg, lBld. -/
def Obligations.LaneGlobalLoads : Prop :=
  ∀ (s : State) (w : Who) (r : Run) (rs : List Run), s.who? = some w → w.sh.queue = r :: rs → r.repl = none →
    (∀ i h t inv d srcs va pa, globalLoad s w r i = some (h, t, inv, d, srcs, va) →
      LaneMayRead s w false t.size (selected w h) va pa →
      ∃ u, exec i s = .next u ∧ OnlyShuttle { s with inv := u.inv } u w.h
          (markWaited (laneAfter w h srcs fun th => putLoaded s d t th
            (if inv then { s with inv := u.inv }.invView w.blk.ctx w.blk.site w.blk.core (pa th) t.size
             else match r.half, t with
              | some (upper, bs), .b128 =>
                let early := ((bs.find? (·.1 == th)).map (·.2)).getD []
                if upper then s.view w.blk.site w.blk.core (pa th) 8 ++ early
                else early ++ s.view w.blk.site w.blk.core (pa th + 8) 8
              | _, _ => s.view w.blk.site w.blk.core (pa th) t.size))) ∧
        (inv = false → u.inv = s.inv) ∧
        (inv = true →
          let read (x : Nat) : Prop := ∃ th ∈ selected w h, pa th ≤ x ∧ x < pa th + t.size
          (∀ x, x ∈ (u.invUse w.blk.ctx).loaded ↔ x ∈ (s.invUse w.blk.ctx).loaded ∨ read x) ∧
          (∀ x, x ∈ (u.invUse w.blk.ctx).broken ↔ x ∈ (s.invUse w.blk.ctx).broken ∨
            (read x ∧ s.invBroken w.blk.ctx w.blk.site w.blk.core x = true)) ∧
          ∀ k, k ≠ w.blk.ctx → Tab.get? u.inv k = Tab.get? s.inv k)) ∧
    (∀ h d rec b off pa,
      let q := recordOf r rec
      let size := fmtBits (bufFmt q) / 8
      let o (th : Nat) : Nat := readSrc s w.sh r b 1 th * bufStrideI q + th * bufStrideT q + off.toNat
      let out (th : Nat) : Bool := o th + size > bufExtent q
      bufBad q = false → (bufBounds q = 0 → ∀ th ∈ selected w h, out th = false) →
      let sel := (selected w h).filter fun th => !out th || bufBounds q == 2
      LaneMayRead s w false size sel (fun th => bufBase q + o th) pa →
      Gives (.lBld h d rec b off) s w (markWaited (laneAfter w h [b] fun th => putDst s d th
        (if out th && bufBounds q == 1 then 0 else bufLoad (bufFmt q) (leNat (s.view w.blk.site w.blk.core (pa th) size))))))

/-- LD from A or a window and LDW complete (that one through a window marks its run as having waited is log 42): each
selected thread's destination holds the bytes at its offset of the store; under .wf they complete only with every
granule full, and else stand with nothing changed; under .clr exactly the granules named become empty. No byte of any
store or memory changes. Says that these forms complete, their own effect being the next state of exec: lLdw, lLd (on
a store). -/
def Obligations.LaneLocalLoads : Prop :=
  ∀ (s : State) (w : Who) (r : Run) (rs : List Run) (i : Instr), s.who? = some w → w.sh.queue = r :: rs →
    ∀ h t sp q wf clr d a off b k ws len, localLoad i = some (h, t, sp, q, wf, clr, d, a, off) →
      LocalTarget s w sp b k ws len → StepOk s w r q t.size (selected w h) a off →
      (∀ th ∈ selected w h, stepOff s w r q a off th + t.size ≤ len ∧ stepOff s w r q a off th % t.size = 0) →
      let st := k.store ws
      let gs := granulesOf t.size ((selected w h).map fun th => (th, stepOff s w r q a off th))
      ((wf = true → ∀ g ∈ gs, st.isFull g = true) → ∃ u, exec i s = .next u ∧
        u = { s with shuttles := u.shuttles, blocks := u.blocks } ∧
        u.sh? w.h = some (marked sp (laneAfter w h [a] fun th => putLoaded s d t th (st.readN (stepOff s w r q a off th) t.size))) ∧
        (∀ j, j ≠ w.h → u.sh? j = s.sh? j) ∧ (∀ c, c ≠ b → u.blk? c = s.blk? c) ∧
        ∃ k', u.blk? b = some k' ∧ k' = k.setStore ws { st with full := (k'.store ws).full } ∧
          ∀ g, (k'.store ws).isFull g = (st.isFull g && !(clr && gs.contains g))) ∧
      (wf = true → (∃ g ∈ gs, st.isFull g = false) → ∃ sh, Gives i s w sh ∧
        ∃ r', sh = { w.sh with queue := r' :: rs } ∧ r' = { r with since := r'.since, pages := [], waited := r'.waited })

/-- ST to global memory and BST complete with their bytes posted: as the storing core reads it, each byte is that of
the highest selected thread that writes it, and every other byte, as any core reads it, and memory are as before. Says
that these forms complete, their own effect being the next state of exec: lSt, lBst. -/
def Obligations.LaneGlobalStores : Prop :=
  ∀ (s : State) (w : Who) (r : Run) (rs : List Run), s.who? = some w → w.sh.queue = r :: rs →
    let stores (i : Instr) (h : Head) (srcs : List LSrc) (sel : List Nat) (size : Nat) (pa : Nat → Nat) (data : Nat → List Byte) : Prop :=
      ∃ u, exec i s = .next u ∧ u = { s with shuttles := u.shuttles, posted := u.posted } ∧
        u.sh? w.h = some (laneAfter w h srcs fun _ x => x) ∧ (∀ j, j ≠ w.h → u.sh? j = s.sh? j) ∧
        (∀ th ∈ sel, ∀ n, n < size → (∀ o ∈ sel, th < o → pa th + n < pa o ∨ pa o + size ≤ pa th + n) →
          u.viewByte w.blk.site w.blk.core (pa th + n) = s.kept (pa th + n) ((data th).getD n 0)) ∧
        ∀ site core x, (site, core) ≠ (w.blk.site, w.blk.core) ∨ (∀ th ∈ sel, x < pa th ∨ pa th + size ≤ x) →
          u.viewByte site core x = s.viewByte site core x
    (∀ h t mc a b off pa, mc.space = .g → LaneMayAccess s w true t.size (selected w h) (globalAddr s w r a off) pa →
      (∀ th, pa th % t.size = 0) →
      stores (.lSt h t mc a b off) h [a, b] (selected w h) t.size pa (storeBytes s w r t b)) ∧
    (∀ h rec b c off pa,
      let q := recordOf r rec
      let size := fmtBits (bufFmt q) / 8
      let o (th : Nat) : Nat := readSrc s w.sh r b 1 th * bufStrideI q + th * bufStrideT q + off.toNat
      let out (th : Nat) : Bool := o th + size > bufExtent q
      let sel := (selected w h).filter fun th => !out th || bufBounds q == 2
      bufBad q = false → (bufBounds q = 0 → ∀ th ∈ selected w h, out th = false) → (∀ th, pa th % size = 0) →
      LaneMayAccess s w true size sel (fun th => bufBase q + o th) pa →
      stores (.lBst h rec b c off) h [b, c] sel size pa
        fun th => leBytes size (bufStore (bufFmt q) (readSrc s w.sh r c 2 th)))

/-- ST to A completes: each byte of the store is that of the highest selected thread that writes it, every other byte
is as before, and under .fill the granules named become full, and no other; so does ST through the window onto the
block's own region. Through a window onto another block the bytes leave in one packet, and no store changes (log 78);
a store through a window marks its run as having waited (log 42). Says that these forms complete, their own effect
being the next state of exec: lSt (on a store). -/
def Obligations.LaneLocalStores : Prop :=
  ∀ (s : State) (w : Who) (r : Run) (rs : List Run), s.who? = some w → w.sh.queue = r :: rs →
    ∀ h t mc a b off c k len, LocalTarget s w mc.space c k false len → StepOk s w r mc.step t.size (selected w h) a off →
      let o (th : Nat) : Nat := stepOff s w r mc.step a off th
      (∀ th ∈ selected w h, o th + t.size ≤ len ∧ o th % t.size = 0) →
      let gs := granulesOf t.size ((selected w h).map fun th => (th, o th))
      (c = w.b → ∃ u, exec (.lSt h t mc a b off) s = .next u ∧
        u = { s with shuttles := u.shuttles, blocks := u.blocks, cores := u.cores, older := u.older } ∧
        u.sh? w.h = some (marked mc.space (laneAfter w h [a, b] fun _ x => x)) ∧ (∀ j, j ≠ w.h → u.sh? j = s.sh? j) ∧
        (∀ x, x ≠ w.b → u.blk? x = s.blk? x) ∧ ∃ k', u.blk? w.b = some k' ∧ k' = { k with a := k'.a } ∧
          (∀ g, k'.a.isFull g = (k.a.isFull g || (mc.wf && gs.contains g))) ∧
          (∀ th ∈ selected w h, ∀ n, n < t.size →
            (∀ p ∈ selected w h, th < p → o th + n < o p ∨ o p + t.size ≤ o th + n) →
            k'.a.read (o th + n) = (storeBytes s w r t b th).getD n 0) ∧
          ∀ x, (∀ th ∈ selected w h, x < o th ∨ o th + t.size ≤ x) → k'.a.read x = k.a.read x) ∧
      (∀ n m, mc.space = .peer n → s.window w.blk w.b n.val = some m → c ≠ w.b → ∃ u, exec (.lSt h t mc a b off) s = .next u ∧
        u = { s with shuttles := u.shuttles, peers := u.peers } ∧
        u.sh? w.h = some (markWaited (laneAfter w h [a, b] fun _ x => x)) ∧ (∀ j, j ≠ w.h → u.sh? j = s.sh? j) ∧
        u.peers = if selected w h = [] then s.peers else s.peers ++
          [{ core := w.blk.coreAt n.val, block := m.block, tenancy := m.tenancy, h := w.h, ipc := r.lrunPc, copy := none,
             req := .write ((selected w h).map fun th => (o th, storeBytes s w r t b th)) mc.wf }])

namespace Sys2Proof.Machine

/-- The atomics of the selected threads on one memory, ascending: each finds what the one before it left. The old values,
what succeeded, and the memory after. -/
def atomicsOn {μ : Type} (rd : μ → Nat → Nat) (wr : μ → Nat → Nat → μ) (at_ : Nat → Nat) (f : Nat → Nat → Option Nat) :
    List Nat → μ → List (Nat × Nat × Bool) × μ
  | [], m => ([], m)
  | th :: ts, m =>
    match f th (rd m (at_ th)) with
    | none => ((th, rd m (at_ th), false) :: (atomicsOn rd wr at_ f ts m).1, (atomicsOn rd wr at_ f ts m).2)
    | some v => ((th, rd m (at_ th), true) :: (atomicsOn rd wr at_ f ts (wr m (at_ th) v)).1,
        (atomicsOn rd wr at_ f ts (wr m (at_ th) v)).2)

/-- AMO and AMO3: the guard, the space, the mask of the results, the destination, the address operand and offset, the
sources, and a thread's new value from the old one. -/
def atomicOf (s : State) (w : Who) (r : Run) :
    Instr → Option (Head × LSpace × MReg × LDst × LSrc × W32 × List LSrc × (Nat → Nat → Option Nat))
  | .lAmo h f sg sp d a b off =>
    some (h, sp, 0, d, a, off, [a, b], fun th old => some (amoNew f sg 32 old (readSrc s w.sh r b 1 th)))
  | .lAmo3 h f sg sp res d a b c =>
    some (h, sp, res, d, a, 0, [a, b, c], fun th old => amo3New f sg 32 old (readSrc s w.sh r b 1 th) (readSrc s w.sh r c 2 th))
  | _ => none

/-- The head run stops at its word (R336). -/
def Run.halt (r : Run) : Run := { r with phase := .stopped, since := none, pages := [], fatal := [], repl := none, half := none }

/-- No launch that waits for an event object or arrives at one is queued or runs (R322). -/
def State.NoEvents (s : State) : Prop := ∀ e ∈ s.launches, e.2.complete = true ∨ (e.2.waits = [] ∧ e.2.arrive = 0)

/-- What a thread is given by the list of the atomics' outcomes. -/
def outcomeOf (out : List (Nat × Nat × Bool)) (th : Nat) : Nat × Bool :=
  match out.find? (·.1 == th) with
  | some e => e.2
  | none => (0, false)

end Sys2Proof.Machine

/-- AMO and AMO3 complete: the selected threads' atomics are performed one after another in ascending order, each old
value goes to the destination, the success to the mask. On global memory with no write under way to the lines, no
compressed page, no table of contexts in the lines and no launch that names an event object (a write leaves the bits
that R11 reserves), and on a local store; nothing but the words they write changes. An atomic on global memory or
through a window marks its run as having waited, one on the block's own store does not (R245; log 42). Says that these
forms complete, their own effect being the next state of exec: lAmo, lAmo3. -/
def Obligations.LaneAtomics : Prop :=
  ∀ (s : State) (w : Who) (r : Run) (rs : List Run) (i : Instr), s.who? = some w → w.sh.queue = r :: rs → r.repl = none →
    ∀ h sp res d a off srcs f, atomicOf s w r i = some (h, sp, res, d, a, off, srcs, f) →
      let done (out : List (Nat × Nat × Bool)) : Shuttle :=
        (putMask res (guardOf w.sh h) (fun th => (outcomeOf out th).2)
          (putEach (guardOf w.sh h) (fun th => putDst s d th (outcomeOf out th).1) (release srcs w.sh))).updHead Run.onward
      (∀ pa, sp = .g → s.mem.wf = true → s.NoEvents → LaneMayRead s w true 4 (selected w h) (globalAddr s w r a off) pa →
        (∀ th ∈ selected w h, pa th % 4 = 0 ∧ (∀ p ∈ s.posted, p.line ≠ pa th / 64) ∧ s.OffTables (pa th) ∧
          s.compressedAt w.blk.site w.blk.ctx (globalAddr s w r a off th) = false) →
        let o := atomicsOn (fun m x => leNat (Memory.readN m x 4))
          (fun m x v => Memory.writeCells m (State.keepRz { s with mem := m } (cellsFrom x (leBytes 4 v)))) pa f
          (selected w h) s.mem
        ∃ u, exec i s = .next u ∧ u.mem = o.2 ∧ u.posted = s.posted ∧ u.blocks = s.blocks ∧
          ∃ sh, u.sh? w.h = some sh ∧ sh = { markWaited (done o.1) with resv := sh.resv }) ∧
      (∀ b k ws len, LocalTarget s w sp b k ws len →
        let at_ (th : Nat) : Nat := (readSrc s w.sh r a 0 th + off.toNat) % 2 ^ 32
        (∀ th ∈ selected w h, at_ th + 4 ≤ len ∧ at_ th % 4 = 0) →
        let o := atomicsOn (fun (st : LStore) x => leNat (st.readN x 4)) (fun (st : LStore) x v => st.writeN x (leBytes 4 v)) at_ f
          (selected w h) (k.store ws)
        ∃ u, exec i s = .next u ∧
          u = { s with shuttles := u.shuttles, blocks := u.blocks, cores := u.cores, older := u.older } ∧
          u.sh? w.h = some (marked sp (done o.1)) ∧ (∀ j, j ≠ w.h → u.sh? j = s.sh? j) ∧ u.blk? b = some (k.setStore ws o.2) ∧
          ∀ c, c ≠ b → u.blk? c = s.blk? c)

/-- The checks of one access of the control stream (R282, R284): the range, the alignment, the translation, a serviceable
fault, and write protection, in this order. What stops a scalar access stops it before any effect: an access to space
A that passes `.astore` traps with 0x085, a misaligned one with 0x08D, and an access to space G with what its checks
give, or it waits for the page; and what stops a lane access stops its run before any effect, with the threads that
failed in the record. -/
def Obligations.AccessTraps : Prop :=
  (∀ (s : State) (site ctx size va : Nat) (write : Bool),
    (2 ^ 57 ≤ va → s.check site ctx [] write 5 size [(0, va)] = .trap 0x05D 1 va) ∧
    (va < 2 ^ 57 → va % size ≠ 0 → s.check site ctx [] write 5 size [(0, va)] = .trap 0x04D 1 va) ∧
    (va < 2 ^ 57 → va % size = 0 → s.translate site ctx va = .none →
      s.check site ctx [] write 5 size [(0, va)] = .trap 0x045 1 va) ∧
    (∀ e b x g, va < 2 ^ 57 → va % size = 0 → s.translate site ctx va = .serv e b x g →
      s.check site ctx [] write 5 size [(0, va)] = .wait [va / 65536] ∧
      s.check site ctx [va / 65536] write 5 size [(0, va)] = .trap 0x045 1 va) ∧
    (∀ pa wr c, va < 2 ^ 57 → va % size = 0 → s.translate site ctx va = .page pa wr c →
      s.check site ctx [] write 5 size [(0, va)] = if write && !wr then .trap 0x055 1 va else .go [(0, pa)])) ∧
  (∀ (s : State) (w : Who) (d a : SReg) (i : BitVec 12), s.who? = some w →
    let va := (w.sh.readS a + i.signExtend 64).toNat
    (∀ wide : Bool,
      let size := if wide then 8 else 4
      let r (c : Nat) : TrapRec := { cause := c, tmask := 1, addr := va % 2 ^ 32 }
      (va % 2 ^ 32 + size > w.blk.a.bytes →
        Traps (.ldsA d a wide i) s w (r 0x085) ∧ Traps (.stsA d a wide i) s w (r 0x085)) ∧
      (va % 2 ^ 32 + size ≤ w.blk.a.bytes → va % 2 ^ 32 % size ≠ 0 →
        Traps (.ldsA d a wide i) s w (r 0x08D) ∧ Traps (.stsA d a wide i) s w (r 0x08D))) ∧
    (∀ (z : LdsU) c m x, s.check w.blk.site w.blk.ctx w.sh.fatalPages false 5 (ldsUSize z) [(0, va)] = .trap c m x →
      Traps (.ldsG d a z i) s w { cause := c, tmask := 1, addr := x }) ∧
    (∀ (z : LdsS) c m x, s.check w.blk.site w.blk.ctx w.sh.fatalPages false 5 (ldsSSize z) [(0, va)] = .trap c m x →
      Traps (.ldsGSigned d a z i) s w { cause := c, tmask := 1, addr := x }) ∧
    (∀ (z : LdsU) c m x, s.check w.blk.site w.blk.ctx w.sh.fatalPages true 5 (ldsUSize z) [(0, va)] = .trap c m x →
      Traps (.stsG d a z i) s w { cause := c, tmask := 1, addr := x }) ∧
    (∀ (z : LdsU) ps, s.check w.blk.site w.blk.ctx w.sh.fatalPages false 5 (ldsUSize z) [(0, va)] = .wait ps →
      ∃ t, exec (.ldsG d a z i) s = .next t ∧ t.sh? w.h = some { w.sh with wait := .memory, waitPages := ps } ∧
        t = { s with shuttles := t.shuttles, faults := t.faults })) ∧
  (∀ (s : State) (w : Who) (r : Run) (rs : List Run), s.who? = some w → w.sh.queue = r :: rs → r.repl = none →
    let stops (i : Instr) (cause tmask addr : Nat) : Prop := Gives i s w { w.sh with
      queue := r.halt :: rs
      laneTrap := some { cause := cause, lane := true, tmask := tmask, addr := addr, lword := r.lword, roff := r.off } }
    (∀ i h t inv d srcs va c m x, globalLoad s w r i = some (h, t, inv, d, srcs, va) →
      s.check w.blk.site w.blk.ctx r.fatal false 5 t.size ((selected w h).map fun th => (th, va th)) = .trap c m x →
      stops i c m x) ∧
    (∀ h t mc a b off c m x, mc.space = .g → s.check w.blk.site w.blk.ctx r.fatal true 5 t.size
        ((selected w h).map fun th => (th, globalAddr s w r a off th)) = .trap c m x →
      stops (.lSt h t mc a b off) c m x) ∧
    (∀ h t (mc : MemCtl) d a b off th rest, mc.space = .a → mc.step = none →
      let o (x : Nat) : Nat := (readSrc s w.sh r a 0 x + off.toNat) % 2 ^ 32
      ((selected w h).filter (fun x => decide (w.blk.a.bytes < o x + t.size)) = th :: rest →
        stops (.lLd h t mc d a off) 0x085 (maskOf (th :: rest)) (o th) ∧
        stops (.lSt h t mc a b off) 0x085 (maskOf (th :: rest)) (o th)) ∧
      ((∀ x ∈ selected w h, o x + t.size ≤ w.blk.a.bytes) →
        (selected w h).filter (fun x => decide (o x % t.size ≠ 0)) = th :: rest →
        stops (.lLd h t mc d a off) 0x08D (maskOf (th :: rest)) (o th) ∧
        stops (.lSt h t mc a b off) 0x08D (maskOf (th :: rest)) (o th))))

/-- RLD, XFORM, XEVAL and XNEAR complete: RLD with the bytes of the step's buffer at the named core once that step is
done there and not overwritten (R229); XFORM adds every selected source to its multipole in thread order and writes no
register (R209); XEVAL gives potential and field, CanonNaN from a register that is no local expansion and for a NaN
(R210, R61; that this holds of the inverted D.im is log 79); XNEAR appends each selected thread's value to its list,
or counts it in DROPPED where the list is full or its end is past the region (R211). That an RLD at another core marks
its run as having waited is log 42. Says that these forms complete, their own effect being the next state of exec:
lRld, lXform, lXeval, lXnear. -/
def Obligations.StepAndExpansionLanes : Prop :=
  ∀ (s : State) (w : Who) (r : Run) (rs : List Run), s.who? = some w → w.sh.queue = r :: rs →
    (∀ h t d a b c off,
      let np := (s.core w.coreKey).np
      let core (th : Nat) : Nat := readSrc s w.sh r b 1 th
      let step (th : Nat) : Nat := readSrc s w.sh r c 2 th
      let o (th : Nat) : Nat := (readSrc s w.sh r a 0 th + off.toNat) % 2 ^ 32
      let far (th : Nat) : Paced := (s.core (128 * w.blk.site + core th)).np
      np.on = true →
      (∀ th ∈ selected w h, (core th = w.blk.core ∨ core th ∈ np.waiton) ∧ core th ∉ r.gone ∧ o th % t.size = 0 ∧
        (far th).on = true ∧ o th + t.size ≤ (far th).buflen ∧
        stepGe (if core th = w.blk.core then (far th).done else (far th).published) (step th) = true ∧
        stepGe (((far th).step + 2 ^ 32 - step th % 2 ^ 32) % 2 ^ 32) (far th).depth = false ∧
        ∃ ow k, (far th).owner = some ow ∧ s.blk? ow = some k) →
      ∃ u, exec (.lRld h t d a b c off) s = .next u ∧ u = { s with shuttles := u.shuttles, dies := u.dies } ∧
        (∀ j, j ≠ w.h → u.sh? j = s.sh? j) ∧
        u.sh? w.h = some ((if (selected w h).any fun th => core th != w.blk.core then markWaited else id)
          (laneAfter w h [a, b, c] fun th => putLoaded s d t th (
            match (far th).owner.bind s.blk? with
            | some k => k.a.readN ((far th).bufbase + step th % (far th).depth * (far th).buflen + o th) t.size
            | none => [])))) ∧
    (∀ h e o a b c, Changes (.lXform h e o a b c) s w (laneAfter w h [a, b, c] fun _ x => x)
      (withEreg w e ((w.blk.eregs.get e).withSeries ((selected w h).foldl (fun l th =>
        formSource l (natC (w.blk.eregs.get e).centre) (r.ords.get o).toNat (readSrc s w.sh r a 0 th) (readSrc s w.sh r b 1 th)
          (readSrc s w.sh r c 2 th) ++ l.drop ((r.ords.get o).toNat + 1)) (w.blk.eregs.get e).series))) same) ∧
    (∀ h d e o a b, Gives (.lXeval h d e o a b) s w (laneAfter w h [a, b] fun th sh =>
      let v := evalLocal (w.blk.eregs.get e).series (natC (w.blk.eregs.get e).centre) (r.ords.get o).toNat
        (readSrc s w.sh r a 0 th) (readSrc s w.sh r b 1 th)
      putGroup s d th sh (if (w.blk.eregs.get e).kind = 2 then [canonF32 v.1.1, canonF32 v.2.1, canonF32 (negF32 v.2.2)]
        else [nanF32, nanF32, nanF32]) 0)) ∧
    (∀ h a b off,
      let o (th : Nat) : Nat := (readSrc s w.sh r a 0 th + off.toNat) % 2 ^ 32
      (∀ th ∈ selected w h, o th % 16 = 0 ∧ o th + 16 ≤ w.blk.a.bytes) →
      exec (.lXnear h a b off) s = .next (((selected w h).foldl (fun x th => x.append w.b (o th) (readSrc s w.sh r b 1 th)) s).laneDone
        w [a, b] id)) ∧
    (∀ o v cnt cap, o + 16 ≤ w.blk.a.bytes → cnt = leNat (w.blk.a.readN o 4) → cap = leNat (w.blk.a.readN (o + 4) 4) →
      v < 2 ^ 32 →
      ∃ k, (s.append w.b o v).blk? w.b = some k ∧ leNat (k.a.readN (o + 12) 4) = 0 ∧
        (cnt < cap ∧ o + 16 + 4 * cnt + 4 ≤ w.blk.a.bytes → leNat (k.a.readN o 4) = cnt + 1 ∧
          leNat (k.a.readN (o + 16 + 4 * cnt) 4) = v ∧
          ∀ x, (x < o ∨ o + 4 ≤ x) → (x < o + 12 ∨ o + 16 ≤ x) → (x < o + 16 + 4 * cnt ∨ o + 16 + 4 * cnt + 4 ≤ x) →
            k.a.read x = w.blk.a.read x) ∧
        (¬(cnt < cap ∧ o + 16 + 4 * cnt + 4 ≤ w.blk.a.bytes) →
          leNat (k.a.readN (o + 8) 4) = min (leNat (w.blk.a.readN (o + 8) 4) + 1) 0xFFFFFFFF ∧
          ∀ x, x < o + 8 ∨ o + 16 ≤ x → k.a.read x = w.blk.a.read x))

/-! ## Steps of the other agents -/

namespace Sys2Proof.Machine

/-- The step answers a next state, in which nothing but the shuttle `h` has changed, which is now `sh`. -/
def ShuttleStep (i : Instr) (s : State) (h : Nat) (sh : Shuttle) : Prop := ∃ t, exec i s = .next t ∧ OnlyShuttle s t h sh

/-- The step answers a next state, in which nothing but the core `c` has changed, which is now `k`. -/
def CoreStep (i : Instr) (s : State) (c : Nat) (k : Core) : Prop :=
  ∃ t, exec i s = .next t ∧ t = { s with cores := t.cores } ∧ t.core c = k ∧ ∀ d, d ≠ c → t.core d = s.core d

/-- The step answers a next state, in which nothing but the core `c`, which is now `k`, and shuttles have changed: an
existing shuttle `h` is now what `f` makes of it. -/
def CoreAndShuttleStep (i : Instr) (s : State) (c : Nat) (k : Core) (h : Nat) (f : Shuttle → Shuttle) : Prop :=
  ∃ t, exec i s = .next t ∧ t = { s with cores := t.cores, shuttles := t.shuttles } ∧ t.core c = k ∧
    (∀ d, d ≠ c → t.core d = s.core d) ∧ t.sh? h = (s.sh? h).map f ∧ ∀ j, j ≠ h → t.sh? j = s.sh? j

/-- The step answers a next state, in which nothing but the partition `p` has changed, which is now `x`. -/
def PartStep (i : Instr) (s : State) (p : Nat) (x : Part) : Prop :=
  ∃ t, exec i s = .next t ∧ t = { s with parts := t.parts } ∧ t.part? p = some x ∧ ∀ q, q ≠ p → t.part? q = s.part? q

/-- The step answers a next state, in which nothing but the die of a site has changed, which is now `d`. -/
def DieStep (i : Instr) (s : State) (site : Nat) (d : Die) : Prop :=
  ∃ t, exec i s = .next t ∧ t = { s with dies := t.dies } ∧ t.die site = d ∧ ∀ x, x ≠ site → t.die x = s.die x

/-- The step answers a next state, in which nothing but a fabric port has changed, which is now `p`. -/
def PortStep (i : Instr) (s : State) (n : Nat) (p : Port) : Prop :=
  ∃ t, exec i s = .next t ∧ t = { s with ports := t.ports } ∧ t.port n = p ∧ ∀ x, x ≠ n → t.port x = s.port x

/-- A trap record of the head run (R338). -/
def headTrap (r : Run) (cause tmask addr : Nat) : TrapRec :=
  { cause := cause, lane := true, tmask := tmask, addr := addr, lword := r.lword, roff := r.off }

/-- Blocks begin to stop: nothing of a block has changed but how it leaves, those that `hit` names, but for a supervisor's, are
stopping, and one that was placed and not yet admitted may have given back its place. -/
def BlocksStop (s t : State) (hit : Nat → Block → Prop) : Prop :=
  ∀ b k, s.blk? b = some k → ∃ k', t.blk? b = some k' ∧
    (k' = { k with stopping := k'.stopping, swap := k'.swap, victim := k'.victim } ∨
      (k.status = .placed ∧ k' = { k with status := .saved, tiles := [] })) ∧
    (k.stopping = true → k'.stopping = true) ∧ (hit b k → k.status = .resident → k.supervisor = false → k'.stopping = true)

/-- Exactly the resident blocks of a list, but for a supervisor's, begin to stop, and `f` says how; those of it that are placed
and not yet admitted give back their places with their gangs. -/
def BlocksStopExactly (s t : State) (bs : List Nat) (f : Block → Block) : Prop :=
  ∀ b k, s.blk? b = some k → t.blk? b = some (
    if b ∈ bs ∧ k.status = .resident ∧ k.supervisor = false then f { k with stopping := true }
    else if k.status = .placed ∧ (s.blocks.any fun e => bs.contains e.1 && e.2.status == .placed && !e.2.supervisor &&
        (e.1 == b || s.sameGang e.2 k)) = true then { k with status := .saved, tiles := [] }
    else k)

/-- The error log took an entry, unless it is full (R379). -/
def Logged (s t : State) (repl : Bool) (site quad core cause : Nat) : Prop :=
  s.mgmt.log.length < 4096 → ∃ time, t.mgmt.log = s.mgmt.log ++
    [{ time := time, repl := repl, site := site, quad := quad, core := core, cause := cause }]

/-- A failed unit entered 0x1D8 in the error log, and then the cause of its fencing, which may be that very one (R346, R347). -/
def LoggedLost (s t : State) (site quad core cause : Nat) : Prop :=
  let entry (time : Nat) (repl : Bool) (cause : Nat) : LogEntry :=
    { time := time, repl := repl, site := site, quad := quad, core := core, cause := cause }
  s.mgmt.log.length + 2 ≤ 4096 → ∃ time rest, t.mgmt.log = s.mgmt.log ++
    (if cause = 0x1D8 then [] else [entry time false 0x1D8]) ++ [entry time true cause] ++ rest

end Sys2Proof.Machine

/-- RUN_READY, LANE_ARBITRATION, RUN_END, DRAIN_END, the breaker, and the ends of waits on granules (R71, R81 to R83,
R85, R140, R141, R245, R246, R328). A run whose shuttle would exceed its peak stops with 0x031; else its lines are set
aside, or it waits to enlarge; the first of the candidates takes a free lane; a run that is over leaves the queue and
its lines go to waiting shuttles. Says that these forms complete, their own effect being the next state of exec:
runReady, laneArbitration, runEnd, breakerStage1, breakerStage2, drainEnd, wfWaitRelease, fullEmptyWaitExpired. -/
def Obligations.RunScheduling : Prop :=
  (∀ (s : State) (h : Nat) (sh : Shuttle) (blk : Block) (r : Run) (rs : List Run),
    s.sh? h = some sh → s.blk? (blockOf h) = some blk → sh.queue = r :: rs →
    let c := blk.coreKey
    let ws := unboundWrites sh 0 r.words []
    (r.phase = .queued → s.competes h sh = true → s.heldBack c sh = false →
      (blk.kern.peak < sh.bound + ws.length → ShuttleStep (.runReady h) s h { sh with
        queue := { r with phase := .stopped, since := none } :: rs
        laneTrap := some { cause := 0x031, lane := true, lword := r.lword,
                           roff := (ws.getD (blk.kern.peak - sh.bound) (0, 0)).1 } }) ∧
      (sh.bound + ws.length ≤ blk.kern.peak → s.supplies c h ws.length = true → ShuttleStep (.runReady h) s h { sh with
        queue := { r with phase := .ready s.now, aside := ws.length, since := none } :: rs }) ∧
      (sh.bound + ws.length ≤ blk.kern.peak → s.supplies c h ws.length = false → ShuttleStep (.runReady h) s h { sh with
        queue := { r with phase := .enlarge, since := none } :: rs })) ∧
    (∀ lane, lane < Config.lanes (c / 128) → s.laneTaken c lane = false → s.nextRun c lane = some h →
      ShuttleStep (.laneArbitration c lane) s h { sh with
        queue := { r with phase := .running lane } :: rs, latOk := if r.off = 0 then 0 else sh.latOk }) ∧
    ((∃ n, r.phase = .running n ∨ r.phase = .ready n) → r.words.length ≤ r.off → sh.frozen = false →
      ∃ u : State, exec (.runEnd h) s = .next (u.grantLines c) ∧ OnlyShuttle s u h { sh with
        queue := rs, hist := (sh.hist <<< 1) ||| (if r.waited then 1 else 0) })) ∧
  (∀ (s : State) (c : Nat), s.grantLines c = { s with shuttles := (s.grantLines c).shuttles } ∧
    ∀ h sh, s.sh? h = some sh → ∃ q, (s.grantLines c).sh? h = some { sh with queue := q } ∧ q.length = sh.queue.length) ∧
  (∀ (s : State) (h : Nat) (sh : Shuttle) (blk : Block), s.sh? h = some sh → s.blk? (blockOf h) = some blk →
    blk.status = .resident → blk.stopping = false → s.drained h blk.coreKey sh = true →
    ∃ t x, exec (.drainEnd h) s = .next t ∧ t.sh? h = some x ∧ x.status = .exited ∧ x.v = Vector.replicate 256 none ∧
      ((∀ j y, s.sh? j = some y → blockOf j = blockOf h → j ≠ h → y.status = .exited) →
        t.blk? (blockOf h) = some { blk with status := .ended, image := none }) ∧
      ((∃ j y, s.sh? j = some y ∧ blockOf j = blockOf h ∧ j ≠ h ∧ y.status ≠ .exited) → t.blocks = s.blocks)) ∧
  (∀ (s : State) (c h : Nat) (hs : List Nat), s.stuck c = true → (s.core c).favoured = none →
    (s.waitingLines c).filter (fun h => !s.isSuper (blockOf h)) = h :: hs →
    ∃ u : State, exec (.breakerStage1 c) s = .next (u.grantLines c) ∧ u = { s with cores := u.cores } ∧
      u.core c = { s.core c with favoured := some h } ∧ ∀ d, d ≠ c → u.core d = s.core d) ∧
  (∀ (s : State) (c f y : Nat) (sh : Shuttle), (s.core c).favoured = some f → s.sh? f = some sh → s.stuck c = true →
    sh.enlarging = false → s.youngest c (blockOf f) = some y →
    ∃ (u t : State) (k1 : Block), exec (.breakerStage2 c) s = .next t ∧ u = { s with blocks := u.blocks } ∧
      BlocksStopExactly s u (s.together false y) (fun k => { k with swap := true }) ∧ t = { u with blocks := t.blocks } ∧
      (∀ b, b ≠ y → t.blk? b = u.blk? b) ∧
      (u.blk? y = some k1 → t.blk? y = some { k1 with victim := some f })) ∧
  (∀ (s : State) (h : Nat) (w : Who) (r : Run) (hd : Head) (ty : MType) (mc : MemCtl) (d : LDst) (a : LSrc) (off : W32),
    s.laneWord h = some (w, r, .lLd hd ty mc d a off) → mc.wf = true → r.since.isSome = true → mc.space = .a → mc.step = none →
    let o (th : Nat) : Nat := (readSrc s w.sh r a 0 th + off.toNat) % 2 ^ 32
    (∀ th ∈ selected w hd, o th + ty.size ≤ w.blk.a.bytes ∧ o th % ty.size = 0) →
    let gs := granulesOf ty.size ((selected w hd).map fun th => (th, o th))
    (∀ g ∈ gs, w.blk.a.isFull g = true) →
    ∃ t k, exec (.wfWaitRelease h) s = .next t ∧ t = { s with shuttles := t.shuttles, blocks := t.blocks } ∧
      t.sh? h = some (laneAfter w hd [a] fun th => putLoaded s d ty th (w.blk.a.readN (o th) ty.size)) ∧
      t.blk? (blockOf h) = some { w.blk with a := { w.blk.a with full := k } } ∧
      ∀ g, k.contains g = (w.blk.a.isFull g && !(mc.clr && gs.contains g))) ∧
  (∀ (s : State) (h : Nat) (w : Who) (r : Run) (i : Instr) (l : WfLoad) (t0 th a : Nat) (rest : List (Nat × Nat)),
    s.laneWord h = some (w, r, i) → wfLoad i = some l → r.since = some t0 → t0 + 2 ^ 20 ≤ s.now → r.pages = [] →
    s.emptyThreads w r l = (th, a) :: rest →
    ShuttleStep (.fullEmptyWaitExpired h) s h { w.sh with
      queue := r.halt :: w.sh.queue.tail
      laneTrap := some (headTrap r 0x0AD (maskOf (th :: rest.map (·.1))) a) })

namespace Sys2Proof.Machine

/-- The hub may write `n` bytes at an address: none lies on a failing line (R294, R295) or in a line of a context table, where
the hub would look at an entry (R145). -/
def State.HubMay (s : State) (pa n : Nat) : Prop := ∀ i, i < n → s.lineBad ((pa + i) / 64) = false ∧ s.OffTables (pa + i)

/-- Writes of the hub at the home slices: memory, caches, reservations and what invariant loads and fetches may find change, and
a shuttle loses at most its reservation. -/
def HubWrites (s t : State) : Prop :=
  t = { s with
    mem := t.mem, dies := t.dies, shuttles := t.shuttles, inv := t.inv, past := t.past, code := t.code, parts := t.parts } ∧
    ∀ j x, s.sh? j = some x → ∃ v, t.sh? j = some { x with resv := v } ∧ (v = x.resv ∨ v = none)

end Sys2Proof.Machine

/-- Dispatch and launches (R137, R138, R318 to R324, R330, R334): the first candidate with a place is placed, with its
shuttles at the kernel's entry and the arguments in s4 to s11; a block that waited 1 ms has cores kept for it; an
urgent block that waited 100 µs stops a block of the lowest priority; admission gives the next tenancy number and
cleared barrier objects; a launch becomes eligible when its waits hold, completes when every block has ended, and then
arrives at its event; and the supervisor's answers to the commands of the ring, where refusing a malformed slot, a
foreign granule and a RESUME without a halt with that status is log 60. Says that these forms complete, their own
effect being the next state of exec: blockAdmission, dispatchPlace, dispatchReservation, priorityPreemption,
cmdLaunch, cmdPreemptGranule, cmdHaltAndCapture, cmdResume, cmdRefused, launchEligible, launchComplete. -/
def Obligations.DispatchAndLaunch : Prop :=
  (∀ (s : State) (p key c : Nat) (pt : Part) (x : Cand) (l : Launch) (e : CtxEntry), s.part? p = some pt → pt.halted = false →
    s.firstPlaced pt (s.dispatchHeld p) (s.cands p) = some (x, [c]) → x.resuming = false → key = whoLaunch x.who →
    s.launch? key = some l → x.linear = l.nextBlock → s.ctx? l.ctx = some e → l.kern.shuttles ≤ 64 →
    ∃ t k, exec (.dispatchPlace p) s = .next t ∧ t.blk? s.nextId = some k ∧ k.status = .placed ∧ k.coreKey = c ∧
      k.launch = key ∧ k.linear = l.nextBlock ∧ k.kern = l.kern ∧ k.ctx = l.ctx ∧ k.nbars = l.nbars ∧ t.mem = s.mem ∧
      (∀ b, b ≠ s.nextId → t.blk? b = s.blk? b) ∧ (∀ j, blockOf j ≠ s.nextId → t.sh? j = s.sh? j) ∧
      t.launch? key = some { l with
        nextBlock := l.nextBlock + 1, left := decide (l.limit ≤ l.nextBlock + 1), since := s.now } ∧
      ∀ i, i < l.kern.shuttles → ∃ y, t.sh? (64 * s.nextId + i) = some y ∧ y.idx = i ∧ y.pc = BitVec.ofNat 64 l.kern.entry ∧
        y.status = .running ∧ y.queue = [] ∧ ∀ n, n < 8 → y.readS (Fin.ofNat 64 (4 + n)) = l.args.getD n 0) ∧
  (∀ (s : State) (p : Nat) (pt : Part) (x : Cand) (xs : List Cand) (cs : List Nat), s.part? p = some pt →
    (s.cands p).filter (fun x => decide (x.since + s.mgmt.mhz * 1000 ≤ s.now) && !(pt.reserved.any fun e => e.1 == x.who)) =
      x :: xs → s.bestPlace pt x false [] = some cs →
    PartStep (.dispatchReservation p) s p { pt with reserved := pt.reserved ++ [(x.who, cs)] }) ∧
  (∀ (s : State) (p b0 : Nat) (pt : Part) (x : Cand) (k0 : Block), s.part? p = some pt → pt.halted = false →
    x ∈ s.cands p → x.prio = 3 → x.since + s.mgmt.mhz * 100 ≤ s.now → s.bestPlace pt x true [] = none →
    (∀ e ∈ s.blocks, e.2.part = p → e.2.stopping = false) →
    let low (e : Nat × Block) : Prop := e ∈ s.blocks ∧ e.2.part = p ∧ e.2.status = .resident ∧ e.2.supervisor = false ∧
      (s.rankOf e.2).1 < 3
    low (b0, k0) → ∃ t b k, exec (.priorityPreemption p) s = .next t ∧ t = { s with blocks := t.blocks } ∧
      BlocksStop s t (fun _ _ => False) ∧ low (b, k) ∧ (∀ e, low e → (s.rankOf k).1 ≤ (s.rankOf e.2).1) ∧
      (∀ e, low e → (s.rankOf e.2).1 = (s.rankOf k).1 → s.age (64 * e.1) ≤ s.age (64 * b)) ∧
      (b, { k with stopping := true, swap := false, victim := none }) ∈ t.blocks) ∧
  (∀ (s : State) (b : Nat) (k : Block), s.blk? b = some k → k.status = .placed → k.image = none → s.halted k.part = false →
    (∀ l, s.launch? k.launch = some l → l.place = 0) → (s.blocks.filter fun e => e.1 == b).length = 1 →
    s.numberFree b k.coreKey = true → s.entryPending k.coreKey = false →
    ∃ t k', exec (.blockAdmission b) s = .next t ∧ t.blk? b = some k' ∧ k'.status = .resident ∧
      k'.tenancy = (s.core k.coreKey).number ∧ (∀ n, k'.bar n = Barrier.zero k'.tenancy) ∧ k'.ctile = [] ∧
      (t.core k.coreKey).number = ((s.core k.coreKey).number + 1) % 256 ∧ k'.a.full = [] ∧ k'.w.full = [] ∧
      k'.a.bytes = k.kern.astore ∧ k'.w.bytes = k.kern.wstore ∧ t.mem = s.mem ∧ t.shuttles = s.shuttles ∧
      (∀ j, j ≠ b → t.blk? j = s.blk? j) ∧
      ((s.core k.coreKey).tenants = [] → 0 < k.kern.astore → ∀ a, k'.a.read a = 0)) ∧
  (∀ (s : State) (p q seq : Nat) (rest : List Nat) (pt : Part) (l : Launch), s.part? p = some pt →
    Tab.getD pt.queues q [] = seq :: rest → s.launch? (launchKey p seq) = some l → l.eligible = false →
    ((l.serial = true → ∀ n x, l.before = some n → s.launch? (launchKey p n) = some x → x.complete = true) →
      (∀ e ∈ l.waits, s.eventMet l.ctx e = true) → ∃ t, exec (.launchEligible p q) s = .next t ∧
        t = { s with launches := t.launches } ∧
        t.launch? (launchKey p seq) = some { l with eligible := true, since := s.now }) ∧
    ((∃ e ∈ l.waits, s.eventMet l.ctx e = false) → exec (.launchEligible p q) s = .next s)) ∧
  (∀ (s : State) (key : Nat) (l : Launch), s.launch? key = some l → l.complete = false → l.total ≤ l.ended → l.left = true →
    ∃ t, exec (.launchComplete key) s = .next t ∧ t.launch? key = some { l with complete := true } ∧
      (l.arrive = 0 ∨ l.failed = true → t = { s with launches := t.launches }) ∧
      (∀ pa, l.arrive ≠ 0 → l.failed = false → s.eventPa l.ctx l.arrive = some pa → s.mem.wf = true → s.HubMay pa 1 →
        let o := objectOf (leNat (s.mem.readN pa 16))
        objectOf (leNat (t.mem.readN pa 16)) =
            (if o.expArr < o.arrived + 1 then { o with ova := true } else ({ o with arrived := o.arrived + 1 } : Barrier).check.1) ∧
          ∀ x, x < pa ∨ pa + 16 ≤ x → t.mem.read x = s.mem.read x)) ∧
  (∀ (s : State) (p cons status : Nat) (pt : Part), s.part? p = some pt → s.mem.wf = true → status < 2 ^ 64 →
    s.HubMay (pt.window + cons + 8) 8 → s.HubMay (pt.window + 4) 4 →
    let t := s.answerCommand p cons status
    HubWrites s t ∧ t.part? p = some { pt with filled := Tab.del pt.filled cons, waiting := none } ∧
      (∀ q, q ≠ p → t.part? q = s.part? q) ∧ leNat (t.mem.readN (pt.window + cons + 8) 8) = status ∧
      leNat (t.mem.readN (pt.window + 4) 4) = (if cons = 65280 then 256 else cons + 256) % 2 ^ 32 ∧
      ∀ a, (a < pt.window + cons + 8 ∨ pt.window + cons + 16 ≤ a) → (a < pt.window + 4 ∨ pt.window + 8 ≤ a) →
        t.mem.read a = s.mem.read a) ∧
  (∀ (s : State) (p cons cmd : Nat) (pt : Part), s.command p = some (pt, cons, cmd) →
    let granule (_ : Nat) (k : Block) : Prop := granuleNo k.site (k.core / 16) = cmd / 2 ^ 192 % 2 ^ 64
    let answers (i : Instr) (u : State) (status : Nat) : Prop := exec i s = .next (u.answerCommand p cons status)
    (∀ w, s.supervisor pt = some w → w.blk.part = p → cmd % 256 = 1 → slotBad cmd = false →
      (∀ e, pt.waiting = none → s.judgeRecord w pt (cmd / 2 ^ 1024 % 2 ^ 1024) (bitsOf cmd 137 128) = .error e →
        answers (.cmdLaunch p) s (2 ^ 63 + e)) ∧
      (∀ l, (pt.waiting = none ∧ s.judgeRecord w pt (cmd / 2 ^ 1024 % 2 ^ 1024) (bitsOf cmd 137 128) = .ok l) ∨
          (pt.waiting = some l ∧ l.part = p) →
        (16 ≤ (Tab.getD pt.queues l.queue []).length → PartStep (.cmdLaunch p) s p { pt with waiting := some l }) ∧
        ((Tab.getD pt.queues l.queue []).length < 16 →
          ∃ u x, answers (.cmdLaunch p) u (pt.seq + 1) ∧ u = { s with parts := u.parts, launches := u.launches } ∧
            u.launch? (launchKey p (pt.seq + 1)) = some x ∧ x = { l with seq := pt.seq + 1, before := x.before } ∧
            u.part? p = some { pt with
              seq := pt.seq + 1, queues := Tab.set pt.queues l.queue (Tab.getD pt.queues l.queue [] ++ [pt.seq + 1]) }))) ∧
    (cmd % 256 = 2 → slotBad cmd = false → cmd / 2 ^ 192 % 2 ^ 64 ∉ pt.granules →
      answers (.cmdPreemptGranule p) s 0x80000000000000FF) ∧
    (cmd % 256 = 2 → slotBad cmd = false → cmd / 2 ^ 192 % 2 ^ 64 ∈ pt.granules → ∃ u,
      answers (.cmdPreemptGranule p) u 0 ∧ u = { s with blocks := u.blocks } ∧ BlocksStop s u granule) ∧
    (cmd % 256 = 3 → slotBad cmd = false → ∃ u, answers (.cmdHaltAndCapture p) u 0 ∧
      u = { s with parts := u.parts, blocks := u.blocks } ∧ u.part? p = some { pt with halted := true } ∧
      BlocksStop s u (fun _ k => k.part = p)) ∧
    (cmd % 256 = 4 → slotBad cmd = false → pt.halted = false → answers (.cmdResume p) s 0x80000000000000FF) ∧
    (∀ x, cmd % 256 = 4 → slotBad cmd = false → pt.halted = true → pt.capture = some x → answers (.cmdResume p) (s.restore p pt x) 0) ∧
    (cmd % 256 = 4 → slotBad cmd = false → pt.halted = true → pt.capture = none → exec (.cmdResume p) s = .next s) ∧
    (cmd % 256 = 0 ∨ 5 ≤ cmd % 256 ∨ slotBad cmd = true → answers (.cmdRefused p) s 0x80000000000000FF))

/-- Traps that are delivered between instructions, Fatal, machine checks (R336, R337, R340, R342, R344, R346): with a
handler whose frame can be written, TRAP_DELIVERY delivers the lane trap, or the held control trap once the runs have
ended, and DEFERRED_TRAP_DELIVERY the oldest deferred one, with what is still pending; FETCH_POISONED raises 0x165;
FATAL_END ends the block, fails its launch and logs the record; a lost site, hub state, compressed storage and a soft
error act as R346 says. The order of deferred, lane and held traps is log 24, PROD of the fatal log as an offset from
128 to 32640 is log 28, the hub of a block is log 17, and what a soft error strikes is log 52. Says that these forms
complete, their own effect being the next state of exec: trapDelivery, deferredTrapDelivery, fatalEnd, machineCheck,
fetchPoisoned. -/
def Obligations.TrapAndFatalSteps : Prop :=
  (∀ (s : State) (h pa : Nat) (sh : Shuttle) (blk : Block) (e : CtxEntry), s.atBoundary h = some sh →
    s.blk? (blockOf h) = some blk →
    let w : Who := { h := h, sh := sh, blk := blk }
    let full (r : TrapRec) (pending : Nat) : TrapRec :=
      { r with cpc := sh.pc.toNat, drain := sh.status == .draining, pending := pending }
    let kept (r : TrapRec) : Option TrapRec := if r.defer then sh.held.filter (·.cause == 0x108) else none
    CanDeliver s w e pa →
    (∀ r, sh.deferred = [] → sh.laneTrap = some r → ∃ t, exec (.trapDelivery h) s = .next t ∧ Delivered s t w e pa (full r 0) ∧
      (∀ x, t.sh? h = some x → x.laneTrap = none ∧ x.held = kept r)) ∧
    (∀ r, sh.deferred = [] → sh.laneTrap = none → sh.held = some r → sh.queue = [] →
      ∃ t, exec (.trapDelivery h) s = .next t ∧ Delivered s t w e pa (full r 0) ∧ ∀ x, t.sh? h = some x → x.held = kept r) ∧
    (∀ r rs, sh.deferred = r :: rs → sh.held = none ∨ sh.laneTrap ≠ none ∨ sh.queue = [] →
      ∃ t, exec (.deferredTrapDelivery h) s = .next t ∧ Delivered s t w e pa (full r rs.length) ∧
        ∀ x, t.sh? h = some x → x.deferred = rs ∧ x.laneTrap = sh.laneTrap ∧ x.held = kept r)) ∧
  (∀ (s : State) (h : Nat) (sh : Shuttle) (blk : Block), s.atBoundary h = some sh → s.blk? (blockOf h) = some blk →
    sh.status = .running →
    let w : Who := { h := h, sh := sh, blk := blk }
    (s.boundary h sh = none → s.fetchControl w = .trap 0x165 → ∃ u : State,
      exec (.fetchPoisoned h) s = .next (u.raise w { cause := 0x165 }) ∧
      u = { s with poison := u.poison, bad := u.bad, retired := u.retired, parts := u.parts, hubs := u.hubs, mgmt := u.mgmt } ∧
      (∀ l ∈ s.poison, l ∈ u.poison) ∧
      ∀ pa wr cp, s.translate blk.site blk.ctx sh.pc.toNat = .page pa wr cp → pa / 64 ∉ u.bad) ∧
    (s.boundary h sh ≠ none ∨ s.fetchControl w ≠ .trap 0x165 → exec (.fetchPoisoned h) s = .next s)) ∧
  (∀ (s : State) (b h : Nat) (k : Block) (r : TrapRec), s.blk? b = some k → k.fatal = some (h, r) → k.status ≠ .ended →
    s.quiet b k.coreKey = true → ∃ t, exec (.fatalEnd b) s = .next t ∧ (∃ k', t.blk? b = some k' ∧ k'.status = .ended) ∧
      (∀ l, s.launch? k.launch = some l → t.launch? k.launch = some { l with ended := l.ended + 1, failed := true }) ∧
      (∀ j x, s.sh? j = some x → blockOf j = b → ∃ y, t.sh? j = some y ∧ y.status = .exited) ∧
      ∀ pt x, s.sh? h = some x → s.part? k.part = some pt → s.mem.wf = true → s.HubMay pt.log 12 →
        s.HubMay (pt.log + s.word32 pt.log) 128 →
        let prod := s.word32 pt.log
        let next := (if prod = 32640 then 128 else prod + 128)
        (next ≠ s.word32 (pt.log + 4) → 128 ≤ prod → leNat (t.mem.readN (pt.log + prod) 128) = r.word s k x % 2 ^ 1024 ∧
          leNat (t.mem.readN pt.log 4) = next % 2 ^ 32) ∧
        (next = s.word32 (pt.log + 4) →
          leNat (t.mem.readN (pt.log + 8) 4) = min 0xFFFFFFFF (s.word32 (pt.log + 8) + 1) ∧
          ∀ a, a < pt.log + 8 ∨ pt.log + 12 ≤ a → t.mem.read a = s.mem.read a)) ∧
  (∀ (s : State) (site : Nat), ∃ t, exec (.machineCheck (.siteLost site)) s = .next t ∧ (t.die site).joined = false ∧
    (t.die site).fenced = true ∧ (∀ d, d ≠ site → t.die d = s.die d) ∧ t.mem = s.mem ∧ Logged s t true site 0xFF 0x7F 0x1D8 ∧
    ∀ b k, s.blk? b = some k → k.site = site → k.holds = true → k.fatal = none →
      ∃ k' f, t.blk? b = some k' ∧ k'.fatal = some (64 * b, f) ∧ f.cause = 0x1D8 ∧ f.lostSite = some site) ∧
  (∀ (s : State) (b : Nat) (k : Block), s.blk? b = some k → k.fatal = none →
    ∃ t k' f, exec (.machineCheck (.hubState b)) s = .next t ∧ t.blk? b = some k' ∧ k'.fatal = some (64 * b, f) ∧ f.cause = 0x1E8 ∧
      f.lostSite = some (12 + hubOf k.site) ∧
      (∀ x ∈ t.trans, ∀ j ∈ x.inside, blockOf j ≠ b) ∧ t.mem = s.mem ∧
      ∀ x ∈ s.trans, (∃ j ∈ x.inside, blockOf j = b) → ∀ j ∈ x.inside, ∀ y, s.blk? (blockOf j) = some y → y.fatal = none →
        ∃ y' g, t.blk? (blockOf j) = some y' ∧ y'.fatal = some (64 * blockOf j, g) ∧ g.cause = 0x1E8) ∧
  (∀ (s : State) (hub : Nat), ∃ t, exec (.machineCheck (.compressedExhausted hub)) s = .next t ∧ t.compress.hold = true ∧
    t.mem = s.mem ∧ Logged s t false (12 + hub) 0xFF 0x7F 0x1D0) ∧
  (∀ (s : State) (h : Nat) (x : Bool) (sh : Shuttle) (blk : Block), s.atBoundary h = some sh → sh.status = .running →
    s.blk? (blockOf h) = some blk →
    let w : Who := { h := h, sh := sh, blk := blk }
    let cause := if x then 0x1C6 else 0x1C5
    let found : Option (State × Nat) := if x then s.eregError w else (s.storeError w).orElse fun _ => s.engineError w
    (∀ u c, found = some (u, c) → ∃ t, exec (.machineCheck (.coreSoftError h x)) s = .next t ∧
      (t.core c).uncorrected = (s.core c).uncorrected + 1 ∧ t.mem = s.mem ∧
      (u.mgmt.log.length < 4096 → ∃ e ∈ t.mgmt.log, e.repl = false ∧ e.site = c / 128 ∧ e.quad = c % 128 / 4 ∧
        e.core = c % 128 ∧ e.cause = cause)) ∧
    (found = none → exec (.machineCheck (.coreSoftError h x)) s = .next s))

/-- Pre-emption, resume, halt-and-capture and fencing (R231, R307, R330 to R334, R347): a block and those that go with
it begin to stop; a stopped block is sealed with its registers, its stores and its commands in its image, which shadow
storage or the spill region holds; it resumes with the next tenancy number and its commands back in the queues, their
pages probed and pinned again; a halted partition resumes as it was captured; a fenced unit is emptied and logged. How
long an image is and where it spills is log 85, the seal's wait for seen writes log 94, fencing at once log 97,
DIE_OFFLINE's completion log 61, and the hub of a retired frame log 76. Says that these forms complete, their own
effect being the next state of exec: preemptBlock, fetchFaultSwap, blockResume, haltAndCapture, captureResume,
fenceUnit, dieOffline. -/
def Obligations.PreemptionSteps : Prop :=
  (∀ (s : State) (b : Nat) (k : Block), s.blk? b = some k → k.status = .resident → k.supervisor = false → k.fatal = none →
    (k.stopping = false → ∃ t, exec (.preemptBlock b) s = .next t ∧ t = { s with blocks := t.blocks } ∧
      BlocksStopExactly s t (s.together true b) (fun x => { x with swap := false, victim := none })) ∧
    (k.stopping = true → s.stopped b k = false → exec (.preemptBlock b) s = .next s) ∧
    (k.stopping = true → s.together (!k.swap) b = [b] → s.stopped b k = true → s.seenDone k = false →
      ∃ t, exec (.preemptBlock b) s = .next t ∧ t = { s with blocks := t.blocks } ∧
        t.blk? b = some { k with quietAt := some (k.quietAt.getD s.now) }) ∧
    (k.stopping = true → s.together (!k.swap) b = [b] → s.stopped b k = true → s.seenDone k = true →
      ∃ t img, exec (.preemptBlock b) s = .next t ∧
      t.blk? b = some
        { k with status := .saved, stopping := false, image := some img, since := s.now, tiles := [], quietAt := none } ∧
      img.copies = ((s.core k.coreKey).copyQ.filter (·.block == b)).map (fun y => { y with inFlight := false }) ∧
      img.slots = (s.core k.coreKey).copySlots.filter (fun y => y.seq.isSome && y.block == b) ∧
      img.mats = ((s.core k.coreKey).matQ.filter (·.block == b)).map (fun o => { o with part := [] }) ∧
      img.core = k.coreKey ∧ (img.spillAt = none ↔ s.shadowUsed (hubOf k.site) + img.bytes ≤ 192 * 2 ^ 20) ∧
      (img.spillAt = none → t.mem = s.mem) ∧ t.posted = s.posted ∧
      (∀ pt o, s.part? k.part = some pt → img.spillAt = some o → s.mem.wf = true → s.HubMay (pt.spill + o) img.bytes →
        ∀ a, a < pt.spill + o ∨ pt.spill + o + img.bytes ≤ a → t.mem.read a = s.mem.read a) ∧
      (∀ y ∈ (t.core k.coreKey).copyQ, y.block ≠ b) ∧
      ((∀ y ∈ (s.core k.coreKey).copyQ, ∀ o, y.follow = some o → o.block = y.block) →
        ∀ y ∈ (t.core k.coreKey).matQ, y.block ≠ b) ∧
      (∀ j, j ≠ b → t.blk? j = s.blk? j) ∧
      ∀ j x, s.sh? j = some x → blockOf j = b → ∃ y, t.sh? j = some y ∧ y.s = x.s ∧ y.k = x.k ∧ y.m = x.m ∧ y.q = x.q ∧
        y.v = x.v ∧ y.pend = x.pend ∧ y.resv = none ∧ y.status = x.status ∧ y.queue.length = x.queue.length)) ∧
  (∀ (s : State) (h : Nat) (k : Block), s.blk? (blockOf h) = some k → k.onFault.isSome = true → k.status = .resident →
    k.stopping = false → ∃ t, exec (.fetchFaultSwap h) s = .next t ∧ t = { s with blocks := t.blocks } ∧
      BlocksStopExactly s t (s.together false (blockOf h)) (fun x => { x with swap := true })) ∧
  (∀ (s : State) (b : Nat) (k : Block) (img : Image), s.blk? b = some k → k.status = .placed → k.image = some img →
    s.groupOf k.quadKey b = none → s.canResume b = true → s.unitOf .placed b = [b] → s.entryPending k.coreKey = false →
    let c := s.core k.coreKey
    let probe (y : Copy) : Checked :=
      checkWith (s.translate k.site k.ctx) y.fatal (y.dst == .g) y.slot 1 (y.remaining.map fun a => (0, a))
    (∀ y ∈ c.copyQ ++ img.copies, ∀ n, y.src ≠ .peer b n ∧ y.dst ≠ .peer b n) →
    ((c.copyQ ++ img.copies).map (·.id)).Nodup →
    ∃ t, exec (.blockResume b) s = .next t ∧
      (∃ k', t.blk? b = some k' ∧ k'.status = .resident ∧ k'.tenancy = c.number ∧
        k'.image = none ∧ k'.onFault = none ∧ k'.a = k.a ∧ k'.w = k.w ∧ k'.ctile = k.ctile ∧ k'.eregs = k.eregs ∧
        k'.oregs = k.oregs ∧ ∀ n, k'.bar n = { k.bar n with tenancy := c.number }) ∧
      (t.core k.coreKey).number = (c.number + 1) % 256 ∧ t.mem = s.mem ∧ (∀ j, j ≠ b → t.blk? j = s.blk? j) ∧
      ((∀ y ∈ img.copies, ∃ pas, probe y = .go pas) →
        (t.core k.coreKey).copyQ = c.copyQ ++ img.copies.map (fun y =>
          { y with pins := s.pinsOf k.site k.ctx (y.remaining.map (· / 65536)), pages := [], fatal := [] }) ∧
        (t.core k.coreKey).copySlots = c.copySlots ++ img.slots.map (fun y =>
          { y with pins := s.pinsOf k.site k.ctx (y.pins.map (·.page)) }) ∧
        (t.core k.coreKey).matQ = c.matQ ++ img.mats ∧
        ∀ j x, s.sh? j = some x → x.wait ≠ .gbar →
          t.sh? j = some (if blockOf j = b then { x with hist := 0, waitPages := [] } else x)) ∧
      (∀ y cause m a x, img.copies = [y] → y.seq = none → probe y = .trap cause m a → s.sh? y.h = some x → blockOf y.h = b →
        x.wait ≠ .gbar → (t.core k.coreKey).copyQ = c.copyQ ∧
          t.sh? y.h = some (deferTo { x with hist := 0, waitPages := [] } { cause := cause, addr := a, ipc := y.ipc })) ∧
      ∀ y ps, img.copies = [y] → probe y = .wait ps → (t.core k.coreKey).copyQ = c.copyQ ++
        [{ y with pins := s.pinsOf k.site k.ctx (y.remaining.map (· / 65536)), pages := ps }]) ∧
  (∀ (s : State) (p : Nat) (pt : Part), s.part? p = some pt →
    (∃ t, exec (.haltAndCapture p) s = .next t ∧ t = { s with parts := t.parts, blocks := t.blocks } ∧
      t.part? p = some { pt with halted := true } ∧ BlocksStop s t (fun _ k => k.part = p)) ∧
    (pt.halted = true → pt.capture = none → s.captured p = true → (∀ n ∈ s.net, n.reply = true ∨ n.msg.ctx / 256 ≠ p) →
      (s.takeCapture p).part? p = some { pt with capture := some (s.snapshot p pt) }) ∧
    (∀ x, pt.halted = true → pt.capture = some x → exec (.captureResume p) s = .next (s.restore p pt x) ∧
      (s.mem.readN pt.table 16384 = x.table → ∃ t, exec (.captureResume p) s = .next t ∧ t.mem = s.mem ∧
        t.part? p = some { pt with
          seq := x.seq, queues := x.queues, frames := x.frames.filter pt.frames.contains, capture := none, halted := false } ∧
        (∀ b, t.blk? b = if s.savedIn p b then (s.blk? b).map (fun k => (Tab.get? x.blocks b).getD k) else s.blk? b) ∧
        (∀ h, t.sh? h = if s.savedIn p (blockOf h) then (s.sh? h).map (fun y => (Tab.get? x.shuttles h).getD y) else s.sh? h) ∧
        (∀ e ∈ t.launches, e.2.part = p → e.2.seq ≤ x.seq) ∧
        ∀ key l, s.launch? key = some l → l.part ≠ p ∨ l.seq ≤ x.seq → t.launch? key = some l)) ∧
    (pt.halted = false ∨ pt.capture = none → exec (.captureResume p) s = .next s)) ∧
  (∀ (s : State) (site n cause : Nat),
    (∀ hard, ∃ t, exec (.fenceUnit (.core site n hard) cause) s = .next t ∧ t.mem = s.mem ∧
      (t.core (128 * site + n)).fenced = true ∧
      (2 ≤ t.fencedOf (quadCores site (n / 4)) → (t.quad (32 * site + n / 4)).fenced = true) ∧
      (Config.cores site < 4 * t.fencedOf ((range 0 (Config.cores site)).map fun i => 128 * site + i) →
        (t.die site).fenced = true) ∧
      (hard = true → LoggedLost s t site (n / 4) n cause) ∧
      (hard = true → ∀ b k, s.blk? b = some k → k.site = site → k.core = n → k.holds = true → k.fatal = none →
        ∃ k' f, t.blk? b = some k' ∧ k'.fatal = some (64 * b, f) ∧ f.cause = 0x1D8)) ∧
    ((∀ c ∈ quadCores site (n / 4), c ≠ 128 * site + n → (s.core c).fenced = false) →
      4 * (s.fencedOf ((range 0 (Config.cores site)).map fun i => 128 * site + i) + 1) ≤ Config.cores site →
      ∃ t, exec (.fenceUnit (.core site n false) cause) s = .next t ∧
        t = { s with cores := t.cores, blocks := t.blocks, mgmt := t.mgmt } ∧
        t.core (128 * site + n) = { s.core (128 * site + n) with fenced := true } ∧
        BlocksStop s t (fun _ k => k.site = site ∧ k.core = n) ∧ Logged s t true site (n / 4) n cause) ∧
    (∃ t, exec (.fenceUnit (.quad site n) cause) s = .next t ∧ t = { s with quads := t.quads, blocks := t.blocks, mgmt := t.mgmt } ∧
      t.quad (32 * site + n) = { s.quad (32 * site + n) with fenced := true } ∧ Logged s t true site n 0x7F cause ∧
      BlocksStop s t (fun b k => k.quadKey = 32 * site + n ∧
        ((s.groupOf k.quadKey b).isSome = true ∨ ∃ l, s.launch? k.launch = some l ∧ l.place = 1))) ∧
    (∃ t, exec (.fenceUnit (.die site false) cause) s = .next t ∧
      t = { s with dies := t.dies, blocks := t.blocks, mgmt := t.mgmt } ∧ t.die site = { s.die site with fenced := true } ∧
      BlocksStop s t (fun _ k => k.site = site) ∧ Logged s t true site 0xFF 0x7F cause) ∧
    (∃ t, exec (.fenceUnit (.die site true) cause) s = .next t ∧
      t.die site = { s.die site with fenced := true, joined := false } ∧ t.mem = s.mem ∧ LoggedLost s t site 0xFF 0x7F cause ∧
      ∀ b k, s.blk? b = some k → k.site = site → k.holds = true → k.fatal = none →
        ∃ k' f, t.blk? b = some k' ∧ k'.fatal = some (64 * b, f) ∧ f.cause = 0x1D8) ∧
    (∃ t, exec (.fenceUnit (.frame n) cause) s = .next t ∧ t = { s with retired := t.retired, parts := t.parts, mgmt := t.mgmt } ∧
      n / 65536 * 65536 ∈ t.retired ∧ (∀ f ∈ s.retired, f ∈ t.retired) ∧
      (∀ p x, t.part? p = some x → n / 65536 * 65536 ∉ x.frames) ∧ Logged s t true (12 + n / 4096 % 2) 0xFF 0x7F cause) ∧
    ((∀ e ∈ s.podRoutes, n ∈ e.2 → ∃ m ∈ e.2, m ≠ n ∧ (s.port m).up = true) →
      ∃ t, exec (.fenceUnit (.port n) cause) s = .next t ∧ t = { s with ports := t.ports, mgmt := t.mgmt } ∧
      t.port n = { s.port n with up := false } ∧ Logged s t true (14 + n) 0xFF 0x7F cause) ∧
    (s.occupied site = true → ∃ t, exec (.dieOffline site) s = .next t ∧ t = { s with blocks := t.blocks, dies := t.dies } ∧
      t.die site = { s.die site with leaving := true } ∧ BlocksStop s t (fun _ k => k.site = site)) ∧
    (s.occupied site = false → DieStep (.dieOffline site) s site { s.die site with joined := false, leaving := false }))

/-- The copy engine and peer packets (R149, R150, R165 to R171, R222, R223): a slot's command takes a free entry and
its instruction completes; commands start in order, four at most, and complete with their landing report, after the
follow-on's acceptance; a failing one stops with a deferred trap and without a report; a peer packet whose tenancy
number is the target's is applied and any other is dropped and counted. Says that these forms complete, their own
effect being the next state of exec: copySlotAccept, copyStart, copyComplete, copyFailure, peerPacketArrival,
followOnAccept. -/
def Obligations.CopyAndPeerSteps : Prop :=
  (∀ (s : State) (c : Nat) (k : Copy) (ks : List Copy), (s.core c).copySlots = k :: ks → (s.core c).copyQ.length < 16 →
    k.seq = none → CoreAndShuttleStep (.copySlotAccept c) s c
      { s.core c with copyQ := (s.core c).copyQ ++ [k], copySlots := ks } k.h
      fun x => { x.advance with pc := x.pc + (if k.follow.isSome then 8 else 4) }) ∧
  (∀ (s : State) (c : Nat) (k : Copy) (ks : List Copy), (s.core c).copySlots = k :: ks →
    ((s.core c).copyQ.length < 16 → k.seq.isSome = true → CoreStep (.copySlotAccept c) s c
      { s.core c with copyQ := (s.core c).copyQ ++ [k], copySlots := ks }) ∧
    (16 ≤ (s.core c).copyQ.length → exec (.copySlotAccept c) s = .next s)) ∧
  (∀ (s : State) (c i : Nat) (k : Copy), (s.core c).copyQ.findIdx? (fun k => !k.inFlight) = some i →
    (s.core c).copyQ[i]? = some k → ((s.core c).copyQ.filter (·.inFlight)).length < 4 →
    (k.acq = none → CoreStep (.copyStart c) s c { s.core c with copyQ := setAt (s.core c).copyQ i { k with inFlight := true } }) ∧
    (∀ sc, k.acq = some sc → s.posted = [] → s.peers = [] → ∃ t, exec (.copyStart c) s = .next t ∧
      t = { s with cores := t.cores, dies := t.dies } ∧
      t.core c = { s.core c with copyQ := setAt (s.core c).copyQ i { k with inFlight := true } })) ∧
  (∀ (s : State) (c i : Nat) (k : Copy) (blk : Block), s.copyAt c i = some (k, blk) → k.inFlight = true →
    (s.lastWritten k = true → s.copyLost blk k = false → k.follow = none → k.seq = none → k.bar = none →
      CoreStep (.copyComplete c i) s c { s.core c with copyQ := dropAt (s.core c).copyQ i }) ∧
    (∀ n, s.lastWritten k = true → s.copyLost blk k = false → k.follow = none → k.seq = none → k.bar = some n → (∀ b t, k.dst ≠ .peer b t) →
      ∃ u : State, exec (.copyComplete c i) s = .next (u.land k.block n k.len k.h { cause := 0, ipc := k.ipc }) ∧
        u = { s with cores := u.cores } ∧ u.core c = { s.core c with copyQ := dropAt (s.core c).copyQ i }) ∧
    (∀ o, s.lastWritten k = true → s.copyLost blk k = false → k.follow = some o → (s.core c).matQ.length < 8 → CoreStep (.followOnAccept c i) s c
      { s.core c with
        copyQ := setAt (s.core c).copyQ i { k with follow := none, written := true }, matQ := (s.core c).matQ ++ [o] }) ∧
    (k.seq = none → s.peerGone blk k.src = true ∨ s.peerGone blk k.dst = true →
      CoreAndShuttleStep (.copyFailure c i .peerLost) s c { s.core c with copyQ := dropAt (s.core c).copyQ i } k.h
        (deferTo · { cause := 0x10F, ipc := k.ipc })) ∧
    (∀ x b n, k.seq = none → 16 * k.done < k.len → k.src = .peer b n → s.blk? b = some x → s.peerAnswers k b n = false →
      s.copyDest blk k (16 * s.unitFor k) (16 * k.burst (s.unitFor k)) = .row [] →
      ∃ t, exec (.copyFailure c i .uncorrectableRead) s = .next t ∧ t = { s with cores := t.cores, shuttles := t.shuttles } ∧
        (t.core x.coreKey).stale = min 0xFFFFFFFF ((s.core x.coreKey).stale + 1) ∧
        (t.core c).copyQ = dropAt (s.core c).copyQ i ∧ t.sh? k.h = (s.sh? k.h).map (deferTo · { cause := 0x10F, ipc := k.ipc })) ∧
    (∀ cause a, k.seq = none → 16 * k.done < k.len → s.nextUnits blk k (s.unitFor k) = .fault cause a → cause ≠ 0x077 →
      (∀ b n, k.src ≠ .peer b n) → CoreAndShuttleStep (.copyFailure c i .uncorrectableRead) s c { s.core c with copyQ := dropAt (s.core c).copyQ i } k.h
        (deferTo · { cause := cause, addr := a, ipc := k.ipc })) ∧
    (∀ j p, s.posted.findIdx? (fun p => p.engine == some k.id && !p.full && (s.poison.contains p.line || s.bad.contains p.line)) =
        some j → s.posted[j]? = some p → s.blockedWrite j = false → p.frame = false →
      ∃ t, exec (.copyFailure c i .partialWrite) s = .next t ∧ t.mem = s.mem ∧ t.posted = dropAt s.posted j ∧
        p.line ∈ t.poison ∧ p.line ∉ t.bad ∧ (∀ y ∈ (t.core (128 * p.site + p.core)).copyQ, y.id ≠ k.id) ∧
        t.sh? p.h = (s.sh? p.h).map (deferTo · { cause := 0x06F, addr := p.va / 64 * 64, ipc := p.ipc }))) ∧
  (∀ (s : State) (i : Nat) (p : PeerPacket) (blk : Block), s.peers[i]? = some p → s.blk? p.block = some blk →
    (∀ q ∈ s.peers.take i, q.h = p.h → q.block = p.block → q.req.meets p.req = false) →
    (s.tenant p.block p.tenancy = false → ∃ t, exec (.peerPacketArrival i) s = .next t ∧
      t = { s with peers := dropAt s.peers i, cores := t.cores } ∧
      t.core p.core = { s.core p.core with stale := min 0xFFFFFFFF ((s.core p.core).stale + 1) }) ∧
    (∀ parts fill, s.tenant p.block p.tenancy = true → p.req = .write parts fill →
      ∃ t a, exec (.peerPacketArrival i) s = .next t ∧
        t = { s with peers := dropAt s.peers i, cores := t.cores, blocks := t.blocks, older := t.older } ∧
        t.blk? p.block = some { blk with a := a } ∧ (∀ j, j ≠ p.block → t.blk? j = s.blk? j) ∧ a.bytes = blk.a.bytes ∧
        (∀ l1 off bs l2, parts = l1 ++ (off, bs) :: l2 → ∀ n, n < bs.length →
          (∀ e ∈ l2, off + n < e.1 ∨ e.1 + e.2.length ≤ off + n) → a.read (off + n) = bs.getD n 0) ∧
        (∀ x, (∀ e ∈ parts, x < e.1 ∨ e.1 + e.2.length ≤ x) → a.read x = blk.a.read x) ∧
        ∀ g, a.isFull g = (blk.a.isFull g || (fill && parts.any fun e => (granules e.1 e.2.length).contains g))) ∧
    (∀ n len, s.tenant p.block p.tenancy = true → p.req = .land n len →
      let u : State := { s with peers := dropAt s.peers i }
      (n < blk.nbars → (blk.bar n).init = true → (blk.bar n).tenancy = p.tenancy →
        exec (.peerPacketArrival i) s = .next (u.land p.block n len p.h { cause := 0, ipc := p.ipc })) ∧
      (blk.nbars ≤ n → exec (.peerPacketArrival i) s = .next (u.defer p.h { cause := 0x09F, ipc := p.ipc })) ∧
      (n < blk.nbars → (blk.bar n).init = false →
        exec (.peerPacketArrival i) s = .next (u.defer p.h { cause := 0x097, ipc := p.ipc }))))

/-- The matrix unit (R67, R68, R179 to R181, R187, R188): rows are fetched one at a time into the operand buffer, or
wait for their page, or stop the operation with a deferred trap and discard the shuttle's later ones; a fetched MMA
writes its tile's products and retires; the sequencer of an MGEMM issues the next step's copies, computes a step whose
rows are there, goes on or retires, and stops at the step whose copy failed. An entry that frees goes to a follow-on
that is due, and one that has not entered the queue is not discarded with its shuttle's operations (log 101). Says
that these forms complete, their own effect being the next state of exec: mmaSlotAccept, matrixFetch,
matrixFetchResume, matrixFetchFatal, matrixCompute, matrixRetire, mgemmStep, mgemmCopies, mgemmStop. -/
def Obligations.MatrixSteps : Prop :=
  (∀ (s : State) (c : Nat) (o : MatOp) (os : List MatOp), (s.core c).matSlots = o :: os →
    (s.core c).matQ.length + s.followsDue c < 8 → CoreAndShuttleStep (.mmaSlotAccept c) s c { s.core c with matQ := (s.core c).matQ ++ [o], matSlots := os } o.h
      Shuttle.advance) ∧
  (∀ (s : State) (c i : Nat) (o : MatOp) (blk : Block), s.fetching c = some (i, o, blk) →
    let put (o : MatOp) : Core := { s.core c with matQ := setAt (s.core c).matQ i o }
    (∀ bs, s.matRow blk o o.fetched = .row bs →
      let o1 := { o with rows := o.rows ++ [patchRow o.part bs], fetched := o.fetched + 1, part := [] }
      let k := put (if o.gemm.isSome then o1 else { o1 with pages := [], fatal := [] })
      CoreStep (.matrixFetch c) s c k ∧ (o.pages ≠ [] → CoreStep (.matrixFetchResume c) s c k)) ∧
    (o.pages = [] → exec (.matrixFetchResume c) s = .next s) ∧
    (∀ ps, s.matRow blk o o.fetched = .wait ps → ∃ t, exec (.matrixFetch c) s = .next t ∧
      t = { s with cores := t.cores, faults := t.faults } ∧ t.core c = put { o with pages := ps }) ∧
    (∀ cause a, s.matRow blk o o.fetched = .fault cause a → ∃ t, exec (.matrixFetchFatal c) s = .next t ∧
      (cause ≠ 0x076 → t = { s with cores := t.cores, shuttles := t.shuttles }) ∧ t.mem = s.mem ∧
      (∃ fs, (t.core c).matQ = (s.core c).matQ.take i ++ ((s.core c).matQ.drop (i + 1)).filter (·.h != o.h) ++ fs ∧
        (∀ f ∈ fs, ∃ k ∈ (s.core c).copyQ, k.follow = some f) ∧ (s.followsDue c = 0 → fs = [])) ∧
      t.sh? o.h = (s.sh? o.h).map (deferTo · {
        cause := cause, ipc := o.ipc, tile := some o.tile, opslot := some (if 32 ≤ o.fetched then 3 else 2)
        tid := some (opTid (if 32 ≤ o.fetched then o.b else o.a).word, opCoords (if 32 ≤ o.fetched then o.b else o.a).word)
        addr := a }))) ∧
  (∀ (s : State) (c : Nat) (o : MatOp) (os : List MatOp) (blk : Block), (s.core c).matQ = o :: os →
    s.blk? o.block = some blk →
    let tiled (t : State) (ct : Tile) : Prop := t = { s with cores := t.cores, blocks := t.blocks } ∧
      t.blk? o.block = some { blk with ctile := Tab.set blk.ctile o.tile ct } ∧ ∀ b, b ≠ o.block → t.blk? b = s.blk? b
    (o.gemm = none → o.computed = false → 64 ≤ o.fetched → ∃ t, exec (.matrixCompute c) s = .next t ∧
      tiled t (o.product (blk.tile o.tile)) ∧ t.core c = { s.core c with matQ := { o with computed := true } :: os }) ∧
    (o.computed = true → s.followsDue c = 0 → CoreStep (.matrixRetire c) s c { s.core c with matQ := os }) ∧
    (∀ k f, o.computed = true → (s.core c).copyQ = [k] → k.inFlight = true → k.follow = some f → s.lastWritten k = true →
      os.length < 8 → CoreStep (.matrixRetire c) s c
        { s.core c with matQ := os ++ [f], copyQ := [{ k with follow := none, written := true }] }) ∧
    (∀ g, o.gemm = some g → 64 ≤ o.fetched → g.dirty = false → s.followsDue c = 0 → ∃ t, exec (.mgemmStep c) s = .next t ∧
      tiled t (o.product (blk.tile o.tile)) ∧
      t.core c = { s.core c with matQ := if g.n ≤ g.step + 1 then os
        else { o with fetched := 0, rows := [], gemm := some { g with step := g.step + 1 } } :: os }) ∧
    (∀ g k last, o.gemm = some g → g.issued < g.n → g.issued ≤ g.step + 1 → blk.stopping = false → g.failed = [] →
      (o.a.tensor = true ∧ g.half = false ∧ k = seqCopy o g false s.nextId g.issued ∧ last = !o.b.tensor) ∨
        (o.b.tensor = true ∧ (o.a.tensor = false ∨ g.half = true) ∧ k = seqCopy o g true s.nextId g.issued ∧ last = true) →
      (∀ pins, s.probeSeq blk o k = .ok pins → (s.core c).copyQ.length < 16 → (s.core c).copySlots = [] →
        ∃ t, exec (.mgemmCopies c) s = .next t ∧ t = { s with cores := t.cores, nextId := s.nextId + 1 } ∧
          t.core c = { s.core c with
            copyQ := (s.core c).copyQ ++ [{ k with pins := pins }]
            matQ := { o with
              pages := [], fatal := []
              gemm := some { g with
                issued := if last then g.issued + 1 else g.issued
                half := !last
                pendingCopies := g.pendingCopies ++ [g.issued] } } :: os }) ∧
      (∀ cause a, s.probeSeq blk o k = .fault cause a → s.seqWaits c o.id = false →
        CoreStep (.mgemmCopies c) s c { s.core c with
          matQ := { o with pages := [], fatal := [], gemm := some { g with failed := [(g.issued, seqRecord o k cause a)] } } :: os })) ∧
    (∀ g j r, o.gemm = some g → g.dirty = false → g.failed.find? (fun e => e.1 == g.step) = some (j, r) → o.fetched = 0 →
      s.followsDue c = 0 → ∃ t, exec (.mgemmStop c) s = .next t ∧ t = { s with cores := t.cores, shuttles := t.shuttles } ∧
        (t.core c).matQ = os.filter (·.h != o.h) ∧ t.sh? o.h = (s.sh? o.h).map (deferTo · r)))

/-- The memory system (R145, R242, R247, R256 to R258, R264, R271, R281 to R283, R292, R294 to R297, R308, R310,
R317): a performed write puts its bytes into memory and clears reservations, or is abandoned with its line poisoned
and a deferred trap; a write behind an older one of its core to its line, or behind one of its die while it is in its
core's buffer, is not performed before it; errors, cache copies, translations and the reserve change as their steps
say; a serviced fault fills a frame of the pool and its leaf; a context entry that becomes valid gets a tensor table
of zeros, and one that ends frees what the context held. Which writes keep their order is log 70, the hub of a line
log 76, a frame's size in the pool log 54, poison copied from a far-tier frame log 102, and BACK of a served leaf log
103. Says that these forms complete, their own effect being the next state of exec: translationEvict,
globalWritePerformed, cacheRevalidate, translationReplace, faultDeclaredFatal, invalidateCommand, translateRegion,
partialWriteError, patrolScrub, farTierLoss, contextEntryValid, faultService, spaceRecovered. -/
def Obligations.MemorySteps : Prop :=
  (∀ (s : State) (i : Nat) (p : Posted), s.posted[i]? = some p → s.blockedWrite i = false → s.mem.wf = true →
    let record : TrapRec :=
      { cause := 0x06D, tmask := p.tmask, addr := p.va / 64 * 64, ipc := p.ipc, lane := p.lane.isSome,
        lword := (p.lane.getD (0, 0)).1, roff := (p.lane.getD (0, 0)).2 }
    let abandoned (e : Instr) : Prop := ∃ t, exec e s = .next t ∧ t.mem = s.mem ∧ t.posted = dropAt s.posted i ∧
      p.line ∈ t.poison ∧ p.line ∉ t.bad ∧ t.sh? p.h = (s.sh? p.h).map (deferTo · record)
    (p.comp = false → s.OffTables (64 * p.line) → (∀ o ∈ s.eventObjects, ∀ c ∈ p.cells, c.1 < o ∨ o + 16 ≤ c.1) →
      p.full = true ∨ (p.line ∉ s.poison ∧ p.line ∉ s.bad) → ∃ t, exec (.globalWritePerformed i) s = .next t ∧ t.posted = dropAt s.posted i ∧ t.mem.wf = true ∧ t.blocks = s.blocks ∧
        (∀ a, t.mem.read a = (lastCell (s.keepRz p.cells) a).getD (s.mem.read a)) ∧
        (∀ j x, s.sh? j = some x → t.sh? j = some (if x.resv = some p.line then { x with resv := none } else x)) ∧
        (p.full = true → p.line ∉ t.poison ∧ p.line ∉ t.bad)) ∧
    (p.full = false → p.frame = true → p.line ∈ s.poison ∨ p.line ∈ s.bad → ∀ x r k, s.sh? p.h = some x → x.trap = some r →
      s.blk? (blockOf p.h) = some k → k.fatal = none → ∃ t, exec (.globalWritePerformed i) s = .next t ∧ t.mem = s.mem ∧
        t.blk? (blockOf p.h) = some { k with fatal := some (p.h, { r with cause := 0x1A5 }) }) ∧
    (p.full = false → p.engine = none → p.frame = false →
      (p.line ∈ s.poison ∨ p.line ∈ s.bad → abandoned (.globalWritePerformed i)) ∧ abandoned (.partialWriteError i))) ∧
  (∀ (s : State) (i j : Nat) (q p : Posted), s.posted[i]? = some q → s.posted[j]? = some p → q.line = p.line →
    q.site = p.site → q.h = p.h ∨ (∃ c ∈ p.cells, q.writes c.1 = true) →
    (i < j ∧ q.die = p.die ∧ (p.die = true ∨ q.core = p.core)) ∨ (q.die = true ∧ p.die = false) →
    exec (.globalWritePerformed j) s = .next s) ∧
  (∀ (s : State) (c line : Nat), DieStep (.cacheRevalidate c line) s (c / 128) { s.die (c / 128) with
    coreCache := Tab.del (s.die (c / 128)).coreCache (coreLine (c % 128) line) }) ∧
  (∀ (s : State) (line : Nat),
    (line ∈ s.bad → ∃ t, exec (.patrolScrub line) s = .next t ∧
      t = { s with bad := s.bad.filter (· != line), poison := insertNat s.poison line,
                   retired := t.retired, parts := t.parts, hubs := t.hubs, mgmt := t.mgmt } ∧
      (t.hub (line / 64 % 2)).uncorrected = (s.hub (line / 64 % 2)).uncorrected + 1 ∧
      (farTier (line / 1024 * 65536) = false → line / 1024 * 65536 ∉ s.retired → line / 1024 * 65536 ∈ t.retired ∧
        ∀ p x, t.part? p = some x → line / 1024 * 65536 ∉ x.frames)) ∧
    (line ∉ s.bad → exec (.patrolScrub line) s = .next s)) ∧
  (∀ s : State, ∃ t, exec .spaceRecovered s = .next t ∧ t = { s with compress := t.compress } ∧ t.compress.hold = false ∧
    (∀ h, (t.compress.pool h).reserve = 0) ∧ ∀ b n st, Tab.get? s.compress.blocks b = some (n, st) →
      Tab.get? t.compress.blocks b = some (n, if st = .reserve then .free else st)) ∧
  (∀ (s : State) (hub : Nat), ∃ t, exec (.farTierLoss hub) s = .next t ∧ t = { s with hubs := t.hubs, mgmt := t.mgmt } ∧
    t.hub hub = { s.hub hub with farLost := true } ∧ (∀ h, h ≠ hub → t.hub h = s.hub h) ∧
    Logged s t false (12 + hub) 0xFF 0x7F 0x1CD) ∧
  (∀ (s : State) (f : FaultReq), s.faults.find? s.servable = some f →
    let left := s.faults.filter fun x => !(x.ctx == f.ctx && x.page == f.page)
    ((∃ pa w c, s.walkPage f.ctx f.page = .page pa w c) ∨ s.walkPage f.ctx f.page = .none →
      exec .faultService s = .next { s with faults := left }) ∧
    (∀ entry back addr big p frame, s.walkPage f.ctx f.page = .serv entry back addr big → s.part? (f.ctx / 256) = some p →
      frameFor big p.frames = some frame → s.mem.wf = true → frame < 2 ^ 48 →
      let size := if big then 2 ^ 21 else 65536
      let gone (i : Nat) : Bool := s.lineBad (addr / 64 + i) || s.farGone (addr + 64 * i)
      frame + size ≤ entry ∨ entry + 8 ≤ frame → s.lineBad (entry / 64) = false → s.OffTables entry →
      ∃ t, exec .faultService s = .next t ∧ t.faults = left ∧ t.mem.wf = true ∧
        (back = 1 → ∀ i, i < size / 64 → gone i = true → frame / 64 + i ∈ t.poison) ∧
        ((back = 1 → ∀ i, i < size / 64 → gone i = false) → t.part? (f.ctx / 256) = some
          { p with frames := p.frames.filter fun x => x < frame || frame + size ≤ x }) ∧
        t.mem.dword entry = frame + s.mem.dword entry / 32 % 2 * 32 + s.mem.dword entry / 4 % 2 * 4 +
          s.mem.dword entry / 2 % 2 * 2 + 1 ∧
        (back = 0 → ∀ i, i < size → t.mem.read (frame + i) = 0) ∧
        (back = 1 → ∀ i, i < size → t.mem.read (frame + i) = s.mem.read (addr + i)) ∧
        ∀ x, x < frame ∨ frame + size ≤ x → x < entry ∨ entry + 8 ≤ x → t.mem.read x = s.mem.read x)) ∧
  (∀ (s : State) (i : Nat) (f : FaultReq), s.faults[i]? = some f → ∃ t, exec (.faultDeclaredFatal i) s = .next t ∧
    t = { s with faults := s.faults.filter (fun x => !(x.ctx == f.ctx && x.page == f.page)), shuttles := t.shuttles,
                 cores := t.cores, blocks := t.blocks } ∧
    ∀ h x k, s.sh? h = some x → s.blk? (blockOf h) = some k → t.sh? h = some
      (if k.ctx = f.ctx then { x with
        fatalPages := if f.page ∈ x.waitPages then insertNat x.fatalPages f.page else x.fatalPages
        queue := match x.queue with
          | [] => []
          | r :: rs => (if f.page ∈ r.pages then { r with fatal := insertNat r.fatal f.page } else r) :: rs }
      else x)) ∧
  (∀ (s : State) (cx lo len : Nat), ∃ t, exec (.invalidateCommand cx lo len) s = .next t ∧
    t = { s with dies := t.dies, invals := if s.pinnedIn cx lo len then s.invals ++ [(cx, lo, len)] else s.invals } ∧
    ∀ site e, e ∈ (t.die site).tlb ↔ e ∈ (s.die site).tlb ∧
      ¬(e.ctx = cx ∧ lo < 65536 * (e.page + 1) ∧ 65536 * e.page < lo + len ∧ s.pinned cx e.page = false)) ∧
  (∀ (s : State) (reed : Bool) (cx lo words : Nat) (ws : List Nat), words ≠ 0 → lo % 4 = 0 →
    let made (run : Bool) : Prop := exec (.translateRegion reed cx lo words) s = .next { s with
      trans := s.trans ++ [{ reed := reed, run := run, ctx := cx, lo := lo, words := ws, current := true, inside := [] }] }
    ((∃ o ∈ s.objs, o.ctx = cx ∧ o.ctlLo ≤ lo ∧ lo + 4 * words ≤ o.ctlLo + o.ctlLen) →
      (∀ o ∈ s.objs, o.ctx = cx → lo < o.laneLo ∨ o.laneLo + o.laneLen ≤ lo) →
      (∀ t ∈ s.trans, t.reed = reed → t.run = false → t.ctx = cx → t.current = true →
        lo + 4 * words ≤ t.lo ∨ t.lo + 4 * t.words.length ≤ lo) →
      s.homeWords cx 4 lo words = some ws → made false) ∧
    ((∃ o ∈ s.objs, o.ctx = cx ∧ o.laneLo ≤ lo ∧ lo + 12 * words ≤ o.laneLo + o.laneLen ∧ (lo - o.laneLo) % 12 = 0) →
      s.homeWords cx 12 lo words = some ws →
      ((∀ t ∈ s.trans, t.reed = reed → t.run = true → t.ctx = cx → t.current = true → t.lo ≠ lo) → runShaped ws = true →
        made true) ∧
      (runShaped ws = false → exec (.translateRegion reed cx lo words) s = .next s))) ∧
  (∀ (s : State) (i : Nat) (t : Translation), s.trans[i]? = some t →
    (t.inside = [] → exec (.translationEvict i) s = .next { s with trans := dropAt s.trans i }) ∧
    (t.inside ≠ [] → exec (.translationEvict i) s = .next s) ∧
    (t.current = true → t.inside = [] → exec (.translationReplace i) s = .next { s with trans := dropAt s.trans i ++ [t] }) ∧
    (t.current = true → t.inside ≠ [] → exec (.translationReplace i) s = .next { s with
      trans := setAt s.trans i { t with current := false } ++ [{ t with inside := [] }] })) ∧
  (∀ (s : State) (p idx : Nat) (e : CtxEntry) (pt : Part), s.part? p = some pt → idx < 256 →
    (s.ctx? (256 * p + idx) = some e → Tab.get? pt.live idx = none → s.mem.wf = true →
      ∃ t, exec (.contextEntryValid p idx e) s = .next t ∧ t.part? p = some { pt with live := Tab.set pt.live idx s.now } ∧
        (∀ i, i < 65536 → t.mem.read (e.ttab + i) = 0) ∧
        ∀ a, a < e.ttab ∨ e.ttab + 65536 ≤ a → t.mem.read a = s.mem.read a) ∧
    (s.ctx? (256 * p + idx) = none → (Tab.get? pt.live idx).isSome = true → e.valid = false →
      ∃ t, exec (.contextEntryValid p idx e) s = .next t ∧ t.part? p = some { pt with live := Tab.del pt.live idx } ∧
        t.mem = s.mem ∧ (∀ c, ∀ x ∈ (t.core c).tenants, x.ctx ≠ some (256 * p + idx)) ∧ (∀ c, ∀ m ∈ (t.core c).overflow, m.ctx ≠ 256 * p + idx) ∧
        ∀ site r y, Tab.get? (t.die site).ranges r = some y → y.ctx ≠ some (256 * p + idx)))

/-- Neighbour-paced mode, messages and ranges (R226 to R230, R234 to R236, R239 to R249, R252): entry, notice, advance
and exit release the shuttles that stand at them; a waiting RLD reads, or traps when its wait expired or its target is
gone; packets take productive hops that have room; a message goes to its posted receive, to the overflow queue, or is
refused and claimed; slots, caps and ranges change as their steps say. A fenced core of HELDBY counting as one that
left is log 27, the claims and the overflow flag are log 45, RLD's mark of a wait is log 42, and the numbers of a
range claimed are log 107. Says that these forms complete, their own effect being the next state of exec:
npEntryComplete, stepNotice, stepAdvance, npExitComplete, rldWaitEnd, stepWaitExpired, rldTargetGone, packetRoute,
routerGrant, messageArrival, messageResend, sendSlotAccept, congestionWindow, rangeSlotAccept, rangeClaim. -/
def Obligations.PacedAndNetworkSteps : Prop :=
  (∀ (s : State) (c : Nat),
    let np := (s.core c).np
    let steps (i : Instr) (n : Paced) (go : Nat → Shuttle → Prop) : Prop := ∃ t, exec i s = .next t ∧
      t = { s with cores := t.cores, shuttles := t.shuttles, dies := t.dies } ∧ t.core c = { s.core c with np := n } ∧
      ∀ j x, s.sh? j = some x → ∃ y, t.sh? j = some y ∧ y.s = x.s ∧ y.v = x.v ∧
        (go j x → y.pc = x.pc + 4 ∧ y.wait = .none) ∧ (¬go j x → y.pc = x.pc ∧ y.wait = x.wait)
    (∀ h hs blk pd, np.entering = h :: hs → np.on = false → s.blk? (blockOf h) = some blk → s.entryPending c = true →
      (∀ b ∈ s.blocksOn c, b = blockOf h) → entryWith (fun _ => true) blk np.record = some pd →
      steps (.npEntryComplete c) { pd with owner := some (blockOf h) } fun j _ => j ∈ h :: hs) ∧
    CoreStep (.stepNotice c) s c { s.core c with np := if np.on then { np with published := np.done } else np } ∧
    (s.mayAdvance c np = true → steps (.stepAdvance c) { np with
      step := (np.step + 1) % 2 ^ 32, arrived := [], announced := false
      passed := np.passed ++ np.arrived.filter (fun h => !s.standsPaced h) }
      fun j x => j ∈ np.arrived ∧ x.wait = .paced ∧ x.handler = false) ∧
    (np.on = false ∨ np.announced = false ∨ (∃ x ∈ np.waiton, s.hasDone (c / 128) np.step x = false) ∨
      (∃ x ∈ np.heldby, s.hasDone (c / 128) ((np.step + 1 + 2 ^ 32 - np.skew) % 2 ^ 32) x = false) →
      exec (.stepAdvance c) s = .next s) ∧
    (∀ b, np.on = true → np.owner = some b → s.allLeave b np = true →
      (∀ x ∈ np.heldby, s.hasDone (c / 128) np.done x = true ∨ (s.core (128 * (c / 128) + x)).fenced = true ∨
        ((s.core (128 * (c / 128) + x)).np.on = false ∧ (s.core (128 * (c / 128) + x)).np.left = true)) →
      steps (.npExitComplete c)
        { Paced.off with passed := np.passed ++ np.leaving.filter (fun h => !s.standsPaced h), left := true }
        fun j x => j ∈ np.leaving ∧ x.wait = .paced ∧ x.handler = false)) ∧
  (∀ (s : State) (h : Nat) (w : Who) (r : Run) (hd : Head) (ty : MType) (d : LDst) (a b c : LSrc) (off : W32),
    s.laneWord h = some (w, r, .lRld hd ty d a b c off) → r.since.isSome = true →
    let np := (s.core w.coreKey).np
    let core (th : Nat) : Nat := readSrc s w.sh r b 1 th
    let step (th : Nat) : Nat := readSrc s w.sh r c 2 th
    let o (th : Nat) : Nat := (readSrc s w.sh r a 0 th + off.toNat) % 2 ^ 32
    let far (th : Nat) : Paced := (s.core (128 * w.blk.site + core th)).np
    let trapped (t : TrapRec) : Shuttle :=
      { w.sh with queue := r.halt :: w.sh.queue.tail, laneTrap := some t }
    (np.on = true →
      (∀ th ∈ selected w hd, (core th = w.blk.core ∨ core th ∈ np.waiton) ∧ core th ∉ r.gone ∧ o th % ty.size = 0 ∧
        (far th).on = true ∧ o th + ty.size ≤ (far th).buflen ∧
        stepGe (if core th = w.blk.core then (far th).done else (far th).published) (step th) = true ∧
        stepGe (((far th).step + 2 ^ 32 - step th % 2 ^ 32) % 2 ^ 32) (far th).depth = false) →
      ∃ u, exec (.rldWaitEnd h) s = .next u ∧ u = { s with shuttles := u.shuttles, dies := u.dies } ∧
        (∀ j, j ≠ h → u.sh? j = s.sh? j) ∧
        u.sh? h = some ((if (selected w hd).any fun th => core th != w.blk.core then markWaited else id)
          (laneAfter w hd [a, b, c] fun th => putLoaded s d ty th (
            match (far th).owner.bind s.blk? with
            | some k => k.a.readN ((far th).bufbase + step th % (far th).depth * (far th).buflen + o th) ty.size
            | none => [])))) ∧
    (∀ t0 th x rest, r.since = some t0 → t0 + 2 ^ 20 ≤ s.now → s.unmet w.blk (stepReads s w r hd a b c off) = (th, x) :: rest →
      ShuttleStep (.stepWaitExpired h) s h (trapped (headTrap r 0x12C (maskOf (th :: rest.map (·.1))) x))) ∧
    (∀ th rest, np.on = true →
      (∀ th ∈ selected w hd, (core th = w.blk.core ∨ core th ∈ np.waiton) ∧ o th % ty.size = 0) →
      (selected w hd).filter (fun th => r.gone.contains (core th)) = th :: rest →
      ShuttleStep (.rldTargetGone h) s h (trapped (headTrap r 0x123 (maskOf (th :: rest)) (o th))))) ∧
  (∀ (s : State) (i : Nat) (p : NetPacket), s.net[i]? = some p →
    (p.waits s.now = none → exec (.packetRoute i) s = .next s) ∧
    (∀ a, p.waits s.now = some a →
      (s.routeOf p a = none → exec (.packetRoute i) s = .next s) ∧
      (∀ out dest, s.routeOf p a = some (out, dest) → exec (.packetRoute i) s = exec (.routerGrant p.site a.quad out) s) ∧
      (a.quad = p.dstQuad → s.routeOf p a = some (4 + (if p.reply then p.msg.src else p.msg.dst) % 4, none)) ∧
      ∀ o dest, a.quad ≠ p.dstQuad → s.routeOf p a = some (o, dest) →
        ∃ h b, dest = some (h, b) ∧ h ∈ s.hops p a.quad ∧ h.out = o ∧ s.hasRoom p h b = true) ∧
    (p.ejected < p.flits → exec (.messageArrival i) s = .next s) ∧
    (p.flits ≤ p.ejected →
      let m := p.msg
      let c := 128 * p.site + m.dst
      let k := s.core c
      let rest := dropAt s.net i
      (p.reply = false → k.recvs.findIdx? (·.accepts m) = none → k.queues m = true →
        ∃ t, exec (.messageArrival i) s = .next t ∧
          t = { s with net := rest ++ [mkPacket p.site 9 0 m true false], cores := t.cores } ∧
          t.core c = { k with claims := k.claims.filter (· != m.src), overflow := k.overflow ++ [{ m with refused := false }] }) ∧
      (p.reply = false → k.recvs.findIdx? (·.accepts m) = none → k.queues m = false →
        ∃ t, exec (.messageArrival i) s = .next t ∧ t.net = rest ++ [mkPacket p.site 9 0 m true true] ∧
          m.src ∈ (t.core c).claims ∧ m.ctx ∈ (t.core c).raised ∧ (t.core c).overflow = k.overflow ∧ t.mem = s.mem) ∧
      (∀ j r, p.reply = false → k.recvs.findIdx? (·.accepts m) = some j → k.recvs[j]? = some r →
        ∃ t, exec (.messageArrival i) s = .next t ∧ t.net = rest ++ [mkPacket p.site 9 0 m true false] ∧
          (t.core c).recvs = dropAt k.recvs j ∧ t.mem = s.mem ∧
          ∀ blk, s.blk? r.block = some blk → ∃ k', t.blk? r.block = some k' ∧
            let n := min m.payload.length (16 * r.cap)
            k'.a.readN r.offset 16 = leBytes 16 (envelope m n) ∧
              ∀ x, x < n → k'.a.read (r.offset + 16 + x) = m.payload.getD x 0) ∧
      (∀ j, p.reply = true → p.refusal = false →
        (s.core (128 * p.site + m.src)).sendQ.findIdx? (fun x => x.sent && x.dst == m.dst) = some j →
        ∃ t, exec (.messageArrival i) s = .next t ∧ t = { s with net := rest, cores := t.cores } ∧
          t.core (128 * p.site + m.src) = Core.headed s.now { s.core (128 * p.site + m.src) with
            sendQ := dropAt (s.core (128 * p.site + m.src)).sendQ j }))) ∧
  (∀ (s : State) (site quad out : Nat),
    (s.outBusy site quad out = true ∨ s.granted site quad out = none → exec (.routerGrant site quad out) s = .next s) ∧
    (∀ i p a dest, s.outBusy site quad out = false → s.granted site quad out = some (some i, p, a, dest) →
      exec (.routerGrant site quad out) s = .next { s with net := setAt s.net i (p.granted a out dest) }) ∧
    (∀ p a dest, s.outBusy site quad out = false → s.granted site quad out = some (none, p, a, dest) →
      let c := 128 * site + p.msg.src
      ∃ t, exec (.routerGrant site quad out) s = .next t ∧ t = { s with net := s.net ++ [p.granted a out dest], cores := t.cores } ∧
        t.core c = Core.headed s.now { s.core c with sendQ := (s.core c).sendQ.map fun m =>
          if m.head.isSome && !m.sent then { m with sent := true, refused := false, head := none } else m } ∧
        ∀ d, d ≠ c → t.core d = s.core d) ∧
    (s.now / 1024 ≤ (s.quad (32 * site + quad)).windows → exec (.congestionWindow site quad) s = .next s) ∧
    ((s.quad (32 * site + quad)).windows < s.now / 1024 → ∃ t, exec (.congestionWindow site quad) s = .next t ∧
      t = { s with cores := t.cores, quads := t.quads, shuttles := t.shuttles } ∧
      (∀ j x, s.sh? j = some x → ∃ q, t.sh? j = some { x with queue := q } ∧ q.length = x.queue.length) ∧
      (∀ i, i < 4 → t.core (128 * site + 4 * quad + i) = { s.core (128 * site + 4 * quad + i) with
        cap := if 256 < (s.quad (32 * site + quad)).congest then max 4 ((s.core (128 * site + 4 * quad + i)).cap / 2)
          else min 128 (2 * (s.core (128 * site + 4 * quad + i)).cap) }) ∧
      (∀ d, d < 128 * site + 4 * quad ∨ 128 * site + 4 * quad + 4 ≤ d → t.core d = s.core d) ∧
      t.quad (32 * site + quad) = { s.quad (32 * site + quad) with congest := 0, windows := s.now / 1024 })) ∧
  (∀ (s : State) (c : Nat),
    (∀ src rest m, (s.core c).claims = src :: rest → s.refusedOf c src = some m →
      (s.core c).overflow.length + s.offered c none < 64 → (s.core c).overflowOf m.ctx + s.offered c (some m.ctx) < 48 →
      CoreStep (.messageResend c) s (128 * (c / 128) + src) (Core.headed s.now { s.core (128 * (c / 128) + src) with
        sendQ := (s.core (128 * (c / 128) + src)).sendQ.map fun m =>
          if m.dst == c % 128 && m.sent && m.refused then { m with sent := false } else m })) ∧
    (∀ m ms, (s.core c).sendSlots = m :: ms → (s.core c).sendQ.length < 8 → CoreAndShuttleStep (.sendSlotAccept c) s c
      (Core.headed s.now { s.core c with sendQ := (s.core c).sendQ ++ [m], sendSlots := ms }) m.h Shuttle.advance)) ∧
  (∀ (s : State) (site h r : Nat) (x : Range) (rest : List (Nat × RangeOp)), Tab.get? (s.die site).ranges r = some x →
    (s.die site).rangeQ.length < 16 →
    let serves (y : Range) (f : Shuttle → Shuttle) : Prop := ∃ t, exec (.rangeSlotAccept site) s = .next t ∧
      t = { s with dies := t.dies, shuttles := t.shuttles } ∧ t.die site = { s.die site with
        rangeSlots := rest, ranges := Tab.set (s.die site).ranges r y, rangeQ := (s.die site).rangeQ ++ [h] } ∧
      t.sh? h = (s.sh? h).map f ∧ ∀ j, j ≠ h → t.sh? j = s.sh? j
    (∀ start stop mn dv, (s.die site).rangeSlots = (h, .init r start stop mn dv) :: rest →
      serves { x with start := start, next := start, stop := stop, min := mn, div := dv } Shuttle.advance) ∧
    (∀ d, (s.die site).rangeSlots = (h, .grab r d) :: rest → serves { x with next := x.next + grabLen x }
      fun sh => (sh.writeS d (BitVec.ofNat 64 (grabLen x * 2 ^ 40 + x.next))).advance)) ∧
  (∀ (s : State) (p site r cx : Nat) (pt : Part), s.part? p = some pt → r < 64 → cx < 256 → pt.onDie site = true →
    Tab.get? (s.die site).ranges r = none → DieStep (.rangeClaim p site r cx) s site { s.die site with
      ranges := Tab.set (s.die site).ranges r
        { part := p, ctx := some (256 * p + cx), start := 0, next := 0, stop := 0, div := 0, min := 0 } })

/-- Collectives and ports (R361, R362, R364, R366 to R368, R370): a use begins with the packets held for it; packets
join, are held or are counted stale; an accepted command's source becomes its rank's contribution at both hubs; a
receiver's result is written with full granules once every contribution is there, and a delivery that finds its block
gone is counted stale; a lost package ends the blocks whose group names it; a port delivers bursts in order, asks for
replays, and maps a repaired lane. The 4,908,535 microseconds in which a lane's errors count are log 63, and the hub
of a block is log 17. Says that these forms complete, their own effect being the next state of exec: collectiveNewUse,
collectiveSlotAccept, collectiveSourceRead, collectiveResultWrite, collectivePacketArrival, linkBurstReceive,
replayRequest, laneRepair, packageLost. -/
def Obligations.FabricSteps : Prop :=
  (∀ (s : State) (hub gid h : Nat) (sh : Shuttle) (b : Block), (h, sh) ∈ s.shuttles → sh.wait = .newUse gid →
    s.blk? (blockOf h) = some b → hubOf b.site = hub → (s.hub hub).drain gid = 0 →
    let u := (s.hub hub).use gid
    ∃ t, exec (.collectiveNewUse hub gid) s = .next t ∧ t = { s with hubs := t.hubs, shuttles := t.shuttles } ∧
      (∀ j x k, s.sh? j = some x → s.blk? (blockOf j) = some k →
        t.sh? j = some (if x.wait = .newUse gid ∧ hubOf k.site = hub then { x with wait := .other } else x)) ∧
      ((t.hub hub).use gid).cur = (u.cur + 1) % 16 ∧ ((t.hub hub).use gid).joined = [] ∧
      ((t.hub hub).use gid).unacked = 0 ∧ ((t.hub hub).use gid).held = [] ∧
      ((t.hub hub).use gid).contrib = u.held.foldl (fun x e => Tab.set x e.1 e.2) [] ∧ (t.hub hub).collQ = (s.hub hub).collQ) ∧
  (∀ (s : State) (hub : Nat) (k : Coll) (ks : List Coll), (s.hub hub).collSlots = k :: ks → (s.hub hub).collQ.length < 64 →
    k.hub = hub → ∃ t, exec (.collectiveSlotAccept hub) s = .next t ∧ t = { s with hubs := t.hubs, shuttles := t.shuttles } ∧
      (t.hub hub).collQ = (s.hub hub).collQ ++ [k] ∧ (t.hub hub).collSlots = ks ∧
      (t.hub hub).use k.gid = { (s.hub hub).use k.gid with joined := ((s.hub hub).use k.gid).joined ++ [k.rank] } ∧
      t.sh? k.h = (s.sh? k.h).map Shuttle.advance) ∧
  (∀ (s : State) (hub part : Nat) (fn : Fin 4) (desc : W64) (data : List Byte),
    let d := desc.toNat
    let gid := 4096 * part + d / 2 ^ 52 % 4096
    let use := d / 2 ^ 48 % 16
    let rank := d / 2 ^ 36 % 4096
    let c : Contribution := { kind := collKind fn.val d, count := d / 2 ^ 20 % 2 ^ 16, data := data }
    let u := (s.hub hub).use gid
    ∃ t, exec (.collectivePacketArrival hub part fn desc data) s = .next t ∧ t = { s with hubs := t.hubs } ∧
      (∀ h, h ≠ hub → t.hub h = s.hub h) ∧ (∀ g, g ≠ gid → (t.hub hub).use g = (s.hub hub).use g) ∧
      (use = u.cur → (t.hub hub).use gid = { u with contrib := Tab.set u.contrib rank c }) ∧
      (use ≠ u.cur → use = (u.cur + 1) % 16 → (t.hub hub).use gid = { u with held := u.held ++ [(rank, c)] }) ∧
      (use ≠ u.cur → use ≠ (u.cur + 1) % 16 → (t.hub hub).use gid = u ∧
        (t.hub hub).stale = min 0xFFFFFFFF ((s.hub hub).stale + 1))) ∧
  (∀ (s : State) (i : Nat) (k : Coll) (blk : Block), s.coll? i = some (k, blk) → blk.status = .resident → blk.fatal = none →
    s.lostFor k blk = none →
    (∀ sp addr, k.src = some (sp, addr) → k.read = false → s.sourceReady k blk = true →
      (∀ bs, s.sourceOf k blk sp addr = .row bs → k.use = ((s.hub k.hub).use k.gid).cur →
        ∃ t, exec (.collectiveSourceRead i) s = .next t ∧ t.mem = s.mem ∧
          Tab.get? ((t.hub k.hub).use k.gid).contrib k.rank =
            some { kind := k.kind, count := k.count, data := contribution k.kind k.count bs } ∧
          (k.dst.isSome = true → ∀ y ∈ (t.hub k.hub).collQ, y.id = k.id → y.read = true) ∧
          (k.dst = none → ∀ y ∈ (t.hub k.hub).collQ, y.id ≠ k.id)) ∧
      (∀ cause a, s.sourceOf k blk sp addr = .fault cause a → ∃ t, exec (.collectiveSourceRead i) s = .next t ∧
        t.mem = s.mem ∧ (∀ y ∈ (t.hub k.hub).collQ, y.id ≠ k.id) ∧
        t.sh? k.h = (s.sh? k.h).map (deferTo · { cause := cause, addr := a, ipc := k.ipc }))) ∧
    (∀ c n, k.flying = true → k.toward = some (c, n) → (c, n) ≠ (blk.coreKey, blk.tenancy) →
      ∃ t, exec (.collectiveResultWrite i) s = .next t ∧ t = { s with cores := t.cores, hubs := t.hubs } ∧
        (t.core c).stale = min 0xFFFFFFFF ((s.core c).stale + 1) ∧
        ∀ y ∈ (t.hub k.hub).collQ, y.id = k.id → y.flying = false) ∧
    (∀ addr bs, k.dst = some (.a, addr) → k.read = true → k.flying = true → k.toward = some (blk.coreKey, blk.tenancy) →
      collResult k ((s.hub k.hub).use k.gid) = some bs →
      ∃ t k', exec (.collectiveResultWrite i) s = .next t ∧ t.blk? k.block = some k' ∧ t.mem = s.mem ∧
        (∀ n, n < bs.length → k'.a.read (addr + n) = bs.getD n 0) ∧
        (∀ x, x < addr ∨ addr + bs.length ≤ x → k'.a.read x = blk.a.read x) ∧
        (∀ g, k'.a.isFull g = (blk.a.isFull g || (granules addr bs.length).contains g)) ∧
        ∀ y ∈ (t.hub k.hub).collQ, y.id ≠ k.id) ∧
    (k.flying = false → collResult k ((s.hub k.hub).use k.gid) = none → exec (.collectiveResultWrite i) s = .next s)) ∧
  (∀ (s : State) (i c n : Nat) (k : Coll) (blk : Block), s.coll? i = some (k, blk) → blk.status = .ended → k.flying = true →
    k.toward = some (c, n) → ∃ t, exec (.collectiveSourceRead i) s = .next t ∧ t = { s with cores := t.cores, hubs := t.hubs } ∧
      (t.core c).stale = min 0xFFFFFFFF ((s.core c).stale + 1) ∧ ∀ y ∈ (t.hub k.hub).collQ, y.id ≠ k.id) ∧
  (∀ (s : State) (pkg : Nat), ∃ t, exec (.packageLost pkg) s = .next t ∧ pkg ∈ t.lostPkgs ∧ t.mem = s.mem ∧
    let hit (k : Coll) (blk : Block) : Prop := (∃ e ∈ s.hubs, k ∈ e.2.collQ) ∧ s.blk? k.block = some blk ∧ blk.status ≠ .ended ∧
      pkg ∈ s.collPackages k blk
    ((∀ k blk, ¬hit k blk) → t = { s with lostPkgs := insertNat s.lostPkgs pkg, mgmt := t.mgmt } ∧ Logged s t false 12 0xFF 0x7F 0x1E7) ∧
    ∀ k blk, hit k blk →
      (s.mgmt.log.length + (s.hubs.flatMap fun e => e.2.collQ).length ≤ 4096 →
        ∃ x ∈ t.mgmt.log, x.repl = false ∧ x.site = 12 + k.hub ∧ x.cause = 0x1E7) ∧
      (blk.fatal = none → k.block = blockOf k.h → ∃ k' j f, t.blk? k.block = some k' ∧ k'.fatal = some (j, f) ∧ f.cause = 0x1E7)) ∧
  (∀ (s : State) (n seq ack lane : Nat) (flits : List Nat),
    let p := s.port n
    let good := burstCrc seq ack flits
    let receive (crc : BitVec 32) : Instr := .linkBurstReceive n seq ack flits crc lane
    (p.up = false → ∀ crc, exec (receive crc) s = .next s) ∧
    (p.up = true → seq = (p.got + 1) % 4096 → flits ≠ [] → flits.length ≤ 15 → PortStep (receive good) s n { p with
      got := seq, wantReplay := false, delivered := p.delivered ++ flits, replay := ackBursts ack p.replay }) ∧
    (p.up = true → seq ≠ (p.got + 1) % 4096 ∨ flits = [] ∨ 15 < flits.length →
      PortStep (receive good) s n { p with wantReplay := true }) ∧
    (∀ crc, p.up = true → crc ≠ good →
      let bad := { p with wantReplay := true, errors := p.errors ++ [(lane, s.now)] }
      let earlier := p.recent lane s.now (s.micros 4908535)
      (earlier < 32 ∨ p.repair.isSome = true → PortStep (receive crc) s n bad) ∧
      (32 ≤ earlier → p.repair = none → p.spare = none → PortStep (receive crc) s n { bad with repair := some lane }) ∧
      (32 ≤ earlier → p.repair = none → p.spare.isSome = true →
        (∀ e ∈ s.podRoutes, n ∈ e.2 → ∃ m ∈ e.2, m ≠ n ∧ (s.port m).up = true) →
        ∃ t, exec (receive crc) s = .next t ∧ t = { s with ports := t.ports, mgmt := t.mgmt } ∧
          t.port n = { bad with up := false } ∧ Logged s t true (14 + n) 0xFF 0x7F 0x1E7)) ∧
    PortStep (.replayRequest n seq) s n { p with
      replay := ackBursts seq p.replay
      sent := p.sent ++ (ackBursts seq p.replay).map fun e => burst e.1 p.got e.2.2 } ∧
    (∀ l, p.repair = some l → p.replay = [] → PortStep (.laneRepair n) s n { p with
      spare := some l, repair := none, errors := p.errors.filter (fun e => e.1 != l) }) ∧
    (p.repair = none ∨ p.replay ≠ [] → exec (.laneRepair n) s = .next s))

namespace Sys2Proof.Machine

/-- The regions that a supervisor's plan names, and its own context's tensor table. -/
def planRegions (x : SuperPlan) : List (Nat × Nat) :=
  [(x.table, 16384), (x.page, 4096), (x.window, 65536), (x.log, 32768), (x.entry.ttab, 65536)]

/-- They begin at lines and have no byte in common, nor one with another partition's context table (R314). -/
def State.planApart (s : State) (x : SuperPlan) : Prop :=
  (∀ r ∈ planRegions x, r.1 % 64 = 0 ∧ ∀ e ∈ s.parts, r.1 + r.2 ≤ e.2.table ∨ e.2.table + 16384 ≤ r.1) ∧
    (planRegions x).Pairwise fun a b => a.1 + a.2 ≤ b.1 ∨ b.1 + b.2 ≤ a.1

/-- The management plane with a command's OP and RESULT in the mailbox, which is busy (R373). -/
def Mgmt.went (m : Mgmt) (op result : Nat) : Mgmt :=
  { m with mailbox := { m.mailbox with op := op, busy := true, started := false, result := result } }

/-- The step of the command of an OP may act: GO has started it, or starts it with the step (log 55). -/
def Mgmt.mayGo (m : Mgmt) (op : Nat) : Prop := m.mailbox.busy = false ∨ (m.mailbox.started = true ∧ m.mailbox.op = op)

end Sys2Proof.Machine

/-- The host and the management plane (R299, R305, R315, R318, R346, R372 to R379): BAR writes, the mailbox's commands
with their results, which a busy mailbox ignores, the end of a command, power, telemetry, bring-up and the negotiation
of a die. What signs and verifies is no value of the manual: those clauses hold whatever the check says. When a
command acts is log 55, the answers of MB_BUILD_PARTITION and of re-admission log 59, with its routes log 108, the 20
MHz rise and the telemetry order log 62, a quote's layout log 109, and power applied again log 110. Says that these
forms complete, their own effect being the next state of exec: joinNegotiation, powerOnBringup, hostWindowWrite,
hostBar2Access, mbBuildPartition, mbUnknownOp, registerWrite, powerWindow, powerThermalEmergency, telemetryUpdate,
mbReadGenerationRecord, mbDissolvePartition, mbSetPowerCap, mbReadErrorLog, mbStageFirmware, mbAttestationQuote,
mbReadmitDie, mailboxCommandEnd. -/
def Obligations.ManagementSteps : Prop :=
  (∀ (s : State) (p off b : Nat) (data : List Byte) (pt : Part) (k : Block), s.part? p = some pt → pt.super = some b →
    s.blk? b = some k → off + data.length ≤ 65536 → s.mem.wf = true → data ≠ [] → s.recovery = false →
    s.HubMay (pt.window + off) data.length →
    let stands (t : State) (f : Nat → Byte → Byte) : Prop :=
      (∀ i, i < data.length → t.mem.read (pt.window + off + i) = f i (data.getD i 0)) ∧
        ∀ a, a < pt.window + off ∨ pt.window + off + data.length ≤ a → t.mem.read a = s.mem.read a
    (4 ≤ off → off + data.length ≤ 256 → ∃ t, exec (.hostWindowWrite p off data) s = .next t ∧ HubWrites s t ∧
      t.part? p = some pt ∧ stands t fun i v => if 8 ≤ off + i then 0 else v) ∧
    (off = 0 → data.length = 4 → (∀ x ∈ passed (leNat data) (s.word32 pt.window) 255, 256 ≤ (Tab.getD pt.filled x []).length) →
      ∃ t, exec (.hostWindowWrite p off data) s = .next t ∧ HubWrites s t ∧ t.part? p = some pt ∧ stands t fun _ v => v) ∧
    (256 ≤ off → nextCommand (s.word32 pt.window) ≠ s.word32 (pt.window + 4) →
      (k.bar 0).landed + data.length ≤ 0xFFFFFF →
      ∃ t k', exec (.hostWindowWrite p off data) s = .next t ∧ stands t (fun _ v => v) ∧
        (∃ f, t.part? p = some { pt with filled := f } ∧ ∀ x, Tab.getD pt.filled x [] ⊆ Tab.getD f x []) ∧ t.blk? b = some k' ∧
        k'.bar 0 = (Barrier.check { k.bar 0 with landed := (k.bar 0).landed + data.length }).1)) ∧
  (∀ (s : State) (off n : Nat) (data : List Byte),
    (∀ wr, s.bar2Pas wr off n = none →
      exec (.hostBar2Access wr off n data) s = .next { s with mgmt := { s.mgmt with unsupported := true, answer := [] } }) ∧
    (∀ wr, s.recovery = true →
      exec (.hostBar2Access wr off n data) s = .next { s with mgmt := { s.mgmt with unsupported := true, answer := [] } }) ∧
    (∀ pas, s.recovery = false → s.bar2Pas false off n = some pas → (∀ a ∈ pas, a / 64 ∉ s.poison ∧ a / 64 ∉ s.bad) →
      exec (.hostBar2Access false off n data) s =
        .next { s with mgmt := { s.mgmt with unsupported := false, answer := pas.map s.mem.read } }) ∧
    (∀ pas, s.recovery = false → s.bar2Pas true off n = some pas →
      (∀ a ∈ pas, a / 64 ∉ s.poison ∧ a / 64 ∉ s.bad ∧ s.OffTables a) → s.mem.wf = true →
      data.length = pas.length → pas.Nodup → s.NoEvents →
      (∃ l, ∀ a ∈ pas, a / 64 = l) ∨ (∀ e ∈ s.shuttles, e.2.handler = false) →
      ∃ t, exec (.hostBar2Access true off n data) s = .next t ∧ t.mgmt.unsupported = false ∧ t.mgmt.answer = [] ∧
        (∀ (i a : Nat), pas[i]? = some a → some (t.mem.read a) = (data[i]?).map (s.kept a)) ∧ ∀ a, a ∉ pas → t.mem.read a = s.mem.read a)) ∧
  (∀ (s : State), s.mgmt.mailbox.busy = true → s.mgmt.mailbox.started = false → ∀ i ∈ [Instr.mbReadGenerationRecord, .mbDissolvePartition, .mbSetPowerCap,
    .mbReadErrorLog, .mbStageFirmware, .mbAttestationQuote, .mbReadmitDie], exec i s = .next s) ∧
  (∀ (s : State) (image : List Byte) (x : SuperPlan) (op : BitVec 8),
    let m := s.mgmt
    let arg (n : Nat) : Nat := (m.mailbox.args.get (Fin.ofNat 29 n)).toNat
    let answers (i : Instr) (n result : Nat) : Prop := m.mayGo n → exec i s = .next { s with mgmt := m.went n result }
    let gs := (range 0 88).filter fun g => if g < 64 then (arg 0).testBit g else (arg 1).testBit (g - 64)
    let mayBuild : Prop := s.recovery = false ∧ arg 1 < 2 ^ 24 ∧ gs ≠ [] ∧ arg 2 < 32 ∧ x.entry.valid = true ∧
      ∀ g ∈ gs, (s.die (granuleSite g).1).fenced = false
    let free : Prop := s.part? (arg 2) = none ∧ ∀ g ∈ gs, ∀ q ∈ s.parts, g ∉ q.2.granules
    (12 ≤ arg 0 → answers .mbReadGenerationRecord 1 2) ∧
    (m.mayGo 1 → arg 0 < 12 → m.mailbox.data.wf = true → ∃ t, exec .mbReadGenerationRecord s = .next t ∧
      t = { s with mgmt := { m.went 1 0 with mailbox := { (m.went 1 0).mailbox with data := t.mgmt.mailbox.data } } } ∧
      t.mgmt.mailbox.data.readN 0 16 = leBytes 16 (s.die (arg 0)).record.toNat) ∧
    (image.length ≠ arg 4 → exec (.mbBuildPartition image x) s = .next s) ∧
    (image.length = arg 4 → ¬mayBuild → answers (.mbBuildPartition image x) 2 2) ∧
    (image.length = arg 4 → mayBuild → ¬free → answers (.mbBuildPartition image x) 2 4) ∧
    (m.mayGo 2 → image.length = arg 4 → mayBuild → free → imageGood image = false → exec (.mbBuildPartition image x) s =
      .next { s with mgmt := { m.went 2 3 with hostRead := some (arg 3, arg 4) } }) ∧
    (m.mayGo 2 → image.length = arg 4 → mayBuild → free → imageGood image = true → s.mem.wf = true → s.planApart x →
      ctxEntryOf (ctxImage x.entry) = x.entry →
      ∃ t pt k, exec (.mbBuildPartition image x) s = .next t ∧
        t.mgmt = { m.went 2 0 with images := m.images ++ [image], hostRead := some (arg 3, arg 4) } ∧ t.part? (arg 2) = some pt ∧ pt.granules = gs ∧
        pt.super = some s.nextId ∧ pt.table = x.table ∧ pt.page = x.page ∧ pt.window = x.window ∧ pt.log = x.log ∧
        pt.spill = x.spill ∧ pt.live = [(0, s.now)] ∧ t.ctx? (256 * arg 2) = some x.entry ∧
        t.blk? s.nextId = some k ∧ k.supervisor = true ∧
        k.status = .placed ∧ k.coreKey = 128 * (granuleSite (gs.headD 0)).1 + 16 * (granuleSite (gs.headD 0)).2 ∧
        ∀ i, i < 65536 → t.mem.read (x.entry.ttab + i) = 0) ∧
    (s.part? (arg 2) = none → answers .mbDissolvePartition 3 2) ∧
    (∀ pt, m.mayGo 3 → s.part? (arg 2) = some pt → ∃ t, exec .mbDissolvePartition s = .next t ∧ t.mgmt = m.went 3 0 ∧
      t.part? (arg 2) = some { pt with halted := true } ∧ BlocksStop s t (fun _ k => k.part = arg 2)) ∧
    (m.mayGo 4 → 1200 ≤ arg 0 → arg 0 ≤ 3600 → exec .mbSetPowerCap s = .next { s with mgmt := { m.went 4 0 with newCap := some (arg 0) } }) ∧
    (arg 0 < 1200 ∨ 3600 < arg 0 → answers .mbSetPowerCap 4 2) ∧
    (m.mayGo 5 → m.mailbox.data.wf = true → ∃ t, exec .mbReadErrorLog s = .next t ∧
      t = { s with mgmt := { m.went 5 0 with mailbox := { (m.went 5 0).mailbox with data := t.mgmt.mailbox.data } } } ∧
      ∀ i x, i < 60 → m.log[arg 0 + i]? = some x → t.mgmt.mailbox.data.readN (16 * i) 16 = leBytes 16 x.word) ∧
    (arg 0 ≠ m.staged.length ∨ arg 1 = 0 ∨ 3840 < arg 1 → answers .mbStageFirmware 6 2) ∧
    (m.mayGo 6 → arg 0 = m.staged.length → 0 < arg 1 → arg 1 ≤ 3840 →
      let all := m.staged ++ m.mailbox.data.readN 0 (arg 1)
      (arg 2 % 2 = 0 → exec .mbStageFirmware s = .next { s with mgmt := { m.went 6 0 with staged := all } }) ∧
      (arg 2 % 2 = 1 → imageGood all = true →
        exec .mbStageFirmware s = .next { s with mgmt := { m.went 6 0 with staged := [], firmware := all } }) ∧
      (arg 2 % 2 = 1 → imageGood all = false →
        exec .mbStageFirmware s = .next { s with mgmt := { m.went 6 3 with staged := [] } })) ∧
    (arg 5 < 40960 → answers .mbAttestationQuote 7 2) ∧
    (m.mayGo 7 → 40960 ≤ arg 5 →
      let nonce := leBytes 8 (arg 0) ++ leBytes 8 (arg 1) ++ leBytes 8 (arg 2) ++ leBytes 8 (arg 3)
      let q := quoteOf nonce m.images
      ∃ t, exec .mbAttestationQuote s = .next t ∧ t.mgmt.mailbox.result = 0 ∧ t.mgmt.mailbox.op = 7 ∧
        t.mgmt.mailbox.busy = true ∧ t.mgmt.hostBuf = [(arg 4, q), (arg 4 + q.length, Config.certificateBytes.take 17408)] ∧
        q.take 32 = nonce ∧ q.length = 16272 + 32 * min 120 m.images.length) ∧
    (s.recovery = true ∨ 12 ≤ arg 0 ∨ (s.die (arg 0)).joined = true → answers .mbReadmitDie 8 2) ∧
    (m.mayGo 8 → s.recovery = false → arg 0 < 12 → (s.die (arg 0)).joined = false → ∃ t, exec .mbReadmitDie s = .next t ∧
      t.mgmt = m.went 8 0 ∧
      t.die (arg 0) = { (s.die (arg 0)).emptied with negotiating := true, routes := some (fullRoutes (arg 0)) } ∧
      ∀ d, d ≠ arg 0 → t.die d = s.die d) ∧
    (op.toNat = 0 ∨ 8 < op.toNat → answers (.mbUnknownOp op) op.toNat 1)) ∧
  (∀ s : State,
    let m := s.mgmt
    let p := (m.mailbox.args.get 2).toNat
    (m.mailbox.busy = false ∨ m.mailbox.started = true → exec .mailboxCommandEnd s = .next s) ∧
    (m.mailbox.busy = true → m.mailbox.started = false → m.mailbox.op ≠ 3 ∨ m.mailbox.result ≠ 0 → exec .mailboxCommandEnd s =
      .next { s with mgmt := { m with mailbox := { m.mailbox with busy := false }, msix := m.msix ++ [0] } }) ∧
    (m.mailbox.busy = true → m.mailbox.started = false → m.mailbox.op = 3 → m.mailbox.result = 0 → s.captured p = true →
      ∃ t, exec .mailboxCommandEnd s = .next t ∧ t.part? p = none ∧ t.mgmt.mailbox.busy = false ∧ t.mem = s.mem ∧
        (∀ o ∈ t.objs, o.ctx / 256 ≠ p) ∧ (∀ o ∈ t.trans, o.ctx / 256 ≠ p) ∧ (∀ f ∈ t.faults, f.ctx / 256 ≠ p)) ∧
    (m.mailbox.busy = true → m.mailbox.op = 3 → m.mailbox.result = 0 → s.captured p = false →
      exec .mailboxCommandEnd s = .next s)) ∧
  (∀ (s : State) (off : Nat) (v : W64),
    let m := s.mgmt
    let puts (x : Mailbox) : Prop := exec (.registerWrite off v) s = .next { s with mgmt := { m with mailbox := x } }
    (off % 8 ≠ 0 → exec (.registerWrite off v) s = .next s) ∧
    (off = 0 → m.mailbox.busy = false → puts { m.mailbox with
      op := v.toNat / 256 % 256, busy := v.getLsbD 0, started := v.getLsbD 0 }) ∧
    (m.mailbox.result < 65536 → m.mailbox.read 0 % 2 = 0 ∧ m.mailbox.read 8 / 65536 = m.mailbox.result ∧
      (m.mailbox.read 8 % 2 = 1 ↔ m.mailbox.busy = true) ∧ (m.mailbox.read 8 / 2 % 2 = 1 ↔ m.mailbox.result ≠ 0)) ∧
    (off = 0x10 → puts { m.mailbox with winbase := v.toNat / 2 ^ 36 % 2 ^ 21, winctx := v.toNat % 256 }) ∧
    (∀ n : Fin 29, off = 0x18 + 8 * n.val → m.mailbox.busy = false → puts { m.mailbox with args := m.mailbox.args.set n v }) ∧
    (∀ n, off = 0x100 + 8 * n → off < 0x1000 → puts { m.mailbox with data := m.mailbox.data.writeN (8 * n) (leBytes 8 v.toNat) }) ∧
    (off = 0 ∨ 0x18 ≤ off ∧ off < 0x100 → m.mailbox.busy = true → off % 8 = 0 → puts m.mailbox)) ∧
  (∀ (s : State) (x : PowerSample),
    let m := s.mgmt
    (∃ y, exec (.powerWindow x) s = .next { s with mgmt := y } ∧ y.cap = m.newCap.getD m.cap ∧ y.newCap = none ∧
      y.power = x.milliwatts ∧ (y.mhz ≠ m.mhz → y.clockFrom = s.now ∧ y.clockPs = s.picos) ∧ (1000 * m.cap < x.milliwatts → y.mhz = max 500 (m.mhz - 20) ∧ y.hold = true ∧
        y.capRequests = m.capRequests + 1) ∧
      (x.milliwatts ≤ 1000 * m.cap → y.hold = false ∧ y.capRequests = m.capRequests) ∧
      (950 * m.cap ≤ x.milliwatts → x.milliwatts ≤ 1000 * m.cap → y.mhz = m.mhz ∧ y.calmSince = none) ∧
      (∀ n, x.milliwatts < 950 * m.cap → m.calmSince = some n → n + 10 ≤ m.window + 1 → y.mhz = min 940 (m.mhz + 20))) ∧
    (x.milliwatts ≤ 1100 * m.cap → x.hottest ≤ 105000 → exec (.powerThermalEmergency x) s = .next s) ∧
    (1100 * m.cap < x.milliwatts ∨ 105000 < x.hottest → ∃ t, exec (.powerThermalEmergency x) s = .next t ∧
      (∀ p q, t.part? p = some q → q.halted = true) ∧ BlocksStop s t (fun _ k => (s.part? k.part).isSome = true) ∧
      Logged s t false 12 0xFF 0x7F 0x1F0)) ∧
  (∀ (s : State) (temps : List Nat), exec (.telemetryUpdate temps) s = .next { s with mgmt := { s.mgmt with
    telemetry := ([s.mgmt.power] ++ ((range 0 12).map fun d => temps.getD d 0) ++ [s.mgmt.mhz] ++ s.eccCounts ++ s.staleCounts ++
      [s.faults.length, s.mgmt.capRequests]).map (· % 2 ^ 64) } }) ∧
  (∀ (s : State) (good : Bool) (present : List Nat) (pkg : Nat),
    let x := if s.started then s.powerCycle else s
    (s.started = true → x.mem = [] ∧ x.parts = [] ∧ x.blocks = [] ∧ x.mgmt.firmware = s.mgmt.firmware) ∧
    exec (.powerOnBringup false present pkg) s = .next { x with started := true, recovery := true } ∧
    (good = true → ∃ t, exec (.powerOnBringup good present pkg) s = .next t ∧ t.started = true ∧
      t.pkg = pkg % 256 ∧ t.mem = x.mem ∧ t.recovery = x.recovery ∧ t.mgmt.images = [x.mgmt.firmware] ∧ (∀ i, i < 256 → Tab.get? t.podRoutes i = some (Config.podRoute i)) ∧
      (∀ site, site < 12 → site ∈ present → (t.die site).negotiating = true ∧ (t.die site).routes = some (fullRoutes site)) ∧
      (∀ site, site < 12 → site ∉ present → t.die site = { x.die site with fenced := true }) ∧
      (∀ site, 12 ≤ site → t.die site = x.die site) ∧ ∀ n, n < 16 → (t.port n).up = true)) ∧
  (∀ (s : State) (site : Nat) (record : BitVec 128) (failed : List Nat), site < 12 → (s.die site).negotiating = true →
    let bad := (range 0 (Config.cores site)).filter failed.contains
    (record = Config.genRecord site → 4 * bad.length ≤ Config.cores site →
      (∀ c, c < Config.cores site → (s.core (128 * site + c)).fenced = false) → ∃ t, exec (.joinNegotiation site record failed) s = .next t ∧
        t.die site = { (s.die site).emptied with negotiating := false, record := record, joined := true, fenced := false } ∧
        t.mem = s.mem ∧ (∀ c ∈ bad, (t.core (128 * site + c)).fenced = true) ∧
        ∀ c, c / 128 ≠ site ∨ c % 128 ∉ bad → t.core c = s.core c) ∧
    (record ≠ Config.genRecord site ∨ Config.cores site < 4 * bad.length →
      ∃ t cause, exec (.joinNegotiation site record failed) s = .next t ∧
        t.die site = { s.die site with negotiating := false, record := record, fenced := true } ∧ t.cores = s.cores ∧
        Logged s t true site 0xFF 0x7F cause))
end

