-- ==== Sys2Proof/Laws/Memory.lean ====
section
/-! SUPPORT. Laws of memory: every operation keeps the canonical form, and what a byte reads as after a write. -/

namespace Sys2Proof.Machine

theorem Memory.above_mono {lo lo' : Nat} (h : lo' ≤ lo) : ∀ {m : Memory}, Memory.above lo m = true → Memory.above lo' m = true
  | [], _ => rfl
  | (a, b) :: t, hm => by
    simp only [Memory.above, Bool.and_eq_true, decide_eq_true_eq] at hm ⊢
    exact ⟨⟨Nat.le_trans h hm.1.1, hm.1.2⟩, hm.2⟩

theorem Memory.above_write {k : Nat} {b : Byte} : ∀ {m : Memory} {lo : Nat}, Memory.above lo m = true → lo ≤ k →
    Memory.above lo (Memory.write m k b) = true
  | [], lo, _, hk => by
    simp only [Memory.write]
    split
    · rfl
    · next hb => simp [Memory.above, hk, hb]
  | (a, c) :: t, lo, hm, hk => by
    simp only [Memory.above, Bool.and_eq_true, decide_eq_true_eq, bne_iff_ne] at hm
    obtain ⟨⟨ha, hc⟩, ht⟩ := hm
    simp only [Memory.write]
    split
    · next hka =>
      split
      · simp [Memory.above, ha, hc, ht]
      · next hb => simp [Memory.above, hk, hb, hc, ht, Nat.succ_le_of_lt hka]
    · split
      · next hka =>
        subst hka
        split
        · exact Memory.above_mono (Nat.le_succ_of_le ha) ht
        · next hb => simp [Memory.above, hk, hb, ht]
      · next h1 h2 =>
        have : Memory.above (a + 1) (Memory.write t k b) = true := Memory.above_write ht (by omega)
        simp [Memory.above, ha, hc, this]

/-- A write keeps the canonical form. -/
theorem Memory.wf_write {m : Memory} (h : m.wf = true) (k : Nat) (b : Byte) : (m.write k b).wf = true :=
  Memory.above_write h (Nat.zero_le k)

theorem Memory.wf_writeN : ∀ (bs : List Byte) {m : Memory} (a : Nat), m.wf = true → (m.writeN a bs).wf = true
  | [], _, _, h => h
  | b :: bs, _, a, h => Memory.wf_writeN bs (a + 1) (Memory.wf_write h a b)

theorem Memory.wf_writeCells : ∀ (cs : List Host.Cell) {m : Memory}, m.wf = true → (m.writeCells cs).wf = true
  | [], _, h => h
  | (a, b) :: t, _, h => Memory.wf_writeCells t (Memory.wf_write h a b)

theorem Memory.wf_nil : Memory.wf [] = true := rfl

/-- Memory after power-on has the canonical form. -/
theorem Memory.wf_reset : State.reset.mem.wf = true := rfl

theorem Memory.read_above : ∀ {m : Memory} {lo k : Nat}, Memory.above lo m = true → k < lo → m.read k = Memory.unlisted
  | [], _, _, _, _ => rfl
  | (a, b) :: t, lo, k, h, hk => by
    simp only [Memory.above, Bool.and_eq_true, decide_eq_true_eq] at h
    have : ¬ a = k := by omega
    simp only [Memory.read, if_neg this]
    exact Memory.read_above h.2 (by omega)

theorem Memory.read_write_ne : ∀ (m : Memory) {k j : Nat} (b : Byte), j ≠ k → (m.write k b).read j = m.read j
  | [], k, j, b, h => by
    simp only [Memory.write]
    split
    · rfl
    · simp [Memory.read, Ne.symm h]
  | (a, c) :: t, k, j, b, h => by
    have h' : ¬ k = j := fun e => h e.symm
    simp only [Memory.write]
    split
    · split
      · rfl
      · simp [Memory.read, h']
    · split
      · next hka =>
        subst hka
        split <;> simp [Memory.read, h']
      · simp [Memory.read, Memory.read_write_ne t b h]

theorem Memory.read_write_above : ∀ {m : Memory} {lo k : Nat} (b : Byte), Memory.above lo m = true → lo ≤ k →
    (m.write k b).read k = b
  | [], lo, k, b, _, _ => by
    simp only [Memory.write]
    split
    · next h => simp [Memory.read, h]
    · simp [Memory.read]
  | (a, c) :: t, lo, k, b, h, hk => by
    simp only [Memory.above, Bool.and_eq_true, decide_eq_true_eq] at h
    simp only [Memory.write]
    split
    · next hka =>
      split
      · next hb =>
        have : ¬ a = k := by omega
        rw [Memory.read, if_neg this, hb]
        exact Memory.read_above h.2 (by omega)
      · simp [Memory.read]
    · split
      · next hka =>
        subst hka
        split
        · next hb => rw [hb]; exact Memory.read_above h.2 (by omega)
        · simp [Memory.read]
      · next h1 h2 =>
        have : ¬ a = k := fun e => h2 e.symm
        rw [Memory.read, if_neg this]
        exact Memory.read_write_above b h.2 (by omega)

/-- A byte written is the byte read. -/
theorem Memory.read_write_same {m : Memory} (h : m.wf = true) (k : Nat) (b : Byte) : (m.write k b).read k = b :=
  Memory.read_write_above b h (Nat.zero_le k)

theorem Memory.read_writeN_outside : ∀ (bs : List Byte) (m : Memory) {a j : Nat}, j < a ∨ a + bs.length ≤ j →
    (m.writeN a bs).read j = m.read j
  | [], _, _, _, _ => rfl
  | b :: bs, m, a, j, h => by
    rw [Memory.writeN, Memory.read_writeN_outside bs (m.write a b) (by simp only [List.length_cons] at h; omega)]
    exact Memory.read_write_ne m b (by simp only [List.length_cons] at h; omega)

theorem Memory.read_writeCells_outside : ∀ (cs : List Host.Cell) (m : Memory) {j : Nat}, (∀ c ∈ cs, c.1 ≠ j) →
    (m.writeCells cs).read j = m.read j
  | [], _, _, _ => rfl
  | (a, b) :: t, m, j, h => by
    rw [Memory.writeCells, Memory.read_writeCells_outside t (m.write a b) fun c hc => h c (List.mem_cons_of_mem _ hc)]
    exact Memory.read_write_ne m b (Ne.symm (h (a, b) List.mem_cons_self))

end Sys2Proof.Machine
end

