-- ==== Sys2Proof/Laws/State.lean ====
section
/-! SUPPORT. Every field of the state after each update of one table, so that no later proof unfolds a record update; the
shuttle whose instruction executes after an update. -/

namespace Sys2Proof.Machine

/-! ## updCore -/

@[simp] theorem State.updCore_agenda (s : State) (c : Nat) (f : Core → Core) : (s.updCore c f).agenda = s.agenda := rfl
@[simp] theorem State.updCore_cur (s : State) (c : Nat) (f : Core → Core) : (s.updCore c f).cur = s.cur := rfl
@[simp] theorem State.updCore_tick (s : State) (c : Nat) (f : Core → Core) : (s.updCore c f).tick = s.tick := rfl
@[simp] theorem State.updCore_now (s : State) (c : Nat) (f : Core → Core) : (s.updCore c f).now = s.now := rfl
@[simp] theorem State.updCore_nextId (s : State) (c : Nat) (f : Core → Core) : (s.updCore c f).nextId = s.nextId := rfl
@[simp] theorem State.updCore_started (s : State) (c : Nat) (f : Core → Core) : (s.updCore c f).started = s.started := rfl
@[simp] theorem State.updCore_recovery (s : State) (c : Nat) (f : Core → Core) : (s.updCore c f).recovery = s.recovery := rfl
@[simp] theorem State.updCore_pkg (s : State) (c : Nat) (f : Core → Core) : (s.updCore c f).pkg = s.pkg := rfl
@[simp] theorem State.updCore_shuttles (s : State) (c : Nat) (f : Core → Core) : (s.updCore c f).shuttles = s.shuttles := rfl
@[simp] theorem State.updCore_blocks (s : State) (c : Nat) (f : Core → Core) : (s.updCore c f).blocks = s.blocks := rfl
@[simp] theorem State.updCore_cores (s : State) (c : Nat) (f : Core → Core) : (s.updCore c f).cores = Tab.set s.cores c (f (s.core c)) := rfl
@[simp] theorem State.updCore_quads (s : State) (c : Nat) (f : Core → Core) : (s.updCore c f).quads = s.quads := rfl
@[simp] theorem State.updCore_dies (s : State) (c : Nat) (f : Core → Core) : (s.updCore c f).dies = s.dies := rfl
@[simp] theorem State.updCore_net (s : State) (c : Nat) (f : Core → Core) : (s.updCore c f).net = s.net := rfl
@[simp] theorem State.updCore_peers (s : State) (c : Nat) (f : Core → Core) : (s.updCore c f).peers = s.peers := rfl
@[simp] theorem State.updCore_mem (s : State) (c : Nat) (f : Core → Core) : (s.updCore c f).mem = s.mem := rfl
@[simp] theorem State.updCore_poison (s : State) (c : Nat) (f : Core → Core) : (s.updCore c f).poison = s.poison := rfl
@[simp] theorem State.updCore_bad (s : State) (c : Nat) (f : Core → Core) : (s.updCore c f).bad = s.bad := rfl
@[simp] theorem State.updCore_retired (s : State) (c : Nat) (f : Core → Core) : (s.updCore c f).retired = s.retired := rfl
@[simp] theorem State.updCore_posted (s : State) (c : Nat) (f : Core → Core) : (s.updCore c f).posted = s.posted := rfl
@[simp] theorem State.updCore_faults (s : State) (c : Nat) (f : Core → Core) : (s.updCore c f).faults = s.faults := rfl
@[simp] theorem State.updCore_invals (s : State) (c : Nat) (f : Core → Core) : (s.updCore c f).invals = s.invals := rfl
@[simp] theorem State.updCore_inv (s : State) (c : Nat) (f : Core → Core) : (s.updCore c f).inv = s.inv := rfl
@[simp] theorem State.updCore_past (s : State) (c : Nat) (f : Core → Core) : (s.updCore c f).past = s.past := rfl
@[simp] theorem State.updCore_older (s : State) (c : Nat) (f : Core → Core) : (s.updCore c f).older = s.older := rfl
@[simp] theorem State.updCore_code (s : State) (c : Nat) (f : Core → Core) : (s.updCore c f).code = s.code := rfl
@[simp] theorem State.updCore_trans (s : State) (c : Nat) (f : Core → Core) : (s.updCore c f).trans = s.trans := rfl
@[simp] theorem State.updCore_objs (s : State) (c : Nat) (f : Core → Core) : (s.updCore c f).objs = s.objs := rfl
@[simp] theorem State.updCore_launches (s : State) (c : Nat) (f : Core → Core) : (s.updCore c f).launches = s.launches := rfl
@[simp] theorem State.updCore_parts (s : State) (c : Nat) (f : Core → Core) : (s.updCore c f).parts = s.parts := rfl
@[simp] theorem State.updCore_hubs (s : State) (c : Nat) (f : Core → Core) : (s.updCore c f).hubs = s.hubs := rfl
@[simp] theorem State.updCore_ports (s : State) (c : Nat) (f : Core → Core) : (s.updCore c f).ports = s.ports := rfl
@[simp] theorem State.updCore_podRoutes (s : State) (c : Nat) (f : Core → Core) : (s.updCore c f).podRoutes = s.podRoutes := rfl
@[simp] theorem State.updCore_lostPkgs (s : State) (c : Nat) (f : Core → Core) : (s.updCore c f).lostPkgs = s.lostPkgs := rfl
@[simp] theorem State.updCore_compress (s : State) (c : Nat) (f : Core → Core) : (s.updCore c f).compress = s.compress := rfl
@[simp] theorem State.updCore_mgmt (s : State) (c : Nat) (f : Core → Core) : (s.updCore c f).mgmt = s.mgmt := rfl
@[simp] theorem State.updCore_acc_quad (s : State) (c : Nat) (f : Core → Core) (x : Nat) : (s.updCore c f).quad x = s.quad x := rfl
@[simp] theorem State.updCore_acc_die (s : State) (c : Nat) (f : Core → Core) (x : Nat) : (s.updCore c f).die x = s.die x := rfl
@[simp] theorem State.updCore_acc_hub (s : State) (c : Nat) (f : Core → Core) (x : Nat) : (s.updCore c f).hub x = s.hub x := rfl
@[simp] theorem State.updCore_acc_port (s : State) (c : Nat) (f : Core → Core) (x : Nat) : (s.updCore c f).port x = s.port x := rfl
@[simp] theorem State.updCore_acc_sh (s : State) (c : Nat) (f : Core → Core) (x : Nat) : (s.updCore c f).sh? x = s.sh? x := rfl
@[simp] theorem State.updCore_acc_blk (s : State) (c : Nat) (f : Core → Core) (x : Nat) : (s.updCore c f).blk? x = s.blk? x := rfl
@[simp] theorem State.updCore_acc_part (s : State) (c : Nat) (f : Core → Core) (x : Nat) : (s.updCore c f).part? x = s.part? x := rfl
@[simp] theorem State.updCore_acc_launch (s : State) (c : Nat) (f : Core → Core) (x : Nat) : (s.updCore c f).launch? x = s.launch? x := rfl

/-! ## updQuad -/

@[simp] theorem State.updQuad_agenda (s : State) (q : Nat) (f : Quad → Quad) : (s.updQuad q f).agenda = s.agenda := rfl
@[simp] theorem State.updQuad_cur (s : State) (q : Nat) (f : Quad → Quad) : (s.updQuad q f).cur = s.cur := rfl
@[simp] theorem State.updQuad_tick (s : State) (q : Nat) (f : Quad → Quad) : (s.updQuad q f).tick = s.tick := rfl
@[simp] theorem State.updQuad_now (s : State) (q : Nat) (f : Quad → Quad) : (s.updQuad q f).now = s.now := rfl
@[simp] theorem State.updQuad_nextId (s : State) (q : Nat) (f : Quad → Quad) : (s.updQuad q f).nextId = s.nextId := rfl
@[simp] theorem State.updQuad_started (s : State) (q : Nat) (f : Quad → Quad) : (s.updQuad q f).started = s.started := rfl
@[simp] theorem State.updQuad_recovery (s : State) (q : Nat) (f : Quad → Quad) : (s.updQuad q f).recovery = s.recovery := rfl
@[simp] theorem State.updQuad_pkg (s : State) (q : Nat) (f : Quad → Quad) : (s.updQuad q f).pkg = s.pkg := rfl
@[simp] theorem State.updQuad_shuttles (s : State) (q : Nat) (f : Quad → Quad) : (s.updQuad q f).shuttles = s.shuttles := rfl
@[simp] theorem State.updQuad_blocks (s : State) (q : Nat) (f : Quad → Quad) : (s.updQuad q f).blocks = s.blocks := rfl
@[simp] theorem State.updQuad_cores (s : State) (q : Nat) (f : Quad → Quad) : (s.updQuad q f).cores = s.cores := rfl
@[simp] theorem State.updQuad_quads (s : State) (q : Nat) (f : Quad → Quad) : (s.updQuad q f).quads = Tab.set s.quads q (f (s.quad q)) := rfl
@[simp] theorem State.updQuad_dies (s : State) (q : Nat) (f : Quad → Quad) : (s.updQuad q f).dies = s.dies := rfl
@[simp] theorem State.updQuad_net (s : State) (q : Nat) (f : Quad → Quad) : (s.updQuad q f).net = s.net := rfl
@[simp] theorem State.updQuad_peers (s : State) (q : Nat) (f : Quad → Quad) : (s.updQuad q f).peers = s.peers := rfl
@[simp] theorem State.updQuad_mem (s : State) (q : Nat) (f : Quad → Quad) : (s.updQuad q f).mem = s.mem := rfl
@[simp] theorem State.updQuad_poison (s : State) (q : Nat) (f : Quad → Quad) : (s.updQuad q f).poison = s.poison := rfl
@[simp] theorem State.updQuad_bad (s : State) (q : Nat) (f : Quad → Quad) : (s.updQuad q f).bad = s.bad := rfl
@[simp] theorem State.updQuad_retired (s : State) (q : Nat) (f : Quad → Quad) : (s.updQuad q f).retired = s.retired := rfl
@[simp] theorem State.updQuad_posted (s : State) (q : Nat) (f : Quad → Quad) : (s.updQuad q f).posted = s.posted := rfl
@[simp] theorem State.updQuad_faults (s : State) (q : Nat) (f : Quad → Quad) : (s.updQuad q f).faults = s.faults := rfl
@[simp] theorem State.updQuad_invals (s : State) (q : Nat) (f : Quad → Quad) : (s.updQuad q f).invals = s.invals := rfl
@[simp] theorem State.updQuad_inv (s : State) (q : Nat) (f : Quad → Quad) : (s.updQuad q f).inv = s.inv := rfl
@[simp] theorem State.updQuad_past (s : State) (q : Nat) (f : Quad → Quad) : (s.updQuad q f).past = s.past := rfl
@[simp] theorem State.updQuad_older (s : State) (q : Nat) (f : Quad → Quad) : (s.updQuad q f).older = s.older := rfl
@[simp] theorem State.updQuad_code (s : State) (q : Nat) (f : Quad → Quad) : (s.updQuad q f).code = s.code := rfl
@[simp] theorem State.updQuad_trans (s : State) (q : Nat) (f : Quad → Quad) : (s.updQuad q f).trans = s.trans := rfl
@[simp] theorem State.updQuad_objs (s : State) (q : Nat) (f : Quad → Quad) : (s.updQuad q f).objs = s.objs := rfl
@[simp] theorem State.updQuad_launches (s : State) (q : Nat) (f : Quad → Quad) : (s.updQuad q f).launches = s.launches := rfl
@[simp] theorem State.updQuad_parts (s : State) (q : Nat) (f : Quad → Quad) : (s.updQuad q f).parts = s.parts := rfl
@[simp] theorem State.updQuad_hubs (s : State) (q : Nat) (f : Quad → Quad) : (s.updQuad q f).hubs = s.hubs := rfl
@[simp] theorem State.updQuad_ports (s : State) (q : Nat) (f : Quad → Quad) : (s.updQuad q f).ports = s.ports := rfl
@[simp] theorem State.updQuad_podRoutes (s : State) (q : Nat) (f : Quad → Quad) : (s.updQuad q f).podRoutes = s.podRoutes := rfl
@[simp] theorem State.updQuad_lostPkgs (s : State) (q : Nat) (f : Quad → Quad) : (s.updQuad q f).lostPkgs = s.lostPkgs := rfl
@[simp] theorem State.updQuad_compress (s : State) (q : Nat) (f : Quad → Quad) : (s.updQuad q f).compress = s.compress := rfl
@[simp] theorem State.updQuad_mgmt (s : State) (q : Nat) (f : Quad → Quad) : (s.updQuad q f).mgmt = s.mgmt := rfl
@[simp] theorem State.updQuad_acc_core (s : State) (q : Nat) (f : Quad → Quad) (x : Nat) : (s.updQuad q f).core x = s.core x := rfl
@[simp] theorem State.updQuad_acc_die (s : State) (q : Nat) (f : Quad → Quad) (x : Nat) : (s.updQuad q f).die x = s.die x := rfl
@[simp] theorem State.updQuad_acc_hub (s : State) (q : Nat) (f : Quad → Quad) (x : Nat) : (s.updQuad q f).hub x = s.hub x := rfl
@[simp] theorem State.updQuad_acc_port (s : State) (q : Nat) (f : Quad → Quad) (x : Nat) : (s.updQuad q f).port x = s.port x := rfl
@[simp] theorem State.updQuad_acc_sh (s : State) (q : Nat) (f : Quad → Quad) (x : Nat) : (s.updQuad q f).sh? x = s.sh? x := rfl
@[simp] theorem State.updQuad_acc_blk (s : State) (q : Nat) (f : Quad → Quad) (x : Nat) : (s.updQuad q f).blk? x = s.blk? x := rfl
@[simp] theorem State.updQuad_acc_part (s : State) (q : Nat) (f : Quad → Quad) (x : Nat) : (s.updQuad q f).part? x = s.part? x := rfl
@[simp] theorem State.updQuad_acc_launch (s : State) (q : Nat) (f : Quad → Quad) (x : Nat) : (s.updQuad q f).launch? x = s.launch? x := rfl

/-! ## updDie -/

@[simp] theorem State.updDie_agenda (s : State) (d : Nat) (f : Die → Die) : (s.updDie d f).agenda = s.agenda := rfl
@[simp] theorem State.updDie_cur (s : State) (d : Nat) (f : Die → Die) : (s.updDie d f).cur = s.cur := rfl
@[simp] theorem State.updDie_tick (s : State) (d : Nat) (f : Die → Die) : (s.updDie d f).tick = s.tick := rfl
@[simp] theorem State.updDie_now (s : State) (d : Nat) (f : Die → Die) : (s.updDie d f).now = s.now := rfl
@[simp] theorem State.updDie_nextId (s : State) (d : Nat) (f : Die → Die) : (s.updDie d f).nextId = s.nextId := rfl
@[simp] theorem State.updDie_started (s : State) (d : Nat) (f : Die → Die) : (s.updDie d f).started = s.started := rfl
@[simp] theorem State.updDie_recovery (s : State) (d : Nat) (f : Die → Die) : (s.updDie d f).recovery = s.recovery := rfl
@[simp] theorem State.updDie_pkg (s : State) (d : Nat) (f : Die → Die) : (s.updDie d f).pkg = s.pkg := rfl
@[simp] theorem State.updDie_shuttles (s : State) (d : Nat) (f : Die → Die) : (s.updDie d f).shuttles = s.shuttles := rfl
@[simp] theorem State.updDie_blocks (s : State) (d : Nat) (f : Die → Die) : (s.updDie d f).blocks = s.blocks := rfl
@[simp] theorem State.updDie_cores (s : State) (d : Nat) (f : Die → Die) : (s.updDie d f).cores = s.cores := rfl
@[simp] theorem State.updDie_quads (s : State) (d : Nat) (f : Die → Die) : (s.updDie d f).quads = s.quads := rfl
@[simp] theorem State.updDie_dies (s : State) (d : Nat) (f : Die → Die) : (s.updDie d f).dies = Tab.set s.dies d (f (s.die d)) := rfl
@[simp] theorem State.updDie_net (s : State) (d : Nat) (f : Die → Die) : (s.updDie d f).net = s.net := rfl
@[simp] theorem State.updDie_peers (s : State) (d : Nat) (f : Die → Die) : (s.updDie d f).peers = s.peers := rfl
@[simp] theorem State.updDie_mem (s : State) (d : Nat) (f : Die → Die) : (s.updDie d f).mem = s.mem := rfl
@[simp] theorem State.updDie_poison (s : State) (d : Nat) (f : Die → Die) : (s.updDie d f).poison = s.poison := rfl
@[simp] theorem State.updDie_bad (s : State) (d : Nat) (f : Die → Die) : (s.updDie d f).bad = s.bad := rfl
@[simp] theorem State.updDie_retired (s : State) (d : Nat) (f : Die → Die) : (s.updDie d f).retired = s.retired := rfl
@[simp] theorem State.updDie_posted (s : State) (d : Nat) (f : Die → Die) : (s.updDie d f).posted = s.posted := rfl
@[simp] theorem State.updDie_faults (s : State) (d : Nat) (f : Die → Die) : (s.updDie d f).faults = s.faults := rfl
@[simp] theorem State.updDie_invals (s : State) (d : Nat) (f : Die → Die) : (s.updDie d f).invals = s.invals := rfl
@[simp] theorem State.updDie_inv (s : State) (d : Nat) (f : Die → Die) : (s.updDie d f).inv = s.inv := rfl
@[simp] theorem State.updDie_past (s : State) (d : Nat) (f : Die → Die) : (s.updDie d f).past = s.past := rfl
@[simp] theorem State.updDie_older (s : State) (d : Nat) (f : Die → Die) : (s.updDie d f).older = s.older := rfl
@[simp] theorem State.updDie_code (s : State) (d : Nat) (f : Die → Die) : (s.updDie d f).code = s.code := rfl
@[simp] theorem State.updDie_trans (s : State) (d : Nat) (f : Die → Die) : (s.updDie d f).trans = s.trans := rfl
@[simp] theorem State.updDie_objs (s : State) (d : Nat) (f : Die → Die) : (s.updDie d f).objs = s.objs := rfl
@[simp] theorem State.updDie_launches (s : State) (d : Nat) (f : Die → Die) : (s.updDie d f).launches = s.launches := rfl
@[simp] theorem State.updDie_parts (s : State) (d : Nat) (f : Die → Die) : (s.updDie d f).parts = s.parts := rfl
@[simp] theorem State.updDie_hubs (s : State) (d : Nat) (f : Die → Die) : (s.updDie d f).hubs = s.hubs := rfl
@[simp] theorem State.updDie_ports (s : State) (d : Nat) (f : Die → Die) : (s.updDie d f).ports = s.ports := rfl
@[simp] theorem State.updDie_podRoutes (s : State) (d : Nat) (f : Die → Die) : (s.updDie d f).podRoutes = s.podRoutes := rfl
@[simp] theorem State.updDie_lostPkgs (s : State) (d : Nat) (f : Die → Die) : (s.updDie d f).lostPkgs = s.lostPkgs := rfl
@[simp] theorem State.updDie_compress (s : State) (d : Nat) (f : Die → Die) : (s.updDie d f).compress = s.compress := rfl
@[simp] theorem State.updDie_mgmt (s : State) (d : Nat) (f : Die → Die) : (s.updDie d f).mgmt = s.mgmt := rfl
@[simp] theorem State.updDie_acc_core (s : State) (d : Nat) (f : Die → Die) (x : Nat) : (s.updDie d f).core x = s.core x := rfl
@[simp] theorem State.updDie_acc_quad (s : State) (d : Nat) (f : Die → Die) (x : Nat) : (s.updDie d f).quad x = s.quad x := rfl
@[simp] theorem State.updDie_acc_hub (s : State) (d : Nat) (f : Die → Die) (x : Nat) : (s.updDie d f).hub x = s.hub x := rfl
@[simp] theorem State.updDie_acc_port (s : State) (d : Nat) (f : Die → Die) (x : Nat) : (s.updDie d f).port x = s.port x := rfl
@[simp] theorem State.updDie_acc_sh (s : State) (d : Nat) (f : Die → Die) (x : Nat) : (s.updDie d f).sh? x = s.sh? x := rfl
@[simp] theorem State.updDie_acc_blk (s : State) (d : Nat) (f : Die → Die) (x : Nat) : (s.updDie d f).blk? x = s.blk? x := rfl
@[simp] theorem State.updDie_acc_part (s : State) (d : Nat) (f : Die → Die) (x : Nat) : (s.updDie d f).part? x = s.part? x := rfl
@[simp] theorem State.updDie_acc_launch (s : State) (d : Nat) (f : Die → Die) (x : Nat) : (s.updDie d f).launch? x = s.launch? x := rfl

/-! ## updHub -/

@[simp] theorem State.updHub_agenda (s : State) (n : Nat) (f : Hub → Hub) : (s.updHub n f).agenda = s.agenda := rfl
@[simp] theorem State.updHub_cur (s : State) (n : Nat) (f : Hub → Hub) : (s.updHub n f).cur = s.cur := rfl
@[simp] theorem State.updHub_tick (s : State) (n : Nat) (f : Hub → Hub) : (s.updHub n f).tick = s.tick := rfl
@[simp] theorem State.updHub_now (s : State) (n : Nat) (f : Hub → Hub) : (s.updHub n f).now = s.now := rfl
@[simp] theorem State.updHub_nextId (s : State) (n : Nat) (f : Hub → Hub) : (s.updHub n f).nextId = s.nextId := rfl
@[simp] theorem State.updHub_started (s : State) (n : Nat) (f : Hub → Hub) : (s.updHub n f).started = s.started := rfl
@[simp] theorem State.updHub_recovery (s : State) (n : Nat) (f : Hub → Hub) : (s.updHub n f).recovery = s.recovery := rfl
@[simp] theorem State.updHub_pkg (s : State) (n : Nat) (f : Hub → Hub) : (s.updHub n f).pkg = s.pkg := rfl
@[simp] theorem State.updHub_shuttles (s : State) (n : Nat) (f : Hub → Hub) : (s.updHub n f).shuttles = s.shuttles := rfl
@[simp] theorem State.updHub_blocks (s : State) (n : Nat) (f : Hub → Hub) : (s.updHub n f).blocks = s.blocks := rfl
@[simp] theorem State.updHub_cores (s : State) (n : Nat) (f : Hub → Hub) : (s.updHub n f).cores = s.cores := rfl
@[simp] theorem State.updHub_quads (s : State) (n : Nat) (f : Hub → Hub) : (s.updHub n f).quads = s.quads := rfl
@[simp] theorem State.updHub_dies (s : State) (n : Nat) (f : Hub → Hub) : (s.updHub n f).dies = s.dies := rfl
@[simp] theorem State.updHub_net (s : State) (n : Nat) (f : Hub → Hub) : (s.updHub n f).net = s.net := rfl
@[simp] theorem State.updHub_peers (s : State) (n : Nat) (f : Hub → Hub) : (s.updHub n f).peers = s.peers := rfl
@[simp] theorem State.updHub_mem (s : State) (n : Nat) (f : Hub → Hub) : (s.updHub n f).mem = s.mem := rfl
@[simp] theorem State.updHub_poison (s : State) (n : Nat) (f : Hub → Hub) : (s.updHub n f).poison = s.poison := rfl
@[simp] theorem State.updHub_bad (s : State) (n : Nat) (f : Hub → Hub) : (s.updHub n f).bad = s.bad := rfl
@[simp] theorem State.updHub_retired (s : State) (n : Nat) (f : Hub → Hub) : (s.updHub n f).retired = s.retired := rfl
@[simp] theorem State.updHub_posted (s : State) (n : Nat) (f : Hub → Hub) : (s.updHub n f).posted = s.posted := rfl
@[simp] theorem State.updHub_faults (s : State) (n : Nat) (f : Hub → Hub) : (s.updHub n f).faults = s.faults := rfl
@[simp] theorem State.updHub_invals (s : State) (n : Nat) (f : Hub → Hub) : (s.updHub n f).invals = s.invals := rfl
@[simp] theorem State.updHub_inv (s : State) (n : Nat) (f : Hub → Hub) : (s.updHub n f).inv = s.inv := rfl
@[simp] theorem State.updHub_past (s : State) (n : Nat) (f : Hub → Hub) : (s.updHub n f).past = s.past := rfl
@[simp] theorem State.updHub_older (s : State) (n : Nat) (f : Hub → Hub) : (s.updHub n f).older = s.older := rfl
@[simp] theorem State.updHub_code (s : State) (n : Nat) (f : Hub → Hub) : (s.updHub n f).code = s.code := rfl
@[simp] theorem State.updHub_trans (s : State) (n : Nat) (f : Hub → Hub) : (s.updHub n f).trans = s.trans := rfl
@[simp] theorem State.updHub_objs (s : State) (n : Nat) (f : Hub → Hub) : (s.updHub n f).objs = s.objs := rfl
@[simp] theorem State.updHub_launches (s : State) (n : Nat) (f : Hub → Hub) : (s.updHub n f).launches = s.launches := rfl
@[simp] theorem State.updHub_parts (s : State) (n : Nat) (f : Hub → Hub) : (s.updHub n f).parts = s.parts := rfl
@[simp] theorem State.updHub_hubs (s : State) (n : Nat) (f : Hub → Hub) : (s.updHub n f).hubs = Tab.set s.hubs n (f (s.hub n)) := rfl
@[simp] theorem State.updHub_ports (s : State) (n : Nat) (f : Hub → Hub) : (s.updHub n f).ports = s.ports := rfl
@[simp] theorem State.updHub_podRoutes (s : State) (n : Nat) (f : Hub → Hub) : (s.updHub n f).podRoutes = s.podRoutes := rfl
@[simp] theorem State.updHub_lostPkgs (s : State) (n : Nat) (f : Hub → Hub) : (s.updHub n f).lostPkgs = s.lostPkgs := rfl
@[simp] theorem State.updHub_compress (s : State) (n : Nat) (f : Hub → Hub) : (s.updHub n f).compress = s.compress := rfl
@[simp] theorem State.updHub_mgmt (s : State) (n : Nat) (f : Hub → Hub) : (s.updHub n f).mgmt = s.mgmt := rfl
@[simp] theorem State.updHub_acc_core (s : State) (n : Nat) (f : Hub → Hub) (x : Nat) : (s.updHub n f).core x = s.core x := rfl
@[simp] theorem State.updHub_acc_quad (s : State) (n : Nat) (f : Hub → Hub) (x : Nat) : (s.updHub n f).quad x = s.quad x := rfl
@[simp] theorem State.updHub_acc_die (s : State) (n : Nat) (f : Hub → Hub) (x : Nat) : (s.updHub n f).die x = s.die x := rfl
@[simp] theorem State.updHub_acc_port (s : State) (n : Nat) (f : Hub → Hub) (x : Nat) : (s.updHub n f).port x = s.port x := rfl
@[simp] theorem State.updHub_acc_sh (s : State) (n : Nat) (f : Hub → Hub) (x : Nat) : (s.updHub n f).sh? x = s.sh? x := rfl
@[simp] theorem State.updHub_acc_blk (s : State) (n : Nat) (f : Hub → Hub) (x : Nat) : (s.updHub n f).blk? x = s.blk? x := rfl
@[simp] theorem State.updHub_acc_part (s : State) (n : Nat) (f : Hub → Hub) (x : Nat) : (s.updHub n f).part? x = s.part? x := rfl
@[simp] theorem State.updHub_acc_launch (s : State) (n : Nat) (f : Hub → Hub) (x : Nat) : (s.updHub n f).launch? x = s.launch? x := rfl

/-! ## updPort -/

@[simp] theorem State.updPort_agenda (s : State) (p : Nat) (f : Port → Port) : (s.updPort p f).agenda = s.agenda := rfl
@[simp] theorem State.updPort_cur (s : State) (p : Nat) (f : Port → Port) : (s.updPort p f).cur = s.cur := rfl
@[simp] theorem State.updPort_tick (s : State) (p : Nat) (f : Port → Port) : (s.updPort p f).tick = s.tick := rfl
@[simp] theorem State.updPort_now (s : State) (p : Nat) (f : Port → Port) : (s.updPort p f).now = s.now := rfl
@[simp] theorem State.updPort_nextId (s : State) (p : Nat) (f : Port → Port) : (s.updPort p f).nextId = s.nextId := rfl
@[simp] theorem State.updPort_started (s : State) (p : Nat) (f : Port → Port) : (s.updPort p f).started = s.started := rfl
@[simp] theorem State.updPort_recovery (s : State) (p : Nat) (f : Port → Port) : (s.updPort p f).recovery = s.recovery := rfl
@[simp] theorem State.updPort_pkg (s : State) (p : Nat) (f : Port → Port) : (s.updPort p f).pkg = s.pkg := rfl
@[simp] theorem State.updPort_shuttles (s : State) (p : Nat) (f : Port → Port) : (s.updPort p f).shuttles = s.shuttles := rfl
@[simp] theorem State.updPort_blocks (s : State) (p : Nat) (f : Port → Port) : (s.updPort p f).blocks = s.blocks := rfl
@[simp] theorem State.updPort_cores (s : State) (p : Nat) (f : Port → Port) : (s.updPort p f).cores = s.cores := rfl
@[simp] theorem State.updPort_quads (s : State) (p : Nat) (f : Port → Port) : (s.updPort p f).quads = s.quads := rfl
@[simp] theorem State.updPort_dies (s : State) (p : Nat) (f : Port → Port) : (s.updPort p f).dies = s.dies := rfl
@[simp] theorem State.updPort_net (s : State) (p : Nat) (f : Port → Port) : (s.updPort p f).net = s.net := rfl
@[simp] theorem State.updPort_peers (s : State) (p : Nat) (f : Port → Port) : (s.updPort p f).peers = s.peers := rfl
@[simp] theorem State.updPort_mem (s : State) (p : Nat) (f : Port → Port) : (s.updPort p f).mem = s.mem := rfl
@[simp] theorem State.updPort_poison (s : State) (p : Nat) (f : Port → Port) : (s.updPort p f).poison = s.poison := rfl
@[simp] theorem State.updPort_bad (s : State) (p : Nat) (f : Port → Port) : (s.updPort p f).bad = s.bad := rfl
@[simp] theorem State.updPort_retired (s : State) (p : Nat) (f : Port → Port) : (s.updPort p f).retired = s.retired := rfl
@[simp] theorem State.updPort_posted (s : State) (p : Nat) (f : Port → Port) : (s.updPort p f).posted = s.posted := rfl
@[simp] theorem State.updPort_faults (s : State) (p : Nat) (f : Port → Port) : (s.updPort p f).faults = s.faults := rfl
@[simp] theorem State.updPort_invals (s : State) (p : Nat) (f : Port → Port) : (s.updPort p f).invals = s.invals := rfl
@[simp] theorem State.updPort_inv (s : State) (p : Nat) (f : Port → Port) : (s.updPort p f).inv = s.inv := rfl
@[simp] theorem State.updPort_past (s : State) (p : Nat) (f : Port → Port) : (s.updPort p f).past = s.past := rfl
@[simp] theorem State.updPort_older (s : State) (p : Nat) (f : Port → Port) : (s.updPort p f).older = s.older := rfl
@[simp] theorem State.updPort_code (s : State) (p : Nat) (f : Port → Port) : (s.updPort p f).code = s.code := rfl
@[simp] theorem State.updPort_trans (s : State) (p : Nat) (f : Port → Port) : (s.updPort p f).trans = s.trans := rfl
@[simp] theorem State.updPort_objs (s : State) (p : Nat) (f : Port → Port) : (s.updPort p f).objs = s.objs := rfl
@[simp] theorem State.updPort_launches (s : State) (p : Nat) (f : Port → Port) : (s.updPort p f).launches = s.launches := rfl
@[simp] theorem State.updPort_parts (s : State) (p : Nat) (f : Port → Port) : (s.updPort p f).parts = s.parts := rfl
@[simp] theorem State.updPort_hubs (s : State) (p : Nat) (f : Port → Port) : (s.updPort p f).hubs = s.hubs := rfl
@[simp] theorem State.updPort_ports (s : State) (p : Nat) (f : Port → Port) : (s.updPort p f).ports = Tab.set s.ports p (f (s.port p)) := rfl
@[simp] theorem State.updPort_podRoutes (s : State) (p : Nat) (f : Port → Port) : (s.updPort p f).podRoutes = s.podRoutes := rfl
@[simp] theorem State.updPort_lostPkgs (s : State) (p : Nat) (f : Port → Port) : (s.updPort p f).lostPkgs = s.lostPkgs := rfl
@[simp] theorem State.updPort_compress (s : State) (p : Nat) (f : Port → Port) : (s.updPort p f).compress = s.compress := rfl
@[simp] theorem State.updPort_mgmt (s : State) (p : Nat) (f : Port → Port) : (s.updPort p f).mgmt = s.mgmt := rfl
@[simp] theorem State.updPort_acc_core (s : State) (p : Nat) (f : Port → Port) (x : Nat) : (s.updPort p f).core x = s.core x := rfl
@[simp] theorem State.updPort_acc_quad (s : State) (p : Nat) (f : Port → Port) (x : Nat) : (s.updPort p f).quad x = s.quad x := rfl
@[simp] theorem State.updPort_acc_die (s : State) (p : Nat) (f : Port → Port) (x : Nat) : (s.updPort p f).die x = s.die x := rfl
@[simp] theorem State.updPort_acc_hub (s : State) (p : Nat) (f : Port → Port) (x : Nat) : (s.updPort p f).hub x = s.hub x := rfl
@[simp] theorem State.updPort_acc_sh (s : State) (p : Nat) (f : Port → Port) (x : Nat) : (s.updPort p f).sh? x = s.sh? x := rfl
@[simp] theorem State.updPort_acc_blk (s : State) (p : Nat) (f : Port → Port) (x : Nat) : (s.updPort p f).blk? x = s.blk? x := rfl
@[simp] theorem State.updPort_acc_part (s : State) (p : Nat) (f : Port → Port) (x : Nat) : (s.updPort p f).part? x = s.part? x := rfl
@[simp] theorem State.updPort_acc_launch (s : State) (p : Nat) (f : Port → Port) (x : Nat) : (s.updPort p f).launch? x = s.launch? x := rfl

/-! ## updSh -/

@[simp] theorem State.updSh_agenda (s : State) (h : Nat) (f : Shuttle → Shuttle) : (s.updSh h f).agenda = s.agenda := rfl
@[simp] theorem State.updSh_cur (s : State) (h : Nat) (f : Shuttle → Shuttle) : (s.updSh h f).cur = s.cur := rfl
@[simp] theorem State.updSh_tick (s : State) (h : Nat) (f : Shuttle → Shuttle) : (s.updSh h f).tick = s.tick := rfl
@[simp] theorem State.updSh_now (s : State) (h : Nat) (f : Shuttle → Shuttle) : (s.updSh h f).now = s.now := rfl
@[simp] theorem State.updSh_nextId (s : State) (h : Nat) (f : Shuttle → Shuttle) : (s.updSh h f).nextId = s.nextId := rfl
@[simp] theorem State.updSh_started (s : State) (h : Nat) (f : Shuttle → Shuttle) : (s.updSh h f).started = s.started := rfl
@[simp] theorem State.updSh_recovery (s : State) (h : Nat) (f : Shuttle → Shuttle) : (s.updSh h f).recovery = s.recovery := rfl
@[simp] theorem State.updSh_pkg (s : State) (h : Nat) (f : Shuttle → Shuttle) : (s.updSh h f).pkg = s.pkg := rfl
@[simp] theorem State.updSh_shuttles (s : State) (h : Nat) (f : Shuttle → Shuttle) : (s.updSh h f).shuttles = Tab.upd s.shuttles h f := rfl
@[simp] theorem State.updSh_blocks (s : State) (h : Nat) (f : Shuttle → Shuttle) : (s.updSh h f).blocks = s.blocks := rfl
@[simp] theorem State.updSh_cores (s : State) (h : Nat) (f : Shuttle → Shuttle) : (s.updSh h f).cores = s.cores := rfl
@[simp] theorem State.updSh_quads (s : State) (h : Nat) (f : Shuttle → Shuttle) : (s.updSh h f).quads = s.quads := rfl
@[simp] theorem State.updSh_dies (s : State) (h : Nat) (f : Shuttle → Shuttle) : (s.updSh h f).dies = s.dies := rfl
@[simp] theorem State.updSh_net (s : State) (h : Nat) (f : Shuttle → Shuttle) : (s.updSh h f).net = s.net := rfl
@[simp] theorem State.updSh_peers (s : State) (h : Nat) (f : Shuttle → Shuttle) : (s.updSh h f).peers = s.peers := rfl
@[simp] theorem State.updSh_mem (s : State) (h : Nat) (f : Shuttle → Shuttle) : (s.updSh h f).mem = s.mem := rfl
@[simp] theorem State.updSh_poison (s : State) (h : Nat) (f : Shuttle → Shuttle) : (s.updSh h f).poison = s.poison := rfl
@[simp] theorem State.updSh_bad (s : State) (h : Nat) (f : Shuttle → Shuttle) : (s.updSh h f).bad = s.bad := rfl
@[simp] theorem State.updSh_retired (s : State) (h : Nat) (f : Shuttle → Shuttle) : (s.updSh h f).retired = s.retired := rfl
@[simp] theorem State.updSh_posted (s : State) (h : Nat) (f : Shuttle → Shuttle) : (s.updSh h f).posted = s.posted := rfl
@[simp] theorem State.updSh_faults (s : State) (h : Nat) (f : Shuttle → Shuttle) : (s.updSh h f).faults = s.faults := rfl
@[simp] theorem State.updSh_invals (s : State) (h : Nat) (f : Shuttle → Shuttle) : (s.updSh h f).invals = s.invals := rfl
@[simp] theorem State.updSh_inv (s : State) (h : Nat) (f : Shuttle → Shuttle) : (s.updSh h f).inv = s.inv := rfl
@[simp] theorem State.updSh_past (s : State) (h : Nat) (f : Shuttle → Shuttle) : (s.updSh h f).past = s.past := rfl
@[simp] theorem State.updSh_older (s : State) (h : Nat) (f : Shuttle → Shuttle) : (s.updSh h f).older = s.older := rfl
@[simp] theorem State.updSh_code (s : State) (h : Nat) (f : Shuttle → Shuttle) : (s.updSh h f).code = s.code := rfl
@[simp] theorem State.updSh_trans (s : State) (h : Nat) (f : Shuttle → Shuttle) : (s.updSh h f).trans = s.trans := rfl
@[simp] theorem State.updSh_objs (s : State) (h : Nat) (f : Shuttle → Shuttle) : (s.updSh h f).objs = s.objs := rfl
@[simp] theorem State.updSh_launches (s : State) (h : Nat) (f : Shuttle → Shuttle) : (s.updSh h f).launches = s.launches := rfl
@[simp] theorem State.updSh_parts (s : State) (h : Nat) (f : Shuttle → Shuttle) : (s.updSh h f).parts = s.parts := rfl
@[simp] theorem State.updSh_hubs (s : State) (h : Nat) (f : Shuttle → Shuttle) : (s.updSh h f).hubs = s.hubs := rfl
@[simp] theorem State.updSh_ports (s : State) (h : Nat) (f : Shuttle → Shuttle) : (s.updSh h f).ports = s.ports := rfl
@[simp] theorem State.updSh_podRoutes (s : State) (h : Nat) (f : Shuttle → Shuttle) : (s.updSh h f).podRoutes = s.podRoutes := rfl
@[simp] theorem State.updSh_lostPkgs (s : State) (h : Nat) (f : Shuttle → Shuttle) : (s.updSh h f).lostPkgs = s.lostPkgs := rfl
@[simp] theorem State.updSh_compress (s : State) (h : Nat) (f : Shuttle → Shuttle) : (s.updSh h f).compress = s.compress := rfl
@[simp] theorem State.updSh_mgmt (s : State) (h : Nat) (f : Shuttle → Shuttle) : (s.updSh h f).mgmt = s.mgmt := rfl
@[simp] theorem State.updSh_acc_core (s : State) (h : Nat) (f : Shuttle → Shuttle) (x : Nat) : (s.updSh h f).core x = s.core x := rfl
@[simp] theorem State.updSh_acc_quad (s : State) (h : Nat) (f : Shuttle → Shuttle) (x : Nat) : (s.updSh h f).quad x = s.quad x := rfl
@[simp] theorem State.updSh_acc_die (s : State) (h : Nat) (f : Shuttle → Shuttle) (x : Nat) : (s.updSh h f).die x = s.die x := rfl
@[simp] theorem State.updSh_acc_hub (s : State) (h : Nat) (f : Shuttle → Shuttle) (x : Nat) : (s.updSh h f).hub x = s.hub x := rfl
@[simp] theorem State.updSh_acc_port (s : State) (h : Nat) (f : Shuttle → Shuttle) (x : Nat) : (s.updSh h f).port x = s.port x := rfl
@[simp] theorem State.updSh_acc_blk (s : State) (h : Nat) (f : Shuttle → Shuttle) (x : Nat) : (s.updSh h f).blk? x = s.blk? x := rfl
@[simp] theorem State.updSh_acc_part (s : State) (h : Nat) (f : Shuttle → Shuttle) (x : Nat) : (s.updSh h f).part? x = s.part? x := rfl
@[simp] theorem State.updSh_acc_launch (s : State) (h : Nat) (f : Shuttle → Shuttle) (x : Nat) : (s.updSh h f).launch? x = s.launch? x := rfl

/-! ## updBlk -/

@[simp] theorem State.updBlk_agenda (s : State) (b : Nat) (f : Block → Block) : (s.updBlk b f).agenda = s.agenda := rfl
@[simp] theorem State.updBlk_cur (s : State) (b : Nat) (f : Block → Block) : (s.updBlk b f).cur = s.cur := rfl
@[simp] theorem State.updBlk_tick (s : State) (b : Nat) (f : Block → Block) : (s.updBlk b f).tick = s.tick := rfl
@[simp] theorem State.updBlk_now (s : State) (b : Nat) (f : Block → Block) : (s.updBlk b f).now = s.now := rfl
@[simp] theorem State.updBlk_nextId (s : State) (b : Nat) (f : Block → Block) : (s.updBlk b f).nextId = s.nextId := rfl
@[simp] theorem State.updBlk_started (s : State) (b : Nat) (f : Block → Block) : (s.updBlk b f).started = s.started := rfl
@[simp] theorem State.updBlk_recovery (s : State) (b : Nat) (f : Block → Block) : (s.updBlk b f).recovery = s.recovery := rfl
@[simp] theorem State.updBlk_pkg (s : State) (b : Nat) (f : Block → Block) : (s.updBlk b f).pkg = s.pkg := rfl
@[simp] theorem State.updBlk_shuttles (s : State) (b : Nat) (f : Block → Block) : (s.updBlk b f).shuttles = s.shuttles := rfl
@[simp] theorem State.updBlk_blocks (s : State) (b : Nat) (f : Block → Block) : (s.updBlk b f).blocks = Tab.upd s.blocks b f := rfl
@[simp] theorem State.updBlk_cores (s : State) (b : Nat) (f : Block → Block) : (s.updBlk b f).cores = s.cores := rfl
@[simp] theorem State.updBlk_quads (s : State) (b : Nat) (f : Block → Block) : (s.updBlk b f).quads = s.quads := rfl
@[simp] theorem State.updBlk_dies (s : State) (b : Nat) (f : Block → Block) : (s.updBlk b f).dies = s.dies := rfl
@[simp] theorem State.updBlk_net (s : State) (b : Nat) (f : Block → Block) : (s.updBlk b f).net = s.net := rfl
@[simp] theorem State.updBlk_peers (s : State) (b : Nat) (f : Block → Block) : (s.updBlk b f).peers = s.peers := rfl
@[simp] theorem State.updBlk_mem (s : State) (b : Nat) (f : Block → Block) : (s.updBlk b f).mem = s.mem := rfl
@[simp] theorem State.updBlk_poison (s : State) (b : Nat) (f : Block → Block) : (s.updBlk b f).poison = s.poison := rfl
@[simp] theorem State.updBlk_bad (s : State) (b : Nat) (f : Block → Block) : (s.updBlk b f).bad = s.bad := rfl
@[simp] theorem State.updBlk_retired (s : State) (b : Nat) (f : Block → Block) : (s.updBlk b f).retired = s.retired := rfl
@[simp] theorem State.updBlk_posted (s : State) (b : Nat) (f : Block → Block) : (s.updBlk b f).posted = s.posted := rfl
@[simp] theorem State.updBlk_faults (s : State) (b : Nat) (f : Block → Block) : (s.updBlk b f).faults = s.faults := rfl
@[simp] theorem State.updBlk_invals (s : State) (b : Nat) (f : Block → Block) : (s.updBlk b f).invals = s.invals := rfl
@[simp] theorem State.updBlk_inv (s : State) (b : Nat) (f : Block → Block) : (s.updBlk b f).inv = s.inv := rfl
@[simp] theorem State.updBlk_past (s : State) (b : Nat) (f : Block → Block) : (s.updBlk b f).past = s.past := rfl
@[simp] theorem State.updBlk_older (s : State) (b : Nat) (f : Block → Block) : (s.updBlk b f).older = s.older := rfl
@[simp] theorem State.updBlk_code (s : State) (b : Nat) (f : Block → Block) : (s.updBlk b f).code = s.code := rfl
@[simp] theorem State.updBlk_trans (s : State) (b : Nat) (f : Block → Block) : (s.updBlk b f).trans = s.trans := rfl
@[simp] theorem State.updBlk_objs (s : State) (b : Nat) (f : Block → Block) : (s.updBlk b f).objs = s.objs := rfl
@[simp] theorem State.updBlk_launches (s : State) (b : Nat) (f : Block → Block) : (s.updBlk b f).launches = s.launches := rfl
@[simp] theorem State.updBlk_parts (s : State) (b : Nat) (f : Block → Block) : (s.updBlk b f).parts = s.parts := rfl
@[simp] theorem State.updBlk_hubs (s : State) (b : Nat) (f : Block → Block) : (s.updBlk b f).hubs = s.hubs := rfl
@[simp] theorem State.updBlk_ports (s : State) (b : Nat) (f : Block → Block) : (s.updBlk b f).ports = s.ports := rfl
@[simp] theorem State.updBlk_podRoutes (s : State) (b : Nat) (f : Block → Block) : (s.updBlk b f).podRoutes = s.podRoutes := rfl
@[simp] theorem State.updBlk_lostPkgs (s : State) (b : Nat) (f : Block → Block) : (s.updBlk b f).lostPkgs = s.lostPkgs := rfl
@[simp] theorem State.updBlk_compress (s : State) (b : Nat) (f : Block → Block) : (s.updBlk b f).compress = s.compress := rfl
@[simp] theorem State.updBlk_mgmt (s : State) (b : Nat) (f : Block → Block) : (s.updBlk b f).mgmt = s.mgmt := rfl
@[simp] theorem State.updBlk_acc_core (s : State) (b : Nat) (f : Block → Block) (x : Nat) : (s.updBlk b f).core x = s.core x := rfl
@[simp] theorem State.updBlk_acc_quad (s : State) (b : Nat) (f : Block → Block) (x : Nat) : (s.updBlk b f).quad x = s.quad x := rfl
@[simp] theorem State.updBlk_acc_die (s : State) (b : Nat) (f : Block → Block) (x : Nat) : (s.updBlk b f).die x = s.die x := rfl
@[simp] theorem State.updBlk_acc_hub (s : State) (b : Nat) (f : Block → Block) (x : Nat) : (s.updBlk b f).hub x = s.hub x := rfl
@[simp] theorem State.updBlk_acc_port (s : State) (b : Nat) (f : Block → Block) (x : Nat) : (s.updBlk b f).port x = s.port x := rfl
@[simp] theorem State.updBlk_acc_sh (s : State) (b : Nat) (f : Block → Block) (x : Nat) : (s.updBlk b f).sh? x = s.sh? x := rfl
@[simp] theorem State.updBlk_acc_part (s : State) (b : Nat) (f : Block → Block) (x : Nat) : (s.updBlk b f).part? x = s.part? x := rfl
@[simp] theorem State.updBlk_acc_launch (s : State) (b : Nat) (f : Block → Block) (x : Nat) : (s.updBlk b f).launch? x = s.launch? x := rfl

/-! ## updPart -/

@[simp] theorem State.updPart_agenda (s : State) (p : Nat) (f : Part → Part) : (s.updPart p f).agenda = s.agenda := rfl
@[simp] theorem State.updPart_cur (s : State) (p : Nat) (f : Part → Part) : (s.updPart p f).cur = s.cur := rfl
@[simp] theorem State.updPart_tick (s : State) (p : Nat) (f : Part → Part) : (s.updPart p f).tick = s.tick := rfl
@[simp] theorem State.updPart_now (s : State) (p : Nat) (f : Part → Part) : (s.updPart p f).now = s.now := rfl
@[simp] theorem State.updPart_nextId (s : State) (p : Nat) (f : Part → Part) : (s.updPart p f).nextId = s.nextId := rfl
@[simp] theorem State.updPart_started (s : State) (p : Nat) (f : Part → Part) : (s.updPart p f).started = s.started := rfl
@[simp] theorem State.updPart_recovery (s : State) (p : Nat) (f : Part → Part) : (s.updPart p f).recovery = s.recovery := rfl
@[simp] theorem State.updPart_pkg (s : State) (p : Nat) (f : Part → Part) : (s.updPart p f).pkg = s.pkg := rfl
@[simp] theorem State.updPart_shuttles (s : State) (p : Nat) (f : Part → Part) : (s.updPart p f).shuttles = s.shuttles := rfl
@[simp] theorem State.updPart_blocks (s : State) (p : Nat) (f : Part → Part) : (s.updPart p f).blocks = s.blocks := rfl
@[simp] theorem State.updPart_cores (s : State) (p : Nat) (f : Part → Part) : (s.updPart p f).cores = s.cores := rfl
@[simp] theorem State.updPart_quads (s : State) (p : Nat) (f : Part → Part) : (s.updPart p f).quads = s.quads := rfl
@[simp] theorem State.updPart_dies (s : State) (p : Nat) (f : Part → Part) : (s.updPart p f).dies = s.dies := rfl
@[simp] theorem State.updPart_net (s : State) (p : Nat) (f : Part → Part) : (s.updPart p f).net = s.net := rfl
@[simp] theorem State.updPart_peers (s : State) (p : Nat) (f : Part → Part) : (s.updPart p f).peers = s.peers := rfl
@[simp] theorem State.updPart_mem (s : State) (p : Nat) (f : Part → Part) : (s.updPart p f).mem = s.mem := rfl
@[simp] theorem State.updPart_poison (s : State) (p : Nat) (f : Part → Part) : (s.updPart p f).poison = s.poison := rfl
@[simp] theorem State.updPart_bad (s : State) (p : Nat) (f : Part → Part) : (s.updPart p f).bad = s.bad := rfl
@[simp] theorem State.updPart_retired (s : State) (p : Nat) (f : Part → Part) : (s.updPart p f).retired = s.retired := rfl
@[simp] theorem State.updPart_posted (s : State) (p : Nat) (f : Part → Part) : (s.updPart p f).posted = s.posted := rfl
@[simp] theorem State.updPart_faults (s : State) (p : Nat) (f : Part → Part) : (s.updPart p f).faults = s.faults := rfl
@[simp] theorem State.updPart_invals (s : State) (p : Nat) (f : Part → Part) : (s.updPart p f).invals = s.invals := rfl
@[simp] theorem State.updPart_inv (s : State) (p : Nat) (f : Part → Part) : (s.updPart p f).inv = s.inv := rfl
@[simp] theorem State.updPart_past (s : State) (p : Nat) (f : Part → Part) : (s.updPart p f).past = s.past := rfl
@[simp] theorem State.updPart_older (s : State) (p : Nat) (f : Part → Part) : (s.updPart p f).older = s.older := rfl
@[simp] theorem State.updPart_code (s : State) (p : Nat) (f : Part → Part) : (s.updPart p f).code = s.code := rfl
@[simp] theorem State.updPart_trans (s : State) (p : Nat) (f : Part → Part) : (s.updPart p f).trans = s.trans := rfl
@[simp] theorem State.updPart_objs (s : State) (p : Nat) (f : Part → Part) : (s.updPart p f).objs = s.objs := rfl
@[simp] theorem State.updPart_launches (s : State) (p : Nat) (f : Part → Part) : (s.updPart p f).launches = s.launches := rfl
@[simp] theorem State.updPart_parts (s : State) (p : Nat) (f : Part → Part) : (s.updPart p f).parts = Tab.upd s.parts p f := rfl
@[simp] theorem State.updPart_hubs (s : State) (p : Nat) (f : Part → Part) : (s.updPart p f).hubs = s.hubs := rfl
@[simp] theorem State.updPart_ports (s : State) (p : Nat) (f : Part → Part) : (s.updPart p f).ports = s.ports := rfl
@[simp] theorem State.updPart_podRoutes (s : State) (p : Nat) (f : Part → Part) : (s.updPart p f).podRoutes = s.podRoutes := rfl
@[simp] theorem State.updPart_lostPkgs (s : State) (p : Nat) (f : Part → Part) : (s.updPart p f).lostPkgs = s.lostPkgs := rfl
@[simp] theorem State.updPart_compress (s : State) (p : Nat) (f : Part → Part) : (s.updPart p f).compress = s.compress := rfl
@[simp] theorem State.updPart_mgmt (s : State) (p : Nat) (f : Part → Part) : (s.updPart p f).mgmt = s.mgmt := rfl
@[simp] theorem State.updPart_acc_core (s : State) (p : Nat) (f : Part → Part) (x : Nat) : (s.updPart p f).core x = s.core x := rfl
@[simp] theorem State.updPart_acc_quad (s : State) (p : Nat) (f : Part → Part) (x : Nat) : (s.updPart p f).quad x = s.quad x := rfl
@[simp] theorem State.updPart_acc_die (s : State) (p : Nat) (f : Part → Part) (x : Nat) : (s.updPart p f).die x = s.die x := rfl
@[simp] theorem State.updPart_acc_hub (s : State) (p : Nat) (f : Part → Part) (x : Nat) : (s.updPart p f).hub x = s.hub x := rfl
@[simp] theorem State.updPart_acc_port (s : State) (p : Nat) (f : Part → Part) (x : Nat) : (s.updPart p f).port x = s.port x := rfl
@[simp] theorem State.updPart_acc_sh (s : State) (p : Nat) (f : Part → Part) (x : Nat) : (s.updPart p f).sh? x = s.sh? x := rfl
@[simp] theorem State.updPart_acc_blk (s : State) (p : Nat) (f : Part → Part) (x : Nat) : (s.updPart p f).blk? x = s.blk? x := rfl
@[simp] theorem State.updPart_acc_launch (s : State) (p : Nat) (f : Part → Part) (x : Nat) : (s.updPart p f).launch? x = s.launch? x := rfl

/-! ## updLaunch -/

@[simp] theorem State.updLaunch_agenda (s : State) (l : Nat) (f : Launch → Launch) : (s.updLaunch l f).agenda = s.agenda := rfl
@[simp] theorem State.updLaunch_cur (s : State) (l : Nat) (f : Launch → Launch) : (s.updLaunch l f).cur = s.cur := rfl
@[simp] theorem State.updLaunch_tick (s : State) (l : Nat) (f : Launch → Launch) : (s.updLaunch l f).tick = s.tick := rfl
@[simp] theorem State.updLaunch_now (s : State) (l : Nat) (f : Launch → Launch) : (s.updLaunch l f).now = s.now := rfl
@[simp] theorem State.updLaunch_nextId (s : State) (l : Nat) (f : Launch → Launch) : (s.updLaunch l f).nextId = s.nextId := rfl
@[simp] theorem State.updLaunch_started (s : State) (l : Nat) (f : Launch → Launch) : (s.updLaunch l f).started = s.started := rfl
@[simp] theorem State.updLaunch_recovery (s : State) (l : Nat) (f : Launch → Launch) : (s.updLaunch l f).recovery = s.recovery := rfl
@[simp] theorem State.updLaunch_pkg (s : State) (l : Nat) (f : Launch → Launch) : (s.updLaunch l f).pkg = s.pkg := rfl
@[simp] theorem State.updLaunch_shuttles (s : State) (l : Nat) (f : Launch → Launch) : (s.updLaunch l f).shuttles = s.shuttles := rfl
@[simp] theorem State.updLaunch_blocks (s : State) (l : Nat) (f : Launch → Launch) : (s.updLaunch l f).blocks = s.blocks := rfl
@[simp] theorem State.updLaunch_cores (s : State) (l : Nat) (f : Launch → Launch) : (s.updLaunch l f).cores = s.cores := rfl
@[simp] theorem State.updLaunch_quads (s : State) (l : Nat) (f : Launch → Launch) : (s.updLaunch l f).quads = s.quads := rfl
@[simp] theorem State.updLaunch_dies (s : State) (l : Nat) (f : Launch → Launch) : (s.updLaunch l f).dies = s.dies := rfl
@[simp] theorem State.updLaunch_net (s : State) (l : Nat) (f : Launch → Launch) : (s.updLaunch l f).net = s.net := rfl
@[simp] theorem State.updLaunch_peers (s : State) (l : Nat) (f : Launch → Launch) : (s.updLaunch l f).peers = s.peers := rfl
@[simp] theorem State.updLaunch_mem (s : State) (l : Nat) (f : Launch → Launch) : (s.updLaunch l f).mem = s.mem := rfl
@[simp] theorem State.updLaunch_poison (s : State) (l : Nat) (f : Launch → Launch) : (s.updLaunch l f).poison = s.poison := rfl
@[simp] theorem State.updLaunch_bad (s : State) (l : Nat) (f : Launch → Launch) : (s.updLaunch l f).bad = s.bad := rfl
@[simp] theorem State.updLaunch_retired (s : State) (l : Nat) (f : Launch → Launch) : (s.updLaunch l f).retired = s.retired := rfl
@[simp] theorem State.updLaunch_posted (s : State) (l : Nat) (f : Launch → Launch) : (s.updLaunch l f).posted = s.posted := rfl
@[simp] theorem State.updLaunch_faults (s : State) (l : Nat) (f : Launch → Launch) : (s.updLaunch l f).faults = s.faults := rfl
@[simp] theorem State.updLaunch_invals (s : State) (l : Nat) (f : Launch → Launch) : (s.updLaunch l f).invals = s.invals := rfl
@[simp] theorem State.updLaunch_inv (s : State) (l : Nat) (f : Launch → Launch) : (s.updLaunch l f).inv = s.inv := rfl
@[simp] theorem State.updLaunch_past (s : State) (l : Nat) (f : Launch → Launch) : (s.updLaunch l f).past = s.past := rfl
@[simp] theorem State.updLaunch_older (s : State) (l : Nat) (f : Launch → Launch) : (s.updLaunch l f).older = s.older := rfl
@[simp] theorem State.updLaunch_code (s : State) (l : Nat) (f : Launch → Launch) : (s.updLaunch l f).code = s.code := rfl
@[simp] theorem State.updLaunch_trans (s : State) (l : Nat) (f : Launch → Launch) : (s.updLaunch l f).trans = s.trans := rfl
@[simp] theorem State.updLaunch_objs (s : State) (l : Nat) (f : Launch → Launch) : (s.updLaunch l f).objs = s.objs := rfl
@[simp] theorem State.updLaunch_launches (s : State) (l : Nat) (f : Launch → Launch) : (s.updLaunch l f).launches = Tab.upd s.launches l f := rfl
@[simp] theorem State.updLaunch_parts (s : State) (l : Nat) (f : Launch → Launch) : (s.updLaunch l f).parts = s.parts := rfl
@[simp] theorem State.updLaunch_hubs (s : State) (l : Nat) (f : Launch → Launch) : (s.updLaunch l f).hubs = s.hubs := rfl
@[simp] theorem State.updLaunch_ports (s : State) (l : Nat) (f : Launch → Launch) : (s.updLaunch l f).ports = s.ports := rfl
@[simp] theorem State.updLaunch_podRoutes (s : State) (l : Nat) (f : Launch → Launch) : (s.updLaunch l f).podRoutes = s.podRoutes := rfl
@[simp] theorem State.updLaunch_lostPkgs (s : State) (l : Nat) (f : Launch → Launch) : (s.updLaunch l f).lostPkgs = s.lostPkgs := rfl
@[simp] theorem State.updLaunch_compress (s : State) (l : Nat) (f : Launch → Launch) : (s.updLaunch l f).compress = s.compress := rfl
@[simp] theorem State.updLaunch_mgmt (s : State) (l : Nat) (f : Launch → Launch) : (s.updLaunch l f).mgmt = s.mgmt := rfl
@[simp] theorem State.updLaunch_acc_core (s : State) (l : Nat) (f : Launch → Launch) (x : Nat) : (s.updLaunch l f).core x = s.core x := rfl
@[simp] theorem State.updLaunch_acc_quad (s : State) (l : Nat) (f : Launch → Launch) (x : Nat) : (s.updLaunch l f).quad x = s.quad x := rfl
@[simp] theorem State.updLaunch_acc_die (s : State) (l : Nat) (f : Launch → Launch) (x : Nat) : (s.updLaunch l f).die x = s.die x := rfl
@[simp] theorem State.updLaunch_acc_hub (s : State) (l : Nat) (f : Launch → Launch) (x : Nat) : (s.updLaunch l f).hub x = s.hub x := rfl
@[simp] theorem State.updLaunch_acc_port (s : State) (l : Nat) (f : Launch → Launch) (x : Nat) : (s.updLaunch l f).port x = s.port x := rfl
@[simp] theorem State.updLaunch_acc_sh (s : State) (l : Nat) (f : Launch → Launch) (x : Nat) : (s.updLaunch l f).sh? x = s.sh? x := rfl
@[simp] theorem State.updLaunch_acc_blk (s : State) (l : Nat) (f : Launch → Launch) (x : Nat) : (s.updLaunch l f).blk? x = s.blk? x := rfl
@[simp] theorem State.updLaunch_acc_part (s : State) (l : Nat) (f : Launch → Launch) (x : Nat) : (s.updLaunch l f).part? x = s.part? x := rfl

/-! ## updMgmt -/

@[simp] theorem State.updMgmt_agenda (s : State) (f : Mgmt → Mgmt) : (s.updMgmt f).agenda = s.agenda := rfl
@[simp] theorem State.updMgmt_cur (s : State) (f : Mgmt → Mgmt) : (s.updMgmt f).cur = s.cur := rfl
@[simp] theorem State.updMgmt_tick (s : State) (f : Mgmt → Mgmt) : (s.updMgmt f).tick = s.tick := rfl
@[simp] theorem State.updMgmt_now (s : State) (f : Mgmt → Mgmt) : (s.updMgmt f).now = s.now := rfl
@[simp] theorem State.updMgmt_nextId (s : State) (f : Mgmt → Mgmt) : (s.updMgmt f).nextId = s.nextId := rfl
@[simp] theorem State.updMgmt_started (s : State) (f : Mgmt → Mgmt) : (s.updMgmt f).started = s.started := rfl
@[simp] theorem State.updMgmt_recovery (s : State) (f : Mgmt → Mgmt) : (s.updMgmt f).recovery = s.recovery := rfl
@[simp] theorem State.updMgmt_pkg (s : State) (f : Mgmt → Mgmt) : (s.updMgmt f).pkg = s.pkg := rfl
@[simp] theorem State.updMgmt_shuttles (s : State) (f : Mgmt → Mgmt) : (s.updMgmt f).shuttles = s.shuttles := rfl
@[simp] theorem State.updMgmt_blocks (s : State) (f : Mgmt → Mgmt) : (s.updMgmt f).blocks = s.blocks := rfl
@[simp] theorem State.updMgmt_cores (s : State) (f : Mgmt → Mgmt) : (s.updMgmt f).cores = s.cores := rfl
@[simp] theorem State.updMgmt_quads (s : State) (f : Mgmt → Mgmt) : (s.updMgmt f).quads = s.quads := rfl
@[simp] theorem State.updMgmt_dies (s : State) (f : Mgmt → Mgmt) : (s.updMgmt f).dies = s.dies := rfl
@[simp] theorem State.updMgmt_net (s : State) (f : Mgmt → Mgmt) : (s.updMgmt f).net = s.net := rfl
@[simp] theorem State.updMgmt_peers (s : State) (f : Mgmt → Mgmt) : (s.updMgmt f).peers = s.peers := rfl
@[simp] theorem State.updMgmt_mem (s : State) (f : Mgmt → Mgmt) : (s.updMgmt f).mem = s.mem := rfl
@[simp] theorem State.updMgmt_poison (s : State) (f : Mgmt → Mgmt) : (s.updMgmt f).poison = s.poison := rfl
@[simp] theorem State.updMgmt_bad (s : State) (f : Mgmt → Mgmt) : (s.updMgmt f).bad = s.bad := rfl
@[simp] theorem State.updMgmt_retired (s : State) (f : Mgmt → Mgmt) : (s.updMgmt f).retired = s.retired := rfl
@[simp] theorem State.updMgmt_posted (s : State) (f : Mgmt → Mgmt) : (s.updMgmt f).posted = s.posted := rfl
@[simp] theorem State.updMgmt_faults (s : State) (f : Mgmt → Mgmt) : (s.updMgmt f).faults = s.faults := rfl
@[simp] theorem State.updMgmt_invals (s : State) (f : Mgmt → Mgmt) : (s.updMgmt f).invals = s.invals := rfl
@[simp] theorem State.updMgmt_inv (s : State) (f : Mgmt → Mgmt) : (s.updMgmt f).inv = s.inv := rfl
@[simp] theorem State.updMgmt_past (s : State) (f : Mgmt → Mgmt) : (s.updMgmt f).past = s.past := rfl
@[simp] theorem State.updMgmt_older (s : State) (f : Mgmt → Mgmt) : (s.updMgmt f).older = s.older := rfl
@[simp] theorem State.updMgmt_code (s : State) (f : Mgmt → Mgmt) : (s.updMgmt f).code = s.code := rfl
@[simp] theorem State.updMgmt_trans (s : State) (f : Mgmt → Mgmt) : (s.updMgmt f).trans = s.trans := rfl
@[simp] theorem State.updMgmt_objs (s : State) (f : Mgmt → Mgmt) : (s.updMgmt f).objs = s.objs := rfl
@[simp] theorem State.updMgmt_launches (s : State) (f : Mgmt → Mgmt) : (s.updMgmt f).launches = s.launches := rfl
@[simp] theorem State.updMgmt_parts (s : State) (f : Mgmt → Mgmt) : (s.updMgmt f).parts = s.parts := rfl
@[simp] theorem State.updMgmt_hubs (s : State) (f : Mgmt → Mgmt) : (s.updMgmt f).hubs = s.hubs := rfl
@[simp] theorem State.updMgmt_ports (s : State) (f : Mgmt → Mgmt) : (s.updMgmt f).ports = s.ports := rfl
@[simp] theorem State.updMgmt_podRoutes (s : State) (f : Mgmt → Mgmt) : (s.updMgmt f).podRoutes = s.podRoutes := rfl
@[simp] theorem State.updMgmt_lostPkgs (s : State) (f : Mgmt → Mgmt) : (s.updMgmt f).lostPkgs = s.lostPkgs := rfl
@[simp] theorem State.updMgmt_compress (s : State) (f : Mgmt → Mgmt) : (s.updMgmt f).compress = s.compress := rfl
@[simp] theorem State.updMgmt_mgmt (s : State) (f : Mgmt → Mgmt) : (s.updMgmt f).mgmt = f s.mgmt := rfl
@[simp] theorem State.updMgmt_acc_core (s : State) (f : Mgmt → Mgmt) (x : Nat) : (s.updMgmt f).core x = s.core x := rfl
@[simp] theorem State.updMgmt_acc_quad (s : State) (f : Mgmt → Mgmt) (x : Nat) : (s.updMgmt f).quad x = s.quad x := rfl
@[simp] theorem State.updMgmt_acc_die (s : State) (f : Mgmt → Mgmt) (x : Nat) : (s.updMgmt f).die x = s.die x := rfl
@[simp] theorem State.updMgmt_acc_hub (s : State) (f : Mgmt → Mgmt) (x : Nat) : (s.updMgmt f).hub x = s.hub x := rfl
@[simp] theorem State.updMgmt_acc_port (s : State) (f : Mgmt → Mgmt) (x : Nat) : (s.updMgmt f).port x = s.port x := rfl
@[simp] theorem State.updMgmt_acc_sh (s : State) (f : Mgmt → Mgmt) (x : Nat) : (s.updMgmt f).sh? x = s.sh? x := rfl
@[simp] theorem State.updMgmt_acc_blk (s : State) (f : Mgmt → Mgmt) (x : Nat) : (s.updMgmt f).blk? x = s.blk? x := rfl
@[simp] theorem State.updMgmt_acc_part (s : State) (f : Mgmt → Mgmt) (x : Nat) : (s.updMgmt f).part? x = s.part? x := rfl
@[simp] theorem State.updMgmt_acc_launch (s : State) (f : Mgmt → Mgmt) (x : Nat) : (s.updMgmt f).launch? x = s.launch? x := rfl

/-! ## complete -/

@[simp] theorem State.complete_agenda (s : State) (w : Who) (f : Shuttle → Shuttle) : (s.complete w f).agenda = s.agenda := rfl
@[simp] theorem State.complete_cur (s : State) (w : Who) (f : Shuttle → Shuttle) : (s.complete w f).cur = s.cur := rfl
@[simp] theorem State.complete_tick (s : State) (w : Who) (f : Shuttle → Shuttle) : (s.complete w f).tick = s.tick := rfl
@[simp] theorem State.complete_now (s : State) (w : Who) (f : Shuttle → Shuttle) : (s.complete w f).now = s.now := rfl
@[simp] theorem State.complete_nextId (s : State) (w : Who) (f : Shuttle → Shuttle) : (s.complete w f).nextId = s.nextId := rfl
@[simp] theorem State.complete_started (s : State) (w : Who) (f : Shuttle → Shuttle) : (s.complete w f).started = s.started := rfl
@[simp] theorem State.complete_recovery (s : State) (w : Who) (f : Shuttle → Shuttle) : (s.complete w f).recovery = s.recovery := rfl
@[simp] theorem State.complete_pkg (s : State) (w : Who) (f : Shuttle → Shuttle) : (s.complete w f).pkg = s.pkg := rfl
@[simp] theorem State.complete_blocks (s : State) (w : Who) (f : Shuttle → Shuttle) : (s.complete w f).blocks = s.blocks := rfl
@[simp] theorem State.complete_cores (s : State) (w : Who) (f : Shuttle → Shuttle) : (s.complete w f).cores = s.cores := rfl
@[simp] theorem State.complete_quads (s : State) (w : Who) (f : Shuttle → Shuttle) : (s.complete w f).quads = s.quads := rfl
@[simp] theorem State.complete_dies (s : State) (w : Who) (f : Shuttle → Shuttle) : (s.complete w f).dies = s.dies := rfl
@[simp] theorem State.complete_net (s : State) (w : Who) (f : Shuttle → Shuttle) : (s.complete w f).net = s.net := rfl
@[simp] theorem State.complete_peers (s : State) (w : Who) (f : Shuttle → Shuttle) : (s.complete w f).peers = s.peers := rfl
@[simp] theorem State.complete_mem (s : State) (w : Who) (f : Shuttle → Shuttle) : (s.complete w f).mem = s.mem := rfl
@[simp] theorem State.complete_poison (s : State) (w : Who) (f : Shuttle → Shuttle) : (s.complete w f).poison = s.poison := rfl
@[simp] theorem State.complete_bad (s : State) (w : Who) (f : Shuttle → Shuttle) : (s.complete w f).bad = s.bad := rfl
@[simp] theorem State.complete_retired (s : State) (w : Who) (f : Shuttle → Shuttle) : (s.complete w f).retired = s.retired := rfl
@[simp] theorem State.complete_posted (s : State) (w : Who) (f : Shuttle → Shuttle) : (s.complete w f).posted = s.posted := rfl
@[simp] theorem State.complete_faults (s : State) (w : Who) (f : Shuttle → Shuttle) : (s.complete w f).faults = s.faults := rfl
@[simp] theorem State.complete_invals (s : State) (w : Who) (f : Shuttle → Shuttle) : (s.complete w f).invals = s.invals := rfl
@[simp] theorem State.complete_inv (s : State) (w : Who) (f : Shuttle → Shuttle) : (s.complete w f).inv = s.inv := rfl
@[simp] theorem State.complete_past (s : State) (w : Who) (f : Shuttle → Shuttle) : (s.complete w f).past = s.past := rfl
@[simp] theorem State.complete_older (s : State) (w : Who) (f : Shuttle → Shuttle) : (s.complete w f).older = s.older := rfl
@[simp] theorem State.complete_code (s : State) (w : Who) (f : Shuttle → Shuttle) : (s.complete w f).code = s.code := rfl
@[simp] theorem State.complete_trans (s : State) (w : Who) (f : Shuttle → Shuttle) : (s.complete w f).trans = s.trans := rfl
@[simp] theorem State.complete_objs (s : State) (w : Who) (f : Shuttle → Shuttle) : (s.complete w f).objs = s.objs := rfl
@[simp] theorem State.complete_launches (s : State) (w : Who) (f : Shuttle → Shuttle) : (s.complete w f).launches = s.launches := rfl
@[simp] theorem State.complete_parts (s : State) (w : Who) (f : Shuttle → Shuttle) : (s.complete w f).parts = s.parts := rfl
@[simp] theorem State.complete_hubs (s : State) (w : Who) (f : Shuttle → Shuttle) : (s.complete w f).hubs = s.hubs := rfl
@[simp] theorem State.complete_ports (s : State) (w : Who) (f : Shuttle → Shuttle) : (s.complete w f).ports = s.ports := rfl
@[simp] theorem State.complete_podRoutes (s : State) (w : Who) (f : Shuttle → Shuttle) : (s.complete w f).podRoutes = s.podRoutes := rfl
@[simp] theorem State.complete_lostPkgs (s : State) (w : Who) (f : Shuttle → Shuttle) : (s.complete w f).lostPkgs = s.lostPkgs := rfl
@[simp] theorem State.complete_compress (s : State) (w : Who) (f : Shuttle → Shuttle) : (s.complete w f).compress = s.compress := rfl
@[simp] theorem State.complete_mgmt (s : State) (w : Who) (f : Shuttle → Shuttle) : (s.complete w f).mgmt = s.mgmt := rfl

/-! ## waits -/

@[simp] theorem State.waits_agenda (s : State) (w : Who) (why : Wait) : (s.waits w why).agenda = s.agenda := rfl
@[simp] theorem State.waits_cur (s : State) (w : Who) (why : Wait) : (s.waits w why).cur = s.cur := rfl
@[simp] theorem State.waits_tick (s : State) (w : Who) (why : Wait) : (s.waits w why).tick = s.tick := rfl
@[simp] theorem State.waits_now (s : State) (w : Who) (why : Wait) : (s.waits w why).now = s.now := rfl
@[simp] theorem State.waits_nextId (s : State) (w : Who) (why : Wait) : (s.waits w why).nextId = s.nextId := rfl
@[simp] theorem State.waits_started (s : State) (w : Who) (why : Wait) : (s.waits w why).started = s.started := rfl
@[simp] theorem State.waits_recovery (s : State) (w : Who) (why : Wait) : (s.waits w why).recovery = s.recovery := rfl
@[simp] theorem State.waits_pkg (s : State) (w : Who) (why : Wait) : (s.waits w why).pkg = s.pkg := rfl
@[simp] theorem State.waits_blocks (s : State) (w : Who) (why : Wait) : (s.waits w why).blocks = s.blocks := rfl
@[simp] theorem State.waits_cores (s : State) (w : Who) (why : Wait) : (s.waits w why).cores = s.cores := rfl
@[simp] theorem State.waits_quads (s : State) (w : Who) (why : Wait) : (s.waits w why).quads = s.quads := rfl
@[simp] theorem State.waits_dies (s : State) (w : Who) (why : Wait) : (s.waits w why).dies = s.dies := rfl
@[simp] theorem State.waits_net (s : State) (w : Who) (why : Wait) : (s.waits w why).net = s.net := rfl
@[simp] theorem State.waits_peers (s : State) (w : Who) (why : Wait) : (s.waits w why).peers = s.peers := rfl
@[simp] theorem State.waits_mem (s : State) (w : Who) (why : Wait) : (s.waits w why).mem = s.mem := rfl
@[simp] theorem State.waits_poison (s : State) (w : Who) (why : Wait) : (s.waits w why).poison = s.poison := rfl
@[simp] theorem State.waits_bad (s : State) (w : Who) (why : Wait) : (s.waits w why).bad = s.bad := rfl
@[simp] theorem State.waits_retired (s : State) (w : Who) (why : Wait) : (s.waits w why).retired = s.retired := rfl
@[simp] theorem State.waits_posted (s : State) (w : Who) (why : Wait) : (s.waits w why).posted = s.posted := rfl
@[simp] theorem State.waits_faults (s : State) (w : Who) (why : Wait) : (s.waits w why).faults = s.faults := rfl
@[simp] theorem State.waits_invals (s : State) (w : Who) (why : Wait) : (s.waits w why).invals = s.invals := rfl
@[simp] theorem State.waits_inv (s : State) (w : Who) (why : Wait) : (s.waits w why).inv = s.inv := rfl
@[simp] theorem State.waits_past (s : State) (w : Who) (why : Wait) : (s.waits w why).past = s.past := rfl
@[simp] theorem State.waits_older (s : State) (w : Who) (why : Wait) : (s.waits w why).older = s.older := rfl
@[simp] theorem State.waits_code (s : State) (w : Who) (why : Wait) : (s.waits w why).code = s.code := rfl
@[simp] theorem State.waits_trans (s : State) (w : Who) (why : Wait) : (s.waits w why).trans = s.trans := rfl
@[simp] theorem State.waits_objs (s : State) (w : Who) (why : Wait) : (s.waits w why).objs = s.objs := rfl
@[simp] theorem State.waits_launches (s : State) (w : Who) (why : Wait) : (s.waits w why).launches = s.launches := rfl
@[simp] theorem State.waits_parts (s : State) (w : Who) (why : Wait) : (s.waits w why).parts = s.parts := rfl
@[simp] theorem State.waits_hubs (s : State) (w : Who) (why : Wait) : (s.waits w why).hubs = s.hubs := rfl
@[simp] theorem State.waits_ports (s : State) (w : Who) (why : Wait) : (s.waits w why).ports = s.ports := rfl
@[simp] theorem State.waits_podRoutes (s : State) (w : Who) (why : Wait) : (s.waits w why).podRoutes = s.podRoutes := rfl
@[simp] theorem State.waits_lostPkgs (s : State) (w : Who) (why : Wait) : (s.waits w why).lostPkgs = s.lostPkgs := rfl
@[simp] theorem State.waits_compress (s : State) (w : Who) (why : Wait) : (s.waits w why).compress = s.compress := rfl
@[simp] theorem State.waits_mgmt (s : State) (w : Who) (why : Wait) : (s.waits w why).mgmt = s.mgmt := rfl

end Sys2Proof.Machine
end

