-- ==== Sys2Proof/Laws/Table.lean ====
section
/-! SUPPORT. Laws of vectors and of tables by number: an entry after a change of it, and of another. -/

namespace Sys2Proof.Machine

variable {α : Type}

/-! ## Vectors -/

theorem vget_set_same {n : Nat} (v : Vector α n) (i : Fin n) (x : α) : (v.set i x).get i = x := by
  show (v.set i.val x i.isLt)[i.val] = x
  simp

theorem vget_set_ne {n : Nat} (v : Vector α n) {i j : Fin n} (x : α) (h : j ≠ i) : (v.set i x).get j = v.get j := by
  show (v.set i.val x i.isLt)[j.val] = v[j.val]
  rw [Vector.getElem_set_ne]
  exact fun e => h (Fin.ext e.symm)

/-! ## Tables -/

@[simp] theorem Tab.get?_nil (k : Nat) : Tab.get? ([] : Tab α) k = none := rfl

theorem Tab.get?_cons (j : Nat) (v : α) (t : Tab α) (k : Nat) :
    Tab.get? ((j, v) :: t) k = if j = k then some v else Tab.get? t k := rfl

@[simp] theorem Tab.get?_set_same (t : Tab α) (k : Nat) (v : α) : Tab.get? (Tab.set t k v) k = some v := by
  induction t with
  | nil => simp [Tab.set, Tab.get?]
  | cons e t ih =>
    obtain ⟨j, w⟩ := e
    simp only [Tab.set]
    split
    · simp [Tab.get?]
    · split
      · simp [Tab.get?]
      · simp [Tab.get?, *]

theorem Tab.get?_set_ne (t : Tab α) {k m : Nat} (v : α) (h : m ≠ k) :
    Tab.get? (Tab.set t k v) m = Tab.get? t m := by
  have h' : ¬ k = m := fun e => h e.symm
  induction t with
  | nil => simp [Tab.set, Tab.get?, h']
  | cons e t ih =>
    obtain ⟨j, w⟩ := e
    simp only [Tab.set]
    split
    · simp [Tab.get?, h']
    · split
      · next hj => simp [Tab.get?, hj, h']
      · simp [Tab.get?, ih]

theorem Tab.get?_set (t : Tab α) (k m : Nat) (v : α) :
    Tab.get? (Tab.set t k v) m = if m = k then some v else Tab.get? t m := by
  split
  · next h => subst h; exact Tab.get?_set_same t m v
  · next h => exact Tab.get?_set_ne t v h

@[simp] theorem Tab.getD_set_same (t : Tab α) (k : Nat) (v d : α) : Tab.getD (Tab.set t k v) k d = v := by
  simp [Tab.getD]

theorem Tab.getD_set_ne (t : Tab α) {k m : Nat} (v d : α) (h : m ≠ k) :
    Tab.getD (Tab.set t k v) m d = Tab.getD t m d := by
  simp [Tab.getD, Tab.get?_set_ne t v h]

theorem Tab.upd_some {t : Tab α} {k : Nat} {v : α} (f : α → α) (h : Tab.get? t k = some v) :
    Tab.upd t k f = Tab.set t k (f v) := by
  simp [Tab.upd, h]

theorem Tab.upd_none {t : Tab α} {k : Nat} (f : α → α) (h : Tab.get? t k = none) : Tab.upd t k f = t := by
  simp [Tab.upd, h]

theorem Tab.get?_upd_same (t : Tab α) (k : Nat) (f : α → α) :
    Tab.get? (Tab.upd t k f) k = (Tab.get? t k).map f := by
  cases h : Tab.get? t k with
  | none => simp [Tab.upd_none f h, h]
  | some v => simp [Tab.upd_some f h]

theorem Tab.get?_upd_ne (t : Tab α) {k m : Nat} (f : α → α) (h : m ≠ k) :
    Tab.get? (Tab.upd t k f) m = Tab.get? t m := by
  cases hk : Tab.get? t k with
  | none => rw [Tab.upd_none f hk]
  | some v => rw [Tab.upd_some f hk, Tab.get?_set_ne t _ h]

theorem Tab.get?_del_ne (t : Tab α) {k m : Nat} (h : m ≠ k) : Tab.get? (Tab.del t k) m = Tab.get? t m := by
  have h' : ¬ k = m := fun e => h e.symm
  induction t with
  | nil => rfl
  | cons e t ih =>
    obtain ⟨j, w⟩ := e
    simp only [Tab.del]
    split
    · next hj => simp [Tab.get?, hj, h', ih]
    · simp [Tab.get?, ih]

@[simp] theorem Tab.get?_del_same (t : Tab α) (k : Nat) : Tab.get? (Tab.del t k) k = none := by
  induction t with
  | nil => rfl
  | cons e t ih =>
    obtain ⟨j, w⟩ := e
    simp only [Tab.del]
    split
    · exact ih
    · next hj => simp [Tab.get?, hj, ih]

/-- A change of every value, key by key, keeps the keys. -/
theorem Tab.get?_map (t : Tab α) (g : Nat → α → α) (k : Nat) :
    Tab.get? (t.map fun (j, v) => (j, g j v)) k = (Tab.get? t k).map (g k) := by
  induction t with
  | nil => rfl
  | cons e t ih =>
    obtain ⟨j, w⟩ := e
    simp only [List.map_cons, Tab.get?]
    split
    · next h => simp [h]
    · exact ih

end Sys2Proof.Machine
end

