-- ==== Sys2Proof/Laws/Shuttle.lean ====
section
/-! SUPPORT. The registers of a shuttle: what a write leaves and what it changes (R70), and moving on (R111). -/

namespace Sys2Proof.Machine

@[simp] theorem Shuttle.writeS_idx (sh : Shuttle) (r : SReg) (v : W64) : (sh.writeS r v).idx = sh.idx := by
  unfold Shuttle.writeS; split <;> rfl
@[simp] theorem Shuttle.writeS_slot (sh : Shuttle) (r : SReg) (v : W64) : (sh.writeS r v).slot = sh.slot := by
  unfold Shuttle.writeS; split <;> rfl
@[simp] theorem Shuttle.writeS_k (sh : Shuttle) (r : SReg) (v : W64) : (sh.writeS r v).k = sh.k := by
  unfold Shuttle.writeS; split <;> rfl
@[simp] theorem Shuttle.writeS_m (sh : Shuttle) (r : SReg) (v : W64) : (sh.writeS r v).m = sh.m := by
  unfold Shuttle.writeS; split <;> rfl
@[simp] theorem Shuttle.writeS_q (sh : Shuttle) (r : SReg) (v : W64) : (sh.writeS r v).q = sh.q := by
  unfold Shuttle.writeS; split <;> rfl
@[simp] theorem Shuttle.writeS_lat (sh : Shuttle) (r : SReg) (v : W64) : (sh.writeS r v).lat = sh.lat := by
  unfold Shuttle.writeS; split <;> rfl
@[simp] theorem Shuttle.writeS_latOk (sh : Shuttle) (r : SReg) (v : W64) : (sh.writeS r v).latOk = sh.latOk := by
  unfold Shuttle.writeS; split <;> rfl
@[simp] theorem Shuttle.writeS_v (sh : Shuttle) (r : SReg) (v : W64) : (sh.writeS r v).v = sh.v := by
  unfold Shuttle.writeS; split <;> rfl
@[simp] theorem Shuttle.writeS_pc (sh : Shuttle) (r : SReg) (v : W64) : (sh.writeS r v).pc = sh.pc := by
  unfold Shuttle.writeS; split <;> rfl
@[simp] theorem Shuttle.writeS_queue (sh : Shuttle) (r : SReg) (v : W64) : (sh.writeS r v).queue = sh.queue := by
  unfold Shuttle.writeS; split <;> rfl
@[simp] theorem Shuttle.writeS_pend (sh : Shuttle) (r : SReg) (v : W64) : (sh.writeS r v).pend = sh.pend := by
  unfold Shuttle.writeS; split <;> rfl
@[simp] theorem Shuttle.writeS_resv (sh : Shuttle) (r : SReg) (v : W64) : (sh.writeS r v).resv = sh.resv := by
  unfold Shuttle.writeS; split <;> rfl
@[simp] theorem Shuttle.writeS_handler (sh : Shuttle) (r : SReg) (v : W64) : (sh.writeS r v).handler = sh.handler := by
  unfold Shuttle.writeS; split <;> rfl
@[simp] theorem Shuttle.writeS_trap (sh : Shuttle) (r : SReg) (v : W64) : (sh.writeS r v).trap = sh.trap := by
  unfold Shuttle.writeS; split <;> rfl
@[simp] theorem Shuttle.writeS_held (sh : Shuttle) (r : SReg) (v : W64) : (sh.writeS r v).held = sh.held := by
  unfold Shuttle.writeS; split <;> rfl
@[simp] theorem Shuttle.writeS_laneTrap (sh : Shuttle) (r : SReg) (v : W64) : (sh.writeS r v).laneTrap = sh.laneTrap := by
  unfold Shuttle.writeS; split <;> rfl
@[simp] theorem Shuttle.writeS_deferred (sh : Shuttle) (r : SReg) (v : W64) : (sh.writeS r v).deferred = sh.deferred := by
  unfold Shuttle.writeS; split <;> rfl
@[simp] theorem Shuttle.writeS_status (sh : Shuttle) (r : SReg) (v : W64) : (sh.writeS r v).status = sh.status := by
  unfold Shuttle.writeS; split <;> rfl
@[simp] theorem Shuttle.writeS_wait (sh : Shuttle) (r : SReg) (v : W64) : (sh.writeS r v).wait = sh.wait := by
  unfold Shuttle.writeS; split <;> rfl
@[simp] theorem Shuttle.writeS_record (sh : Shuttle) (r : SReg) (v : W64) : (sh.writeS r v).record = sh.record := by
  unfold Shuttle.writeS; split <;> rfl
@[simp] theorem Shuttle.writeS_waitPages (sh : Shuttle) (r : SReg) (v : W64) : (sh.writeS r v).waitPages = sh.waitPages := by
  unfold Shuttle.writeS; split <;> rfl
@[simp] theorem Shuttle.writeS_fatalPages (sh : Shuttle) (r : SReg) (v : W64) : (sh.writeS r v).fatalPages = sh.fatalPages := by
  unfold Shuttle.writeS; split <;> rfl
@[simp] theorem Shuttle.writeS_hist (sh : Shuttle) (r : SReg) (v : W64) : (sh.writeS r v).hist = sh.hist := by
  unfold Shuttle.writeS; split <;> rfl
@[simp] theorem Shuttle.writeK_idx (sh : Shuttle) (r : KReg) (v : Bool) : (sh.writeK r v).idx = sh.idx := by
  unfold Shuttle.writeK; split <;> rfl
@[simp] theorem Shuttle.writeK_slot (sh : Shuttle) (r : KReg) (v : Bool) : (sh.writeK r v).slot = sh.slot := by
  unfold Shuttle.writeK; split <;> rfl
@[simp] theorem Shuttle.writeK_s (sh : Shuttle) (r : KReg) (v : Bool) : (sh.writeK r v).s = sh.s := by
  unfold Shuttle.writeK; split <;> rfl
@[simp] theorem Shuttle.writeK_m (sh : Shuttle) (r : KReg) (v : Bool) : (sh.writeK r v).m = sh.m := by
  unfold Shuttle.writeK; split <;> rfl
@[simp] theorem Shuttle.writeK_q (sh : Shuttle) (r : KReg) (v : Bool) : (sh.writeK r v).q = sh.q := by
  unfold Shuttle.writeK; split <;> rfl
@[simp] theorem Shuttle.writeK_lat (sh : Shuttle) (r : KReg) (v : Bool) : (sh.writeK r v).lat = sh.lat := by
  unfold Shuttle.writeK; split <;> rfl
@[simp] theorem Shuttle.writeK_latOk (sh : Shuttle) (r : KReg) (v : Bool) : (sh.writeK r v).latOk = sh.latOk := by
  unfold Shuttle.writeK; split <;> rfl
@[simp] theorem Shuttle.writeK_v (sh : Shuttle) (r : KReg) (v : Bool) : (sh.writeK r v).v = sh.v := by
  unfold Shuttle.writeK; split <;> rfl
@[simp] theorem Shuttle.writeK_pc (sh : Shuttle) (r : KReg) (v : Bool) : (sh.writeK r v).pc = sh.pc := by
  unfold Shuttle.writeK; split <;> rfl
@[simp] theorem Shuttle.writeK_queue (sh : Shuttle) (r : KReg) (v : Bool) : (sh.writeK r v).queue = sh.queue := by
  unfold Shuttle.writeK; split <;> rfl
@[simp] theorem Shuttle.writeK_pend (sh : Shuttle) (r : KReg) (v : Bool) : (sh.writeK r v).pend = sh.pend := by
  unfold Shuttle.writeK; split <;> rfl
@[simp] theorem Shuttle.writeK_resv (sh : Shuttle) (r : KReg) (v : Bool) : (sh.writeK r v).resv = sh.resv := by
  unfold Shuttle.writeK; split <;> rfl
@[simp] theorem Shuttle.writeK_handler (sh : Shuttle) (r : KReg) (v : Bool) : (sh.writeK r v).handler = sh.handler := by
  unfold Shuttle.writeK; split <;> rfl
@[simp] theorem Shuttle.writeK_trap (sh : Shuttle) (r : KReg) (v : Bool) : (sh.writeK r v).trap = sh.trap := by
  unfold Shuttle.writeK; split <;> rfl
@[simp] theorem Shuttle.writeK_held (sh : Shuttle) (r : KReg) (v : Bool) : (sh.writeK r v).held = sh.held := by
  unfold Shuttle.writeK; split <;> rfl
@[simp] theorem Shuttle.writeK_laneTrap (sh : Shuttle) (r : KReg) (v : Bool) : (sh.writeK r v).laneTrap = sh.laneTrap := by
  unfold Shuttle.writeK; split <;> rfl
@[simp] theorem Shuttle.writeK_deferred (sh : Shuttle) (r : KReg) (v : Bool) : (sh.writeK r v).deferred = sh.deferred := by
  unfold Shuttle.writeK; split <;> rfl
@[simp] theorem Shuttle.writeK_status (sh : Shuttle) (r : KReg) (v : Bool) : (sh.writeK r v).status = sh.status := by
  unfold Shuttle.writeK; split <;> rfl
@[simp] theorem Shuttle.writeK_wait (sh : Shuttle) (r : KReg) (v : Bool) : (sh.writeK r v).wait = sh.wait := by
  unfold Shuttle.writeK; split <;> rfl
@[simp] theorem Shuttle.writeK_record (sh : Shuttle) (r : KReg) (v : Bool) : (sh.writeK r v).record = sh.record := by
  unfold Shuttle.writeK; split <;> rfl
@[simp] theorem Shuttle.writeK_waitPages (sh : Shuttle) (r : KReg) (v : Bool) : (sh.writeK r v).waitPages = sh.waitPages := by
  unfold Shuttle.writeK; split <;> rfl
@[simp] theorem Shuttle.writeK_fatalPages (sh : Shuttle) (r : KReg) (v : Bool) : (sh.writeK r v).fatalPages = sh.fatalPages := by
  unfold Shuttle.writeK; split <;> rfl
@[simp] theorem Shuttle.writeK_hist (sh : Shuttle) (r : KReg) (v : Bool) : (sh.writeK r v).hist = sh.hist := by
  unfold Shuttle.writeK; split <;> rfl
@[simp] theorem Shuttle.writeM_idx (sh : Shuttle) (r : MReg) (v : BitVec 8) : (sh.writeM r v).idx = sh.idx := by
  unfold Shuttle.writeM; split <;> rfl
@[simp] theorem Shuttle.writeM_slot (sh : Shuttle) (r : MReg) (v : BitVec 8) : (sh.writeM r v).slot = sh.slot := by
  unfold Shuttle.writeM; split <;> rfl
@[simp] theorem Shuttle.writeM_s (sh : Shuttle) (r : MReg) (v : BitVec 8) : (sh.writeM r v).s = sh.s := by
  unfold Shuttle.writeM; split <;> rfl
@[simp] theorem Shuttle.writeM_k (sh : Shuttle) (r : MReg) (v : BitVec 8) : (sh.writeM r v).k = sh.k := by
  unfold Shuttle.writeM; split <;> rfl
@[simp] theorem Shuttle.writeM_q (sh : Shuttle) (r : MReg) (v : BitVec 8) : (sh.writeM r v).q = sh.q := by
  unfold Shuttle.writeM; split <;> rfl
@[simp] theorem Shuttle.writeM_lat (sh : Shuttle) (r : MReg) (v : BitVec 8) : (sh.writeM r v).lat = sh.lat := by
  unfold Shuttle.writeM; split <;> rfl
@[simp] theorem Shuttle.writeM_latOk (sh : Shuttle) (r : MReg) (v : BitVec 8) : (sh.writeM r v).latOk = sh.latOk := by
  unfold Shuttle.writeM; split <;> rfl
@[simp] theorem Shuttle.writeM_v (sh : Shuttle) (r : MReg) (v : BitVec 8) : (sh.writeM r v).v = sh.v := by
  unfold Shuttle.writeM; split <;> rfl
@[simp] theorem Shuttle.writeM_pc (sh : Shuttle) (r : MReg) (v : BitVec 8) : (sh.writeM r v).pc = sh.pc := by
  unfold Shuttle.writeM; split <;> rfl
@[simp] theorem Shuttle.writeM_queue (sh : Shuttle) (r : MReg) (v : BitVec 8) : (sh.writeM r v).queue = sh.queue := by
  unfold Shuttle.writeM; split <;> rfl
@[simp] theorem Shuttle.writeM_pend (sh : Shuttle) (r : MReg) (v : BitVec 8) : (sh.writeM r v).pend = sh.pend := by
  unfold Shuttle.writeM; split <;> rfl
@[simp] theorem Shuttle.writeM_resv (sh : Shuttle) (r : MReg) (v : BitVec 8) : (sh.writeM r v).resv = sh.resv := by
  unfold Shuttle.writeM; split <;> rfl
@[simp] theorem Shuttle.writeM_handler (sh : Shuttle) (r : MReg) (v : BitVec 8) : (sh.writeM r v).handler = sh.handler := by
  unfold Shuttle.writeM; split <;> rfl
@[simp] theorem Shuttle.writeM_trap (sh : Shuttle) (r : MReg) (v : BitVec 8) : (sh.writeM r v).trap = sh.trap := by
  unfold Shuttle.writeM; split <;> rfl
@[simp] theorem Shuttle.writeM_held (sh : Shuttle) (r : MReg) (v : BitVec 8) : (sh.writeM r v).held = sh.held := by
  unfold Shuttle.writeM; split <;> rfl
@[simp] theorem Shuttle.writeM_laneTrap (sh : Shuttle) (r : MReg) (v : BitVec 8) : (sh.writeM r v).laneTrap = sh.laneTrap := by
  unfold Shuttle.writeM; split <;> rfl
@[simp] theorem Shuttle.writeM_deferred (sh : Shuttle) (r : MReg) (v : BitVec 8) : (sh.writeM r v).deferred = sh.deferred := by
  unfold Shuttle.writeM; split <;> rfl
@[simp] theorem Shuttle.writeM_status (sh : Shuttle) (r : MReg) (v : BitVec 8) : (sh.writeM r v).status = sh.status := by
  unfold Shuttle.writeM; split <;> rfl
@[simp] theorem Shuttle.writeM_wait (sh : Shuttle) (r : MReg) (v : BitVec 8) : (sh.writeM r v).wait = sh.wait := by
  unfold Shuttle.writeM; split <;> rfl
@[simp] theorem Shuttle.writeM_record (sh : Shuttle) (r : MReg) (v : BitVec 8) : (sh.writeM r v).record = sh.record := by
  unfold Shuttle.writeM; split <;> rfl
@[simp] theorem Shuttle.writeM_waitPages (sh : Shuttle) (r : MReg) (v : BitVec 8) : (sh.writeM r v).waitPages = sh.waitPages := by
  unfold Shuttle.writeM; split <;> rfl
@[simp] theorem Shuttle.writeM_fatalPages (sh : Shuttle) (r : MReg) (v : BitVec 8) : (sh.writeM r v).fatalPages = sh.fatalPages := by
  unfold Shuttle.writeM; split <;> rfl
@[simp] theorem Shuttle.writeM_hist (sh : Shuttle) (r : MReg) (v : BitVec 8) : (sh.writeM r v).hist = sh.hist := by
  unfold Shuttle.writeM; split <;> rfl
@[simp] theorem Shuttle.advance_idx (sh : Shuttle) : sh.advance.idx = sh.idx := rfl
@[simp] theorem Shuttle.advance_slot (sh : Shuttle) : sh.advance.slot = sh.slot := rfl
@[simp] theorem Shuttle.advance_s (sh : Shuttle) : sh.advance.s = sh.s := rfl
@[simp] theorem Shuttle.advance_k (sh : Shuttle) : sh.advance.k = sh.k := rfl
@[simp] theorem Shuttle.advance_m (sh : Shuttle) : sh.advance.m = sh.m := rfl
@[simp] theorem Shuttle.advance_q (sh : Shuttle) : sh.advance.q = sh.q := rfl
@[simp] theorem Shuttle.advance_lat (sh : Shuttle) : sh.advance.lat = sh.lat := rfl
@[simp] theorem Shuttle.advance_latOk (sh : Shuttle) : sh.advance.latOk = sh.latOk := rfl
@[simp] theorem Shuttle.advance_v (sh : Shuttle) : sh.advance.v = sh.v := rfl
@[simp] theorem Shuttle.advance_queue (sh : Shuttle) : sh.advance.queue = sh.queue := rfl
@[simp] theorem Shuttle.advance_pend (sh : Shuttle) : sh.advance.pend = sh.pend := rfl
@[simp] theorem Shuttle.advance_resv (sh : Shuttle) : sh.advance.resv = sh.resv := rfl
@[simp] theorem Shuttle.advance_handler (sh : Shuttle) : sh.advance.handler = sh.handler := rfl
@[simp] theorem Shuttle.advance_trap (sh : Shuttle) : sh.advance.trap = sh.trap := rfl
@[simp] theorem Shuttle.advance_held (sh : Shuttle) : sh.advance.held = sh.held := rfl
@[simp] theorem Shuttle.advance_laneTrap (sh : Shuttle) : sh.advance.laneTrap = sh.laneTrap := rfl
@[simp] theorem Shuttle.advance_deferred (sh : Shuttle) : sh.advance.deferred = sh.deferred := rfl
@[simp] theorem Shuttle.advance_status (sh : Shuttle) : sh.advance.status = sh.status := rfl
@[simp] theorem Shuttle.advance_fatalPages (sh : Shuttle) : sh.advance.fatalPages = [] := rfl
@[simp] theorem Shuttle.advance_hist (sh : Shuttle) : sh.advance.hist = sh.hist := rfl
@[simp] theorem Shuttle.advance_pc (sh : Shuttle) : sh.advance.pc = sh.pc + 4 := rfl
@[simp] theorem Shuttle.advance_wait (sh : Shuttle) : sh.advance.wait = .none := rfl
@[simp] theorem Shuttle.jump_idx (sh : Shuttle) (t : W64) : (sh.jump t).idx = sh.idx := rfl
@[simp] theorem Shuttle.jump_slot (sh : Shuttle) (t : W64) : (sh.jump t).slot = sh.slot := rfl
@[simp] theorem Shuttle.jump_s (sh : Shuttle) (t : W64) : (sh.jump t).s = sh.s := rfl
@[simp] theorem Shuttle.jump_k (sh : Shuttle) (t : W64) : (sh.jump t).k = sh.k := rfl
@[simp] theorem Shuttle.jump_m (sh : Shuttle) (t : W64) : (sh.jump t).m = sh.m := rfl
@[simp] theorem Shuttle.jump_q (sh : Shuttle) (t : W64) : (sh.jump t).q = sh.q := rfl
@[simp] theorem Shuttle.jump_lat (sh : Shuttle) (t : W64) : (sh.jump t).lat = sh.lat := rfl
@[simp] theorem Shuttle.jump_latOk (sh : Shuttle) (t : W64) : (sh.jump t).latOk = sh.latOk := rfl
@[simp] theorem Shuttle.jump_v (sh : Shuttle) (t : W64) : (sh.jump t).v = sh.v := rfl
@[simp] theorem Shuttle.jump_queue (sh : Shuttle) (t : W64) : (sh.jump t).queue = sh.queue := rfl
@[simp] theorem Shuttle.jump_pend (sh : Shuttle) (t : W64) : (sh.jump t).pend = sh.pend := rfl
@[simp] theorem Shuttle.jump_resv (sh : Shuttle) (t : W64) : (sh.jump t).resv = sh.resv := rfl
@[simp] theorem Shuttle.jump_handler (sh : Shuttle) (t : W64) : (sh.jump t).handler = sh.handler := rfl
@[simp] theorem Shuttle.jump_trap (sh : Shuttle) (t : W64) : (sh.jump t).trap = sh.trap := rfl
@[simp] theorem Shuttle.jump_held (sh : Shuttle) (t : W64) : (sh.jump t).held = sh.held := rfl
@[simp] theorem Shuttle.jump_laneTrap (sh : Shuttle) (t : W64) : (sh.jump t).laneTrap = sh.laneTrap := rfl
@[simp] theorem Shuttle.jump_deferred (sh : Shuttle) (t : W64) : (sh.jump t).deferred = sh.deferred := rfl
@[simp] theorem Shuttle.jump_status (sh : Shuttle) (t : W64) : (sh.jump t).status = sh.status := rfl
@[simp] theorem Shuttle.jump_record (sh : Shuttle) (t : W64) : (sh.jump t).record = sh.record := rfl
@[simp] theorem Shuttle.jump_fatalPages (sh : Shuttle) (t : W64) : (sh.jump t).fatalPages = [] := rfl
@[simp] theorem Shuttle.jump_hist (sh : Shuttle) (t : W64) : (sh.jump t).hist = sh.hist := rfl
@[simp] theorem Shuttle.jump_pc (sh : Shuttle) (t : W64) : (sh.jump t).pc = t := rfl
@[simp] theorem Shuttle.stand_idx (sh : Shuttle) (w : Wait) : (sh.stand w).idx = sh.idx := rfl
@[simp] theorem Shuttle.stand_slot (sh : Shuttle) (w : Wait) : (sh.stand w).slot = sh.slot := rfl
@[simp] theorem Shuttle.stand_s (sh : Shuttle) (w : Wait) : (sh.stand w).s = sh.s := rfl
@[simp] theorem Shuttle.stand_k (sh : Shuttle) (w : Wait) : (sh.stand w).k = sh.k := rfl
@[simp] theorem Shuttle.stand_m (sh : Shuttle) (w : Wait) : (sh.stand w).m = sh.m := rfl
@[simp] theorem Shuttle.stand_q (sh : Shuttle) (w : Wait) : (sh.stand w).q = sh.q := rfl
@[simp] theorem Shuttle.stand_lat (sh : Shuttle) (w : Wait) : (sh.stand w).lat = sh.lat := rfl
@[simp] theorem Shuttle.stand_latOk (sh : Shuttle) (w : Wait) : (sh.stand w).latOk = sh.latOk := rfl
@[simp] theorem Shuttle.stand_v (sh : Shuttle) (w : Wait) : (sh.stand w).v = sh.v := rfl
@[simp] theorem Shuttle.stand_pc (sh : Shuttle) (w : Wait) : (sh.stand w).pc = sh.pc := rfl
@[simp] theorem Shuttle.stand_queue (sh : Shuttle) (w : Wait) : (sh.stand w).queue = sh.queue := rfl
@[simp] theorem Shuttle.stand_pend (sh : Shuttle) (w : Wait) : (sh.stand w).pend = sh.pend := rfl
@[simp] theorem Shuttle.stand_resv (sh : Shuttle) (w : Wait) : (sh.stand w).resv = sh.resv := rfl
@[simp] theorem Shuttle.stand_handler (sh : Shuttle) (w : Wait) : (sh.stand w).handler = sh.handler := rfl
@[simp] theorem Shuttle.stand_trap (sh : Shuttle) (w : Wait) : (sh.stand w).trap = sh.trap := rfl
@[simp] theorem Shuttle.stand_held (sh : Shuttle) (w : Wait) : (sh.stand w).held = sh.held := rfl
@[simp] theorem Shuttle.stand_laneTrap (sh : Shuttle) (w : Wait) : (sh.stand w).laneTrap = sh.laneTrap := rfl
@[simp] theorem Shuttle.stand_deferred (sh : Shuttle) (w : Wait) : (sh.stand w).deferred = sh.deferred := rfl
@[simp] theorem Shuttle.stand_status (sh : Shuttle) (w : Wait) : (sh.stand w).status = sh.status := rfl
@[simp] theorem Shuttle.stand_record (sh : Shuttle) (w : Wait) : (sh.stand w).record = sh.record := rfl
@[simp] theorem Shuttle.stand_waitPages (sh : Shuttle) (w : Wait) : (sh.stand w).waitPages = sh.waitPages := rfl
@[simp] theorem Shuttle.stand_fatalPages (sh : Shuttle) (w : Wait) : (sh.stand w).fatalPages = sh.fatalPages := rfl
@[simp] theorem Shuttle.stand_hist (sh : Shuttle) (w : Wait) : (sh.stand w).hist = sh.hist := rfl

/-- The hard-wired register reads as the manual says (R70). -/
@[simp] theorem Shuttle.readS_zero (sh : Shuttle) : sh.readS 0 = 0 := rfl

/-- A write to the hard-wired register is discarded (R70). -/
@[simp] theorem Shuttle.writeS_zero (sh : Shuttle) (v : W64) : sh.writeS 0 v = sh := rfl

/-- A register reads as it was last written (R70). -/
theorem Shuttle.readS_write_same (sh : Shuttle) {r : SReg} (v : W64) (h : r ≠ 0) : (sh.writeS r v).readS r = v := by
  unfold Shuttle.writeS Shuttle.readS
  rw [if_neg h, if_neg h]
  exact vget_set_same _ r v

/-- A write to one register leaves every other. -/
theorem Shuttle.readS_write_ne (sh : Shuttle) {r q : SReg} (v : W64) (h : q ≠ r) : (sh.writeS r v).readS q = sh.readS q := by
  unfold Shuttle.writeS Shuttle.readS
  split
  · rfl
  · split
    · rfl
    · exact vget_set_ne _ v h

/-- The hard-wired register reads as the manual says (R70). -/
@[simp] theorem Shuttle.readK_zero (sh : Shuttle) : sh.readK 0 = true := rfl

/-- A write to the hard-wired register is discarded (R70). -/
@[simp] theorem Shuttle.writeK_zero (sh : Shuttle) (v : Bool) : sh.writeK 0 v = sh := rfl

/-- A register reads as it was last written (R70). -/
theorem Shuttle.readK_write_same (sh : Shuttle) {r : KReg} (v : Bool) (h : r ≠ 0) : (sh.writeK r v).readK r = v := by
  unfold Shuttle.writeK Shuttle.readK
  rw [if_neg h, if_neg h]
  exact vget_set_same _ r v

/-- A write to one register leaves every other. -/
theorem Shuttle.readK_write_ne (sh : Shuttle) {r q : KReg} (v : Bool) (h : q ≠ r) : (sh.writeK r v).readK q = sh.readK q := by
  unfold Shuttle.writeK Shuttle.readK
  split
  · rfl
  · split
    · rfl
    · exact vget_set_ne _ v h

/-- The hard-wired register reads as the manual says (R70). -/
@[simp] theorem Shuttle.readM_zero (sh : Shuttle) : sh.readM 0 = 0xFF := rfl

/-- A write to the hard-wired register is discarded (R70). -/
@[simp] theorem Shuttle.writeM_zero (sh : Shuttle) (v : BitVec 8) : sh.writeM 0 v = sh := rfl

/-- A register reads as it was last written (R70). -/
theorem Shuttle.readM_write_same (sh : Shuttle) {r : MReg} (v : BitVec 8) (h : r ≠ 0) : (sh.writeM r v).readM r = v := by
  unfold Shuttle.writeM Shuttle.readM
  rw [if_neg h, if_neg h]
  exact vget_set_same _ r v

/-- A write to one register leaves every other. -/
theorem Shuttle.readM_write_ne (sh : Shuttle) {r q : MReg} (v : BitVec 8) (h : q ≠ r) : (sh.writeM r v).readM q = sh.readM q := by
  unfold Shuttle.writeM Shuttle.readM
  split
  · rfl
  · split
    · rfl
    · exact vget_set_ne _ v h

end Sys2Proof.Machine
end

