-- ==== Sys2Proof/Laws/Exec.lean ====
section
/-! SUPPORT. What the shared operations of the meanings can do: the shuttle that executes, completion, waits, checks, and
the raising of a trap. Later proofs cite these and unfold no operation. -/

namespace Sys2Proof.Machine

/-! ## The executing shuttle -/

/-- What `who?` names is the shuttle of `cur` with its block. -/
theorem who?_spec {s : State} {w : Who} (h : s.who? = some w) :
    s.cur = some w.h ∧ s.sh? w.h = some w.sh ∧ s.blk? w.b = some w.blk := by
  unfold State.who? at h
  split at h
  · cases h
  · next hc =>
    split at h
    · next h1 h2 =>
      cases h
      exact ⟨hc, h1, h2⟩
    · cases h

theorem who?_sh {s : State} {w : Who} (h : s.who? = some w) : s.sh? w.h = some w.sh := (who?_spec h).2.1
theorem who?_blk {s : State} {w : Who} (h : s.who? = some w) : s.blk? w.b = some w.blk := (who?_spec h).2.2

/-- A shuttle and its block make `who?`. -/
theorem who?_of {s : State} {h : Nat} {sh : Shuttle} {b : Block} (hc : s.cur = some h) (h1 : s.sh? h = some sh)
    (h2 : s.blk? (blockOf h) = some b) : s.who? = some { h := h, sh := sh, blk := b } := by
  simp [State.who?, hc, h1, h2]

theorem onCur_some {s : State} {w : Who} (h : s.who? = some w) (f : Who → State) : onCur s f = .next (f w) := by
  simp [onCur, h]

theorem onCur_none {s : State} (h : s.who? = none) (f : Who → State) : onCur s f = .fault .noShuttle := by
  simp [onCur, h]

theorem onLane_some {s : State} {w : Who} {r : Run} {rs : List Run} (h : s.who? = some w) (hq : w.sh.queue = r :: rs)
    (f : Who → Run → State) : onLane s f = .next (f w r) := by
  simp [onLane, h, hq]

/-- A shuttle's instruction answers a next state, or nobody executes it. -/
theorem onCur_cases (s : State) (f : Who → State) :
    (∃ w, s.who? = some w ∧ onCur s f = .next (f w)) ∨ (s.who? = none ∧ onCur s f = .fault .noShuttle) := by
  cases h : s.who? with
  | none => exact .inr ⟨rfl, onCur_none h f⟩
  | some w => exact .inl ⟨w, rfl, onCur_some h f⟩

/-! ## Shuttles after a change of one -/

theorem updSh_same {s : State} {h : Nat} {sh : Shuttle} (e : s.sh? h = some sh) (f : Shuttle → Shuttle) :
    (s.updSh h f).sh? h = some (f sh) := by
  show Tab.get? (Tab.upd s.shuttles h f) h = _
  rw [Tab.get?_upd_same]
  show (s.sh? h).map f = _
  rw [e]; rfl

theorem updSh_ne (s : State) {h j : Nat} (f : Shuttle → Shuttle) (e : j ≠ h) : (s.updSh h f).sh? j = s.sh? j :=
  Tab.get?_upd_ne s.shuttles f e

theorem updBlk_same {s : State} {b : Nat} {k : Block} (e : s.blk? b = some k) (f : Block → Block) :
    (s.updBlk b f).blk? b = some (f k) := by
  show Tab.get? (Tab.upd s.blocks b f) b = _
  rw [Tab.get?_upd_same]
  show (s.blk? b).map f = _
  rw [e]; rfl

theorem updBlk_ne (s : State) {b j : Nat} (f : Block → Block) (e : j ≠ b) : (s.updBlk b f).blk? j = s.blk? j :=
  Tab.get?_upd_ne s.blocks f e

@[simp] theorem updCore_same (s : State) (c : Nat) (f : Core → Core) : (s.updCore c f).core c = f (s.core c) :=
  Tab.getD_set_same s.cores c _ _

theorem updCore_ne (s : State) {c j : Nat} (f : Core → Core) (e : j ≠ c) : (s.updCore c f).core j = s.core j :=
  Tab.getD_set_ne s.cores _ _ e

@[simp] theorem updQuad_same (s : State) (q : Nat) (f : Quad → Quad) : (s.updQuad q f).quad q = f (s.quad q) :=
  Tab.getD_set_same s.quads q _ _

@[simp] theorem updDie_same (s : State) (d : Nat) (f : Die → Die) : (s.updDie d f).die d = f (s.die d) :=
  Tab.getD_set_same s.dies d _ _

@[simp] theorem updHub_same (s : State) (n : Nat) (f : Hub → Hub) : (s.updHub n f).hub n = f (s.hub n) :=
  Tab.getD_set_same s.hubs n _ _

@[simp] theorem updPort_same (s : State) (p : Nat) (f : Port → Port) : (s.updPort p f).port p = f (s.port p) :=
  Tab.getD_set_same s.ports p _ _

/-! ## Completion and waits -/

/-- Completion changes the executing shuttle as `f` says and takes it to its next word. -/
theorem complete_self {s : State} {w : Who} (h : s.who? = some w) (f : Shuttle → Shuttle) :
    (s.complete w f).sh? w.h = some (f w.sh).advance := updSh_same (who?_sh h) _

theorem complete_other (s : State) (w : Who) (f : Shuttle → Shuttle) {j : Nat} (h : j ≠ w.h) :
    (s.complete w f).sh? j = s.sh? j := updSh_ne s _ h

theorem waits_self {s : State} {w : Who} (h : s.who? = some w) (why : Wait) :
    (s.waits w why).sh? w.h = some { w.sh with wait := why } := updSh_same (who?_sh h) _

theorem whenDrained_go {s : State} {w : Who} (h : w.sh.drained = true) (k : State) : s.whenDrained w k = k := by
  simp [State.whenDrained, h]

theorem whenDrained_wait {s : State} {w : Who} (h : w.sh.drained = false) (k : State) :
    s.whenDrained w k = s.waits w .other := by
  simp [State.whenDrained, h]

theorem unlessSlot_go {s : State} {w : Who} (h : w.sh.wait ≠ .slot) (k : State) : s.unlessSlot w k = k := by
  simp [State.unlessSlot, h]

theorem needFeature_go {s : State} {w : Who} {n : Nat} (h : declares w.blk n = true) (k : State) :
    s.needFeature w n k = k := by
  simp [State.needFeature, h]

theorem onUnit_go {s : State} {w : Who} (h : declares w.blk 4 = true) (hd : w.sh.drained = true) (k : State) :
    s.onUnit w k = k := by
  simp [State.onUnit, State.needFeature, State.whenDrained, h, hd]

theorem onOwned_go {s : State} {w : Who} {e : EReg} (h : (w.blk.ereg e).owner = some w.sh.idx) (k : State) :
    s.onOwned w e k = k := by
  simp [State.onOwned, h]

theorem onTile_go {s : State} {w : Who} {c : TileReg} (h : c.val < w.blk.kern.ctiles) (k : State) : s.onTile w c k = k := by
  simp [State.onTile, h]

/-! ## Checks -/

theorem access_go {s : State} {w : Who} {write : Bool} {size va pa : Nat} {t : Nat}
    (h : s.check w.blk.site w.blk.ctx w.sh.fatalPages write 5 size [(0, va)] = .go [(t, pa)]) (k : Nat → State) :
    s.access w write size va k = k pa := by
  simp [State.access, h]

theorem access_trap {s : State} {w : Who} {write : Bool} {size va c m a : Nat}
    (h : s.check w.blk.site w.blk.ctx w.sh.fatalPages write 5 size [(0, va)] = .trap c m a) (k : Nat → State) :
    s.access w write size va k = s.raise w { cause := c, tmask := 1, addr := a } := by
  simp [State.access, h]

theorem access_wait {s : State} {w : Who} {write : Bool} {size va : Nat} {ps : List Nat}
    (h : s.check w.blk.site w.blk.ctx w.sh.fatalPages write 5 size [(0, va)] = .wait ps) (k : Nat → State) :
    s.access w write size va k = s.waitsOn w ps := by
  simp [State.access, h]

theorem accessRead_go {s : State} {w : Who} {write : Bool} {size va pa : Nat} {t : Nat}
    (h : s.check w.blk.site w.blk.ctx w.sh.fatalPages write 5 size [(0, va)] = .go [(t, pa)]) (hf : s.farGone pa = false)
    (hp : s.hitsBad w.blk.site w.blk.core pa size = false) (k : Nat → List Byte → State) :
    s.accessRead w write size va k = k pa (s.view w.blk.site w.blk.core pa size) := by
  simp [State.accessRead, access_go h, hf, hp]

theorem accessA_go {s : State} {w : Who} {size addr : Nat} (h1 : addr % 2 ^ 32 + size ≤ w.blk.a.bytes)
    (h2 : addr % 2 ^ 32 % size = 0) (k : Nat → State) : s.accessA w size addr k = k (addr % 2 ^ 32) := by
  show (if addr % 2 ^ 32 + size > w.blk.a.bytes then _ else if (addr % 2 ^ 32 % size != 0) = true then _ else k (addr % 2 ^ 32)) = _
  rw [if_neg (Nat.not_lt.mpr h1), h2]; rfl

theorem judged_ok {α : Type} {s : State} {w : Who} {j : Judged α} {x : α} (h : j = .ok x) (k : α → State) :
    s.judged w j k = k x := by
  subst h; rfl

theorem judged_trap {α : Type} {s : State} {w : Who} {j : Judged α} {r : TrapRec} (h : j = .trap r) (k : α → State) :
    s.judged w j k = s.raise w r := by
  subst h; rfl

theorem judged_wait {α : Type} {s : State} {w : Who} {j : Judged α} {ps : List Nat} (h : j = .wait ps) (k : α → State) :
    s.judged w j k = s.waitsOn w ps := by
  subst h; rfl

theorem laneCheck_nil (s : State) (w : Who) (c : Nat) (k : State) : s.laneCheck w c [] k = k := rfl

theorem laneCheck_cons (s : State) (w : Who) (c t a : Nat) (l : List (Nat × Nat)) (k : State) :
    s.laneCheck w c ((t, a) :: l) k = s.laneTrap w.h c (maskOf (t :: l.map (·.1))) a := rfl

/-! ## Raising -/

/-- A precise control trap in handler mode is Fatal (R341). -/
theorem raise_handler {s : State} {w : Who} (h : w.sh.handler = true) (r : TrapRec) :
    s.raise w r = s.fatalTrap w.h 0x198 { r with code := s.codeHere w, cpc := w.sh.pc.toNat, drain := w.sh.status == .draining } := by
  simp [State.raise, h]

/-- A precise control trap without queued runs and pending traps is held and delivered at once (R77, R340). -/
theorem raise_now {s : State} {w : Who} (h : w.sh.handler = false) (hq : w.sh.queue = []) (hd : w.sh.deferred = []) (r : TrapRec) :
    s.raise w r = (s.updSh w.h fun x => { x with held := some { r with code := s.codeHere w } }).deliver w.h
      { r with code := s.codeHere w } fun x => { x with held := none } := by
  simp [State.raise, h, hq, hd]

/-- A precise control trap waits for the queued runs (R77). -/
theorem raise_held {s : State} {w : Who} {q : Run} {qs : List Run} (h : w.sh.handler = false) (hq : w.sh.queue = q :: qs)
    (r : TrapRec) : s.raise w r = s.updSh w.h fun x =>
      { x with held := some { r with code := s.codeHere w }, wait := .other, waitPages := [], fatalPages := [] } := by
  simp [State.raise, h, hq]

/-! ## Steps -/

theorem step_agenda {s : State} {t : Turn} {ts : List Turn} (h : s.agenda = t :: ts) :
    step s = ((State.clock { s with agenda := ts, tick := s.tick + 1 } 1).plan t).outcome := by
  simp [step, State.nextPlan, State.nextTurn, h]

@[simp] theorem outcome_done (s : State) : (Plan.done s).outcome = .next s := rfl
@[simp] theorem outcome_run (i : Instr) (s : State) : (Plan.run i s).outcome = exec i s := rfl

end Sys2Proof.Machine
end

