-- ==== Sys2Proof/Laws/PerInstr.lean ====
section
/-! SUPPORT. A family of statements about every instruction as syntax: the number of bytes of its words (R28). -/

namespace Sys2Proof.Laws.Length

/-- An instruction that has an encoding has 4 bytes when it is a control word and 12 when it is a lane word (R28). -/
def Statement (i : Instr) : Prop :=
  ∀ bs, encode i = some bs → bs.length = if (encodeCtl i).isSome then 4 else 12

theorem leBytes_length : ∀ (n w : Nat), (leBytes n w).length = n
  | 0, _ => rfl
  | n + 1, w => by simp [leBytes, leBytes_length n]

theorem all (i : Instr) : Statement i := by
  intro bs h
  unfold encode at h
  split at h
  · next w hw =>
    cases h
    simp [hw, wordBytes, leBytes_length]
  · next hn =>
    simp only [Option.map_eq_some_iff] at h
    obtain ⟨w, _, rfl⟩ := h
    simp [hn, wordBytes, leBytes_length]

theorem addReg (d a b : SReg) (t : CType) : Statement (.addReg d a b t) := all _
theorem subReg (d a b : SReg) (t : CType) : Statement (.subReg d a b t) := all _
theorem mulReg (d a b : SReg) (t : CType) : Statement (.mulReg d a b t) := all _
theorem mulh (d a b : SReg) (t : CType) : Statement (.mulh d a b t) := all _
theorem div (d a b : SReg) (t : CType) : Statement (.div d a b t) := all _
theorem rem (d a b : SReg) (t : CType) : Statement (.rem d a b t) := all _
theorem minReg (d a b : SReg) (t : CType) : Statement (.minReg d a b t) := all _
theorem maxReg (d a b : SReg) (t : CType) : Statement (.maxReg d a b t) := all _
theorem andReg (d a b : SReg) (t : CType) : Statement (.andReg d a b t) := all _
theorem orReg (d a b : SReg) (t : CType) : Statement (.orReg d a b t) := all _
theorem xorReg (d a b : SReg) (t : CType) : Statement (.xorReg d a b t) := all _
theorem andn (d a b : SReg) (t : CType) : Statement (.andn d a b t) := all _
theorem shlReg (d a b : SReg) (t : CType) : Statement (.shlReg d a b t) := all _
theorem shrReg (d a b : SReg) (t : CType) : Statement (.shrReg d a b t) := all _
theorem sraReg (d a b : SReg) (t : CType) : Statement (.sraReg d a b t) := all _
theorem rotReg (d a b : SReg) (t : CType) : Statement (.rotReg d a b t) := all _
theorem popcReg (d a : SReg) (t : CType) : Statement (.popcReg d a t) := all _
theorem clzReg (d a : SReg) (t : CType) : Statement (.clzReg d a t) := all _
theorem ctz (d a : SReg) (t : CType) : Statement (.ctz d a t) := all _
theorem addImm (d a : SReg) (i : BitVec 12) : Statement (.addImm d a i) := all _
theorem andImm (d a : SReg) (i : BitVec 12) : Statement (.andImm d a i) := all _
theorem orImm (d a : SReg) (i : BitVec 12) : Statement (.orImm d a i) := all _
theorem xorImm (d a : SReg) (i : BitVec 12) : Statement (.xorImm d a i) := all _
theorem shlImm (d a : SReg) (n : Fin 64) : Statement (.shlImm d a n) := all _
theorem shrImm (d a : SReg) (n : Fin 64) : Statement (.shrImm d a n) := all _
theorem sraImm (d a : SReg) (n : Fin 64) : Statement (.sraImm d a n) := all _
theorem mulImm (d a : SReg) (i : BitVec 12) : Statement (.mulImm d a i) := all _
theorem cmpReg (k : KReg) (a b : SReg) (t : CType) (c : ICond) : Statement (.cmpReg k a b t c) := all _
theorem cmpImm (k : KReg) (a : SReg) (c : ImmCond) (i : BitVec 12) : Statement (.cmpImm k a c i) := all _
theorem lui (d : SReg) (i : BitVec 20) : Statement (.lui d i) := all _
theorem apc (d : SReg) (i : BitVec 20) : Statement (.apc d i) := all _
theorem br (p : KReg) (n : Bool) (o : BitVec 22) : Statement (.br p n o) := all _
theorem call (p : KReg) (n : Bool) (o : BitVec 22) : Statement (.call p n o) := all _
theorem loop (d : SReg) (gt : Bool) (i : BitVec 12) : Statement (.loop d gt i) := all _
theorem jr (a : SReg) : Statement (.jr a) := all _
theorem callr (a : SReg) : Statement (.callr a) := all _
theorem ret (a : SReg) : Statement (.ret a) := all _
theorem lrun (l : BitVec 20) : Statement (.lrun l) := all _
theorem trap (a : SReg) : Statement (.trap a) := all _
theorem mfs (d : SReg) (v : Special) : Statement (.mfs d v) := all _
theorem icinvPkg (a b : SReg) : Statement (.icinvPkg a b) := all _
theorem launch (d a b : SReg) : Statement (.launch d a b) := all _
theorem fence (s : Scope) (pred succ : BitVec 7) : Statement (.fence s pred succ) := all _
theorem kand (d a b : KReg) : Statement (.kand d a b) := all _
theorem kor (d a b : KReg) : Statement (.kor d a b) := all _
theorem kxor (d a b : KReg) : Statement (.kxor d a b) := all _
theorem knot (d a : KReg) : Statement (.knot d a) := all _
theorem ldsG (d a : SReg) (s : LdsU) (i : BitVec 12) : Statement (.ldsG d a s i) := all _
theorem ldsGSigned (d a : SReg) (s : LdsS) (i : BitVec 12) : Statement (.ldsGSigned d a s i) := all _
theorem stsG (d a : SReg) (s : LdsU) (i : BitVec 12) : Statement (.stsG d a s i) := all _
theorem ldsA (d a : SReg) (wide : Bool) (i : BitVec 12) : Statement (.ldsA d a wide i) := all _
theorem stsA (d a : SReg) (wide : Bool) (i : BitVec 12) : Statement (.stsA d a wide i) := all _
theorem lr (d a : SReg) (t : CType) : Statement (.lr d a t) := all _
theorem sc (d a b : SReg) (t : CType) : Statement (.sc d a b t) := all _
theorem amos (d a b : SReg) (t : CType) (f : AmoFn) : Statement (.amos d a b t f) := all _
theorem movsk (d : SReg) : Statement (.movsk d) := all _
theorem movks (a : SReg) : Statement (.movks a) := all _
theorem movsm (d : SReg) (m : MReg) : Statement (.movsm d m) := all _
theorem movms (m : MReg) (a : SReg) : Statement (.movms m a) := all _
theorem csel (d a b : SReg) (p : KReg) (n : Bool) : Statement (.csel d a b p n) := all _
theorem binit (d a b : SReg) : Statement (.binit d a b) := all _
theorem barrive (a b : SReg) : Statement (.barrive a b) := all _
theorem bexpect (a b : SReg) : Statement (.bexpect a b) := all _
theorem bwait (a b : SReg) : Statement (.bwait a b) := all _
theorem btest (d a b : SReg) : Statement (.btest d a b) := all _
theorem empty (w : Bool) (a b : SReg) : Statement (.empty w a b) := all _
theorem gbar (die : Bool) (id : Fin 16) : Statement (.gbar die id) := all _
theorem tdef (n : Fin 1024) (a : SReg) : Statement (.tdef n a) := all _
theorem cpy (d a b : SReg) (m : CopyMods) : Statement (.cpy d a b m) := all _
theorem cpyt (d a b : SReg) (m : CopyMods) : Statement (.cpyt d a b m) := all _
theorem cpyg (d a b : SReg) (m : CopyMods) : Statement (.cpyg d a b m) := all _
theorem cpym (d a b : SReg) (m : CopyMods) : Statement (.cpym d a b m) := all _
theorem cmovCToA (c : TileReg) (a : SReg) : Statement (.cmovCToA c a) := all _
theorem cmovNowait (c : TileReg) (a : SReg) : Statement (.cmovNowait c a) := all _
theorem cmovAToC (c : TileReg) (a : SReg) : Statement (.cmovAToC c a) := all _
theorem czero (c : TileReg) : Statement (.czero c) := all _
theorem mma (c : TileReg) (a b : SReg) (f : MmaFmt) (aten bten : Bool) : Statement (.mma c a b f aten bten) := all _
theorem mgemm (c : TileReg) (a : SReg) (f : MmaFmt) (aten bten : Bool) : Statement (.mgemm c a f aten bten) := all _
theorem mwait (c : TileReg) : Statement (.mwait c) := all _
theorem xclr (e : EReg) (a b : SReg) : Statement (.xclr e a b) := all _
theorem xshift (d s : EReg) (o : OReg) : Statement (.xshift d s o) := all _
theorem xm2l (d s : EReg) (o : OReg) : Statement (.xm2l d s o) := all _
theorem xl2l (d s : EReg) (o : OReg) : Statement (.xl2l d s o) := all _
theorem xadm (k : KReg) (a b : SReg) : Statement (.xadm k a b) := all _
theorem xld (e : EReg) (a : SReg) (local_ : Bool) : Statement (.xld e a local_) := all _
theorem xst (e : EReg) (a : SReg) (local_ : Bool) : Statement (.xst e a local_) := all _
theorem xownTake (k : KReg) (e : EReg) : Statement (.xownTake k e) := all _
theorem xownRel (e : EReg) : Statement (.xownRel e) := all _
theorem ord (o : OReg) (a : SReg) : Statement (.ord o a) := all _
theorem sgjoin (k : KReg) (a : SReg) : Statement (.sgjoin k a) := all _
theorem npenter (a : SReg) : Statement (.npenter a) := all _
theorem send (a b : SReg) : Statement (.send a b) := all _
theorem recvpost (k : KReg) (a b : SReg) : Statement (.recvpost k a b) := all _
theorem rinit (a : SReg) : Statement (.rinit a) := all _
theorem rgrab (d a : SReg) : Statement (.rgrab d a) := all _
theorem cred (d a b : SReg) : Statement (.cred d a b) := all _
theorem credExact (d a b : SReg) : Statement (.credExact d a b) := all _
theorem cmc (d a b : SReg) : Statement (.cmc d a b) := all _
theorem cag (d a b : SReg) : Statement (.cag d a b) := all _
theorem lAdd (h : Head) (t : IType) (sat : Bool) (d : LDst) (a b : LSrc) : Statement (.lAdd h t sat d a b) := all _
theorem lSub (h : Head) (t : IType) (sat : Bool) (d : LDst) (a b : LSrc) : Statement (.lSub h t sat d a b) := all _
theorem lMul (h : Head) (t : IType) (sat : Bool) (d : LDst) (a b : LSrc) : Statement (.lMul h t sat d a b) := all _
theorem lMulhi (h : Head) (t : IType) (d : LDst) (a b : LSrc) : Statement (.lMulhi h t d a b) := all _
theorem lMad (h : Head) (t : IType) (sat : Bool) (d : LDst) (a b c : LSrc) : Statement (.lMad h t sat d a b c) := all _
theorem lMin (h : Head) (t : IType) (d : LDst) (a b : LSrc) : Statement (.lMin h t d a b) := all _
theorem lMax (h : Head) (t : IType) (d : LDst) (a b : LSrc) : Statement (.lMax h t d a b) := all _
theorem lAbs (h : Head) (t : IType) (sat : Bool) (d : LDst) (a : LSrc) : Statement (.lAbs h t sat d a) := all _
theorem lNeg (h : Head) (t : IType) (sat : Bool) (d : LDst) (a : LSrc) : Statement (.lNeg h t sat d a) := all _
theorem lSum3 (h : Head) (t : IType) (sat : Bool) (d : LDst) (a b c : LSrc) : Statement (.lSum3 h t sat d a b c) := all _
theorem lClamp (h : Head) (t : IType) (sat : Bool) (d : LDst) (a b c : LSrc) : Statement (.lClamp h t sat d a b c) := all _
theorem lQdot (h : Head) (signed sat : Bool) (d : LDst) (a b c : LSrc) : Statement (.lQdot h signed sat d a b c) := all _
theorem lHdot (h : Head) (signed sat : Bool) (d : LDst) (a b c : LSrc) : Statement (.lHdot h signed sat d a b c) := all _
theorem lMulfull (h : Head) (signed : Bool) (d : Fin 256) (a b : LSrc) : Statement (.lMulfull h signed d a b) := all _
theorem lAnd (h : Head) (d : LDst) (a b : LSrc) : Statement (.lAnd h d a b) := all _
theorem lOr (h : Head) (d : LDst) (a b : LSrc) : Statement (.lOr h d a b) := all _
theorem lXor (h : Head) (d : LDst) (a b : LSrc) : Statement (.lXor h d a b) := all _
theorem lNot (h : Head) (d : LDst) (a : LSrc) : Statement (.lNot h d a) := all _
theorem lShl (h : Head) (d : LDst) (a b : LSrc) : Statement (.lShl h d a b) := all _
theorem lShr (h : Head) (d : LDst) (a b : LSrc) : Statement (.lShr h d a b) := all _
theorem lSra (h : Head) (signed : Bool) (d : LDst) (a b : LSrc) : Statement (.lSra h signed d a b) := all _
theorem lRot (h : Head) (d : LDst) (a b : LSrc) : Statement (.lRot h d a b) := all _
theorem lPopc (h : Head) (d : LDst) (a : LSrc) : Statement (.lPopc h d a) := all _
theorem lClz (h : Head) (d : LDst) (a : LSrc) : Statement (.lClz h d a) := all _
theorem lBrev (h : Head) (d : LDst) (a : LSrc) : Statement (.lBrev h d a) := all _
theorem lBfx (h : Head) (signed : Bool) (d : LDst) (a b c : LSrc) : Statement (.lBfx h signed d a b c) := all _
theorem lBfi (h : Head) (d : LDst) (a b c : LSrc) : Statement (.lBfi h d a b c) := all _
theorem lBytesel (h : Head) (d : LDst) (a b c : LSrc) : Statement (.lBytesel h d a b c) := all _
theorem lTruth (h : Head) (d : LDst) (a b c : LSrc) (table : BitVec 8) : Statement (.lTruth h d a b c table) := all _
theorem lScadd (h : Head) (d : LDst) (a b : LSrc) (n : Fin 32) : Statement (.lScadd h d a b n) := all _
theorem lFunnel (h : Head) (lo : Bool) (d : LDst) (a b c : LSrc) : Statement (.lFunnel h lo d a b c) := all _
theorem lFadd (h : Head) (t : FType) (r : Rnd) (d : LDst) (a b : LSrc) : Statement (.lFadd h t r d a b) := all _
theorem lFsub (h : Head) (t : FType) (r : Rnd) (d : LDst) (a b : LSrc) : Statement (.lFsub h t r d a b) := all _
theorem lFmul (h : Head) (t : FType) (r : Rnd) (d : LDst) (a b : LSrc) : Statement (.lFmul h t r d a b) := all _
theorem lFma (h : Head) (t : FType) (r : Rnd) (d : LDst) (a b c : LSrc) : Statement (.lFma h t r d a b c) := all _
theorem lFdot2 (h : Head) (bf : Bool) (r : Rnd) (d : LDst) (a b c : LSrc) : Statement (.lFdot2 h bf r d a b c) := all _
theorem lFmin (h : Head) (t : FType) (d : LDst) (a b : LSrc) : Statement (.lFmin h t d a b) := all _
theorem lFmax (h : Head) (t : FType) (d : LDst) (a b : LSrc) : Statement (.lFmax h t d a b) := all _
theorem lFclamp (h : Head) (t : FType) (d : LDst) (a b c : LSrc) : Statement (.lFclamp h t d a b c) := all _
theorem lFabs (h : Head) (t : FType) (d : LDst) (a : LSrc) : Statement (.lFabs h t d a) := all _
theorem lFneg (h : Head) (t : FType) (d : LDst) (a : LSrc) : Statement (.lFneg h t d a) := all _
theorem lFcpsgn (h : Head) (t : FType) (d : LDst) (a b : LSrc) : Statement (.lFcpsgn h t d a b) := all _
theorem lFrnd (h : Head) (t : FType) (r : Rnd) (d : LDst) (a : LSrc) : Statement (.lFrnd h t r d a) := all _
theorem lFdiv (h : Head) (d : LDst) (a b : LSrc) : Statement (.lFdiv h d a b) := all _
theorem lFsqrt (h : Head) (d : LDst) (a : LSrc) : Statement (.lFsqrt h d a) := all _
theorem lFrcp (h : Head) (d : LDst) (a : LSrc) : Statement (.lFrcp h d a) := all _
theorem lFrsq (h : Head) (d : LDst) (a : LSrc) : Statement (.lFrsq h d a) := all _
theorem lFexp2 (h : Head) (d : LDst) (a : LSrc) : Statement (.lFexp2 h d a) := all _
theorem lFlog2 (h : Head) (d : LDst) (a : LSrc) : Statement (.lFlog2 h d a) := all _
theorem lFsin (h : Head) (d : LDst) (a : LSrc) : Statement (.lFsin h d a) := all _
theorem lFcos (h : Head) (d : LDst) (a : LSrc) : Statement (.lFcos h d a) := all _
theorem lFldexp (h : Head) (r : Rnd) (d : LDst) (a b : LSrc) : Statement (.lFldexp h r d a b) := all _
theorem lFclass (h : Head) (d : LDst) (a : LSrc) : Statement (.lFclass h d a) := all _
theorem lCvt (h : Head) (df sf : Fmt) (r : Rnd) (sat : Bool) (d : LDst) (a : LSrc) : Statement (.lCvt h df sf r sat d a) := all _
theorem lCvtpk (h : Head) (df sf : Fmt) (r : Rnd) (sat : Bool) (d : LDst) (a b : LSrc) : Statement (.lCvtpk h df sf r sat d a b) := all _
theorem lQblk (h : Head) (df : Fmt) (r : Rnd) (sat : Bool) (d : LDst) (a b : LSrc) : Statement (.lQblk h df r sat d a b) := all _
theorem lDqblk (h : Head) (sf : Fmt) (d : LDst) (a b : LSrc) : Statement (.lDqblk h sf d a b) := all _
theorem lIcmp (h : Head) (t : IType) (c : ICond) (d : MReg) (a b : LSrc) : Statement (.lIcmp h t c d a b) := all _
theorem lFcmp (h : Head) (t : FType) (c : FCond) (d : MReg) (a b : LSrc) : Statement (.lFcmp h t c d a b) := all _
theorem lSel (h : Head) (d : LDst) (a b : LSrc) (m : MReg) : Statement (.lSel h d a b m) := all _
theorem lMlogic (h : Head) (f : MFn) (d a b : MReg) : Statement (.lMlogic h f d a b) := all _
theorem lPass (h : Head) (m : PassMode) (d : LDst) (a b : LSrc) : Statement (.lPass h m d a b) := all _
theorem lVote (h : Head) (f : VoteFn) (d : SReg) (a : MReg) : Statement (.lVote h f d a) := all _
theorem lRed (h : Head) (f : RedFn) (d : SReg) (a : LSrc) : Statement (.lRed h f d a) := all _
theorem lScan (h : Head) (signed excl : Bool) (d : LDst) (a : LSrc) : Statement (.lScan h signed excl d a) := all _
theorem lMov (h : Head) (d : LDst) (a : LSrc) : Statement (.lMov h d a) := all _
theorem lLtid (h : Head) (d : LDst) : Statement (.lLtid h d) := all _
theorem lNop (bnd : Bool) : Statement (.lNop bnd) := all _
theorem lLd (h : Head) (t : MType) (mc : MemCtl) (d : LDst) (a : LSrc) (off : W32) : Statement (.lLd h t mc d a off) := all _
theorem lSt (h : Head) (t : MType) (mc : MemCtl) (a b : LSrc) (off : W32) : Statement (.lSt h t mc a b off) := all _
theorem lLdw (h : Head) (t : MType) (wf clr : Bool) (d : LDst) (a : LSrc) (off : W32) : Statement (.lLdw h t wf clr d a off) := all _
theorem lLdg (h : Head) (wide : Bool) (d : LDst) (a : SReg) (b : LSrc) (off : W32) : Statement (.lLdg h wide d a b off) := all _
theorem lBld (h : Head) (d : LDst) (rec : SReg) (b : LSrc) (off : W32) : Statement (.lBld h d rec b off) := all _
theorem lBst (h : Head) (rec : SReg) (b c : LSrc) (off : W32) : Statement (.lBst h rec b c off) := all _
theorem lAmo (h : Head) (f : AmoFn) (signed : Bool) (sp : LSpace) (d : LDst) (a b : LSrc) (off : W32) : Statement (.lAmo h f signed sp d a b off) := all _
theorem lAmo3 (h : Head) (f : Amo3Fn) (signed : Bool) (sp : LSpace) (res : MReg) (d : LDst) (a b c : LSrc) : Statement (.lAmo3 h f signed sp res d a b c) := all _
theorem lRld (h : Head) (t : MType) (d : LDst) (a b c : LSrc) (off : W32) : Statement (.lRld h t d a b c off) := all _
theorem lXform (h : Head) (e : EReg) (o : OReg) (a b c : LSrc) : Statement (.lXform h e o a b c) := all _
theorem lXeval (h : Head) (d : Fin 256) (e : EReg) (o : OReg) (a b : LSrc) : Statement (.lXeval h d e o a b) := all _
theorem lXnear (h : Head) (a b : LSrc) (off : W32) : Statement (.lXnear h a b off) := all _
theorem runReady (h : Nat) : Statement (.runReady h) := all _
theorem laneArbitration (c lane : Nat) : Statement (.laneArbitration c lane) := all _
theorem runEnd (h : Nat) : Statement (.runEnd h) := all _
theorem breakerStage1 (c : Nat) : Statement (.breakerStage1 c) := all _
theorem breakerStage2 (c : Nat) : Statement (.breakerStage2 c) := all _
theorem drainEnd (h : Nat) : Statement (.drainEnd h) := all _
theorem blockAdmission (b : Nat) : Statement (.blockAdmission b) := all _
theorem dispatchPlace (p : Nat) : Statement (.dispatchPlace p) := all _
theorem dispatchReservation (p : Nat) : Statement (.dispatchReservation p) := all _
theorem priorityPreemption (p : Nat) : Statement (.priorityPreemption p) := all _
theorem wfWaitRelease (h : Nat) : Statement (.wfWaitRelease h) := all _
theorem fullEmptyWaitExpired (h : Nat) : Statement (.fullEmptyWaitExpired h) := all _
theorem copySlotAccept (c : Nat) : Statement (.copySlotAccept c) := all _
theorem copyStart (c : Nat) : Statement (.copyStart c) := all _
theorem copyComplete (c i : Nat) : Statement (.copyComplete c i) := all _
theorem copyFailure (c i : Nat) (why : CopyFail) : Statement (.copyFailure c i why) := all _
theorem peerPacketArrival (i : Nat) : Statement (.peerPacketArrival i) := all _
theorem mmaSlotAccept (c : Nat) : Statement (.mmaSlotAccept c) := all _
theorem followOnAccept (c i : Nat) : Statement (.followOnAccept c i) := all _
theorem matrixFetch (c : Nat) : Statement (.matrixFetch c) := all _
theorem matrixFetchResume (c : Nat) : Statement (.matrixFetchResume c) := all _
theorem matrixFetchFatal (c : Nat) : Statement (.matrixFetchFatal c) := all _
theorem matrixCompute (c : Nat) : Statement (.matrixCompute c) := all _
theorem matrixRetire (c : Nat) : Statement (.matrixRetire c) := all _
theorem mgemmStep (c : Nat) : Statement (.mgemmStep c) := all _
theorem mgemmCopies (c : Nat) : Statement (.mgemmCopies c) := all _
theorem mgemmStop (c : Nat) : Statement (.mgemmStop c) := all _
theorem translationEvict (i : Nat) : Statement (.translationEvict i) := all _
theorem preemptBlock (b : Nat) : Statement (.preemptBlock b) := all _
theorem fetchFaultSwap (h : Nat) : Statement (.fetchFaultSwap h) := all _
theorem blockResume (b : Nat) : Statement (.blockResume b) := all _
theorem npEntryComplete (c : Nat) : Statement (.npEntryComplete c) := all _
theorem stepNotice (c : Nat) : Statement (.stepNotice c) := all _
theorem stepAdvance (c : Nat) : Statement (.stepAdvance c) := all _
theorem npExitComplete (c : Nat) : Statement (.npExitComplete c) := all _
theorem rldWaitEnd (h : Nat) : Statement (.rldWaitEnd h) := all _
theorem stepWaitExpired (h : Nat) : Statement (.stepWaitExpired h) := all _
theorem rldTargetGone (h : Nat) : Statement (.rldTargetGone h) := all _
theorem packetRoute (i : Nat) : Statement (.packetRoute i) := all _
theorem routerGrant (site quad out : Nat) : Statement (.routerGrant site quad out) := all _
theorem messageArrival (i : Nat) : Statement (.messageArrival i) := all _
theorem messageResend (c : Nat) : Statement (.messageResend c) := all _
theorem sendSlotAccept (c : Nat) : Statement (.sendSlotAccept c) := all _
theorem congestionWindow (site quad : Nat) : Statement (.congestionWindow site quad) := all _
theorem rangeSlotAccept (site : Nat) : Statement (.rangeSlotAccept site) := all _
theorem globalWritePerformed (i : Nat) : Statement (.globalWritePerformed i) := all _
theorem cacheRevalidate (c line : Nat) : Statement (.cacheRevalidate c line) := all _
theorem collectiveNewUse (hub gid : Nat) : Statement (.collectiveNewUse hub gid) := all _
theorem collectiveSlotAccept (hub : Nat) : Statement (.collectiveSlotAccept hub) := all _
theorem collectiveSourceRead (i : Nat) : Statement (.collectiveSourceRead i) := all _
theorem collectiveResultWrite (i : Nat) : Statement (.collectiveResultWrite i) := all _
theorem laneRepair (port : Nat) : Statement (.laneRepair port) := all _
theorem trapDelivery (h : Nat) : Statement (.trapDelivery h) := all _
theorem deferredTrapDelivery (h : Nat) : Statement (.deferredTrapDelivery h) := all _
theorem fatalEnd (b : Nat) : Statement (.fatalEnd b) := all _
theorem joinNegotiation (site : Nat) (record : BitVec 128) (failed : List Nat) : Statement (.joinNegotiation site record failed) := all _
theorem cmdLaunch (p : Nat) : Statement (.cmdLaunch p) := all _
theorem cmdPreemptGranule (p : Nat) : Statement (.cmdPreemptGranule p) := all _
theorem cmdHaltAndCapture (p : Nat) : Statement (.cmdHaltAndCapture p) := all _
theorem cmdResume (p : Nat) : Statement (.cmdResume p) := all _
theorem cmdRefused (p : Nat) : Statement (.cmdRefused p) := all _
theorem launchEligible (p q : Nat) : Statement (.launchEligible p q) := all _
theorem launchComplete (l : Nat) : Statement (.launchComplete l) := all _
theorem powerOnBringup (hubGood : Bool) (present : List Nat) (pkg : Nat) : Statement (.powerOnBringup hubGood present pkg) := all _
theorem illegalInstruction (slot : Fin 8) : Statement (.illegalInstruction slot) := all _
theorem translationReplace (i : Nat) : Statement (.translationReplace i) := all _
theorem faultDeclaredFatal (i : Nat) : Statement (.faultDeclaredFatal i) := all _
theorem invalidateCommand (cx lo len : Nat) : Statement (.invalidateCommand cx lo len) := all _
theorem translateRegion (reed : Bool) (cx lo words : Nat) : Statement (.translateRegion reed cx lo words) := all _
theorem haltAndCapture (p : Nat) : Statement (.haltAndCapture p) := all _
theorem captureResume (p : Nat) : Statement (.captureResume p) := all _
theorem rangeClaim (p site r cx : Nat) : Statement (.rangeClaim p site r cx) := all _
theorem partialWriteError (i : Nat) : Statement (.partialWriteError i) := all _
theorem patrolScrub (line : Nat) : Statement (.patrolScrub line) := all _
theorem farTierLoss (hub : Nat) : Statement (.farTierLoss hub) := all _
theorem collectivePacketArrival (hub part : Nat) (fn : Fin 4) (desc : W64) (data : List Byte) : Statement (.collectivePacketArrival hub part fn desc data) := all _
theorem linkBurstReceive (port seq ack : Nat) (flits : List Nat) (crc : BitVec 32) (lane : Nat) : Statement (.linkBurstReceive port seq ack flits crc lane) := all _
theorem replayRequest (port seq : Nat) : Statement (.replayRequest port seq) := all _
theorem packageLost (pkg : Nat) : Statement (.packageLost pkg) := all _
theorem machineCheck (e : MachineEvent) : Statement (.machineCheck e) := all _
theorem fenceUnit (u : FenceTarget) (cause : Nat) : Statement (.fenceUnit u cause) := all _
theorem dieOffline (site : Nat) : Statement (.dieOffline site) := all _
theorem contextEntryValid (p idx : Nat) (e : CtxEntry) : Statement (.contextEntryValid p idx e) := all _
theorem hostWindowWrite (p off : Nat) (data : List Byte) : Statement (.hostWindowWrite p off data) := all _
theorem hostBar2Access (write : Bool) (off n : Nat) (data : List Byte) : Statement (.hostBar2Access write off n data) := all _
theorem mbBuildPartition (image : List Byte) (plan : SuperPlan) : Statement (.mbBuildPartition image plan) := all _
theorem mbUnknownOp (op : BitVec 8) : Statement (.mbUnknownOp op) := all _
theorem registerWrite (off : Nat) (v : W64) : Statement (.registerWrite off v) := all _
theorem powerWindow (m : PowerSample) : Statement (.powerWindow m) := all _
theorem powerThermalEmergency (m : PowerSample) : Statement (.powerThermalEmergency m) := all _
theorem telemetryUpdate (temps : List Nat) : Statement (.telemetryUpdate temps) := all _
theorem fetchPoisoned (h : Nat) : Statement (.fetchPoisoned h) := all _
theorem syncrun : Statement (.syncrun) := all _
theorem yield : Statement (.yield) := all _
theorem halt : Statement (.halt) := all _
theorem eret : Statement (.eret) := all _
theorem sgleave : Statement (.sgleave) := all _
theorem npexit : Statement (.npexit) := all _
theorem stepdone : Statement (.stepdone) := all _
theorem faultService : Statement (.faultService) := all _
theorem spaceRecovered : Statement (.spaceRecovered) := all _
theorem mbReadGenerationRecord : Statement (.mbReadGenerationRecord) := all _
theorem mbDissolvePartition : Statement (.mbDissolvePartition) := all _
theorem mbSetPowerCap : Statement (.mbSetPowerCap) := all _
theorem mbReadErrorLog : Statement (.mbReadErrorLog) := all _
theorem mbStageFirmware : Statement (.mbStageFirmware) := all _
theorem mbAttestationQuote : Statement (.mbAttestationQuote) := all _
theorem mbReadmitDie : Statement (.mbReadmitDie) := all _
theorem mailboxCommandEnd : Statement (.mailboxCommandEnd) := all _

end Sys2Proof.Laws.Length
end

