-- ==== Sys2Proof/Safety.lean ====
section
/-! DEFINITION. A safe run: the machine never stops with a fault or a refusal. -/

namespace Sys2Proof.Machine

/-- The next step gives a next state. -/
def State.stepsOn (s : State) : Prop := ∃ s', step s = .next s'

/-- The state after `k` steps, when every one of them gives a next state. -/
def State.after (s : State) : Nat → Option State
  | 0 => some s
  | k + 1 =>
    match step s with
    | .next s' => State.after s' k
    | .fault _ => none
    | .refused _ => none

/-- A run is safe for `k` steps. -/
def State.safeFor (s : State) (k : Nat) : Prop := (s.after k).isSome = true

end Sys2Proof.Machine
end

