-- ==== Sys2Proof/Tests/Slice0.lean ====
section
/-! SUPPORT. Tests: ill-formed terms, words written out from the spec's encodings, small steps, and for each statement that
has hypotheses a state and operands that meet them. -/

namespace Sys2Proof.Tests

set_option Elab.async false

open Sys2Proof Sys2Proof.Machine

/-! ## Well-formedness: for each check an ill-formed term that it refuses -/

theorem test_wf_refuses_control : [
    (.andReg 1 2 3 .n64 : Instr), .popcReg 1 2 .s32, .sraReg 1 2 3 .n64, .cmpReg 0 1 2 .s64 .eq, .cmpImm 0 1 .eq 0,
    .br 0 true 0, .call 0 true 1, .kand 0 1 2, .knot 0 1, .movms 0 1, .cpy 1 2 3 ⟨true, false, .lane⟩,
    .cpyt 1 2 3 ⟨false, false, .pkg⟩, .mgemm 1 6 .s8 false false, .mgemm 1 0 .s8 false false, .npenter 5, .rinit 0,
    .xadm 0 1 2].all (!·.wf) = true := by decide

theorem test_wf_refuses_lane :
    let h : Head := ⟨false, 0, false⟩
    let v (n : Fin 256) : LSrc := .main n false
    let mc (sp : LSpace) (st : Option StepQ) (wf clr inv : Bool) : MemCtl := ⟨sp, st, wf, clr, inv⟩
    [(.lMov ⟨false, 0, true⟩ .lat (v 1) : Instr), .lAdd h .s32 false .lat (.imm 1) (.imm 2), .lMulfull h true 3 (v 1) (v 2),
      .lTruth h .lat (v 1) (.imm 0xF8) (v 2) 0xF8, .lCvtpk h .f32 .f32 .rne false .lat (v 1) (v 2),
      .lCvtpk h .s8 .f16 .rne false .lat (v 1) (v 2), .lQblk h .f16 .rne false .lat (v 1) (v 2), .lDqblk h .s8 .lat (v 1) (v 2),
      .lIcmp h .s32 .eq 0 (v 1) (v 2), .lFcmp h .f32 .eq 0 (v 1) (v 2), .lMlogic h .and 0 1 2,
      .lLd h .b64 (mc .a none false false false) (.main 3) (v 2) 0, .lLd h .b64 (mc .a none false false false) .lat (v 2) 0,
      .lLd h .b32 (mc .w none false false false) .lat (v 2) 0, .lLd h .b32 (mc .g none true false false) .lat (v 2) 0,
      .lLd h .b32 (mc .a none false true false) .lat (v 2) 0, .lLd h .b32 (mc .a none false false true) .lat (v 2) 0,
      .lLd h .b32 (mc .g (some ⟨false, 1⟩) false false false) .lat (v 2) 0,
      .lLd h .b32 (mc .a (some ⟨true, 0⟩) false false false) .lat (v 2) 0, .lLd h .b32 (mc .g none false false false) .lat (v 3) 0,
      .lSt h .b32 (mc .a none false true false) (v 2) (v 3) 0, .lSt h .b32 (mc .g none false false true) (v 2) (v 3) 0,
      .lSt h .b128 (mc .a none false false false) (v 2) (v 6) 0, .lLdw h .b32 false true .lat (v 1) 0,
      .lLdg h true (.main 5) 4 (v 2) 0, .lLdg h false .lat 4 (.imm 2) 0, .lBld h .lat 5 (v 2) 0, .lBst h 4 (v 2) (.imm 1) 0,
      .lAmo h .add true .w .lat (v 2) (v 3) 0, .lAmo3 h .cas true .a 0 .lat (v 2) (v 3) (.imm 4), .lRld h .b32 .lat (.imm 1) (v 2) (v 3) 0,
      .lXform h 0 0 (.imm 1) (v 2) (v 3), .lXeval h 6 0 0 (v 2) (v 3), .lXnear h (.imm 1) (v 2) 0].all (!·.wf) = true := by decide

/-! ## Words: for each instruction one, put together from Tables 1 to 8 of the encoding -/

/-- Words that no encoding makes an instruction, with the slot of Table 9: a reserved major, a reserved control type of a bit
function, a reserved bit, a special value that is not listed, a lane op that is reserved, an unused operand that is not zero. -/
theorem test_words_illegal : decodeCtl 0x00000000 = .error 0 ∧ decodeCtl 0x04000048 = .error 0 ∧
    decodeCtl 0x34001001 = .error 3 ∧ decodeCtl 0x34000D05 = .error 3 ∧ decodeLane 0x360000000000000000000000 = .error 0 ∧
    decodeLane 0x700000000000000000000001 = .error 0 := by
  and_intros <;> rfl

/-- Words of R41 major 0x01, the control types of R33, one for each instruction. -/
theorem test_words_scalar_arithmetic :
    decodeCtl 0x04152840 = .ok (.addReg 1 20 40 .n64) ∧
    decodeCtl 0x04256981 = .ok (.subReg 2 21 41 .s32) ∧
    decodeCtl 0x0435AAC2 = .ok (.mulReg 3 22 42 .n32) ∧
    decodeCtl 0x0445EB03 = .ok (.mulh 4 23 43 .s64) ∧
    decodeCtl 0x04562C44 = .ok (.div 5 24 44 .n64) ∧
    decodeCtl 0x04666D85 = .ok (.rem 6 25 45 .s32) ∧
    decodeCtl 0x0476AEC6 = .ok (.minReg 7 26 46 .n32) ∧
    decodeCtl 0x0486EF07 = .ok (.maxReg 8 27 47 .s64) := by
  and_intros <;> rfl

/-- Words of R41 major 0x01, bit functions, shifts and counts, one for each instruction. -/
theorem test_words_scalar_bits :
    decodeCtl 0x04973008 = .ok (.andReg 9 28 48 .s64) ∧
    decodeCtl 0x04A771C9 = .ok (.orReg 10 29 49 .n32) ∧
    decodeCtl 0x04B7B20A = .ok (.xorReg 11 30 50 .s64) ∧
    decodeCtl 0x04C7F3CB = .ok (.andn 12 31 51 .n32) ∧
    decodeCtl 0x04D8340C = .ok (.shlReg 13 32 52 .s64) ∧
    decodeCtl 0x04E875CD = .ok (.shrReg 14 33 53 .n32) ∧
    decodeCtl 0x04F8B68E = .ok (.sraReg 15 34 54 .s32) ∧
    decodeCtl 0x0508F7CF = .ok (.rotReg 16 35 55 .n32) ∧
    decodeCtl 0x051FC010 = .ok (.popcReg 17 63 .s64) ∧
    decodeCtl 0x052F80D1 = .ok (.clzReg 18 62 .n32) ∧
    decodeCtl 0x053F40D2 = .ok (.ctz 19 61 .n32) := by
  and_intros <;> rfl

/-- Words of R41 majors 0x02, 0x03, 0x05 to 0x07, one for each instruction. -/
theorem test_words_scalar_immediates :
    decodeCtl 0x09484801 = .ok (.addImm 20 33 0x801#12) ∧
    decodeCtl 0x09589FF8 = .ok (.andImm 21 34 0xFF8#12) ∧
    decodeCtl 0x0968E123 = .ok (.orImm 22 35 0x123#12) ∧
    decodeCtl 0x09793ABC = .ok (.xorImm 23 36 0xABC#12) ∧
    decodeCtl 0x0D897FFF = .ok (.mulImm 24 37 0xFFF#12) ∧
    decodeCtl 0x0D99803F = .ok (.shlImm 25 38 63) ∧
    decodeCtl 0x0DA9D001 = .ok (.shrImm 26 39 1) ∧
    decodeCtl 0x0DBA2020 = .ok (.sraImm 27 40 32) ∧
    decodeCtl 0x19C80001 = .ok (.lui 28 0x80001#20) ∧
    decodeCtl 0x1DD7FFFE = .ok (.apc 29 0x7FFFE#20) ∧
    decodeCtl 0x145A7800 = .ok (.cmpImm 5 41 .ltN 0x800#12) ∧
    decodeCtl 0x107AAB45 = .ok (.cmpReg 7 42 43 .n64 .ge) := by
  and_intros <;> rfl

/-- Words of R41 majors 0x08 to 0x0E, one for each instruction. -/
theorem test_words_transfers_and_system :
    decodeCtl 0x21E00001 = .ok (.br 3 true 0x200001#22) ∧
    decodeCtl 0x243FFFFF = .ok (.call 0 false 0x3FFFFF#22) ∧
    decodeCtl 0x28B00800 = .ok (.loop 11 false 0x800#12) ∧
    decodeCtl 0x2C0FC000 = .ok (.jr 63) ∧
    decodeCtl 0x2C030001 = .ok (.callr 12) ∧
    decodeCtl 0x2C034002 = .ok (.ret 13) ∧
    decodeCtl 0x300FFFFE = .ok (.lrun 0xFFFFE#20) ∧
    decodeCtl 0x34000000 = .ok .syncrun ∧
    decodeCtl 0x34000001 = .ok .yield ∧
    decodeCtl 0x34000002 = .ok .halt ∧
    decodeCtl 0x34000003 = .ok .eret ∧
    decodeCtl 0x34038004 = .ok (.trap 14) ∧
    decodeCtl 0x34F00C05 = .ok (.mfs 15 .gen) ∧
    decodeCtl 0x34041106 = .ok (.icinvPkg 16 17) ∧
    decodeCtl 0x3524D407 = .ok (.launch 18 19 20) ∧
    decodeCtl 0x3A905100 = .ok (.fence .pod 0x41#7 0x22#7) := by
  and_intros <;> rfl

/-- Words of R41 majors 0x0F to 0x16, one for each instruction. -/
theorem test_words_predicates_and_memory :
    decodeCtl 0x3C108300 = .ok (.kand 1 2 3) ∧
    decodeCtl 0x3C414601 = .ok (.kor 4 5 6) ∧
    decodeCtl 0x3C700102 = .ok (.kxor 7 0 1) ∧
    decodeCtl 0x3C20C003 = .ok (.knot 2 3) ∧
    decodeCtl 0x4155BFF8 = .ok (.ldsG 21 22 .b64 0xFF8#12) ∧
    decodeCtl 0x457617FF = .ok (.ldsGSigned 23 24 .s16 0x7FF#12) ∧
    decodeCtl 0x4996A004 = .ok (.stsG 25 26 .n32 0x004#12) ∧
    decodeCtl 0x4DB71008 = .ok (.ldsA 27 28 true 0x008#12) ∧
    decodeCtl 0x4DD7A00C = .ok (.stsA 29 30 false 0x00C#12) ∧
    decodeCtl 0x51F800C0 = .ok (.lr 31 32 .n32) ∧
    decodeCtl 0x5218A301 = .ok (.sc 33 34 35 .s64) ∧
    decodeCtl 0x5249668F = .ok (.amos 36 37 38 .s32 .incw) ∧
    decodeCtl 0x56700000 = .ok (.movsk 39) ∧
    decodeCtl 0x540A0001 = .ok (.movks 40) ∧
    decodeCtl 0x56914002 = .ok (.movsm 41 5) ∧
    decodeCtl 0x546A8003 = .ok (.movms 6 42) ∧
    decodeCtl 0x5ABB2D0E = .ok (.csel 43 44 45 6 true) := by
  and_intros <;> rfl

/-- Words of R41 majors 0x18 to 0x22, one for each instruction. -/
theorem test_words_barriers_copies_tiles :
    decodeCtl 0x60108300 = .ok (.binit 1 2 3) ∧
    decodeCtl 0x60010501 = .ok (.barrive 4 5) ∧
    decodeCtl 0x60018702 = .ok (.bexpect 6 7) ∧
    decodeCtl 0x60020903 = .ok (.bwait 8 9) ∧
    decodeCtl 0x60A2CC04 = .ok (.btest 10 11 12) ∧
    decodeCtl 0x60234E05 = .ok (.empty true 13 14) ∧
    decodeCtl 0x64000F03 = .ok (.gbar true 15) ∧
    decodeCtl 0x680403FF = .ok (.tdef 1023 16) ∧
    decodeCtl 0x6D14934C = .ok (.cpy 17 18 19 ⟨true, true, .pkg⟩) ∧
    decodeCtl 0x6D455659 = .ok (.cpyt 20 21 22 ⟨false, true, .pod⟩) ∧
    decodeCtl 0x6D761916 = .ok (.cpyg 23 24 25 ⟨true, false, .core⟩) ∧
    decodeCtl 0x6DA6DC03 = .ok (.cpym 26 27 28 ⟨false, false, .lane⟩) ∧
    decodeCtl 0x71F74000 = .ok (.cmovCToA 31 29) ∧
    decodeCtl 0x71E78001 = .ok (.cmovNowait 30 30) ∧
    decodeCtl 0x71D7C002 = .ok (.cmovAToC 29 31) ∧
    decodeCtl 0x71C00003 = .ok (.czero 28) ∧
    decodeCtl 0x81B82112 = .ok (.mma 27 32 33 .e5m2 false true) ∧
    decodeCtl 0x85AF000D = .ok (.mgemm 26 60 .s8 true false) ∧
    decodeCtl 0x89900000 = .ok (.mwait 25) := by
  and_intros <;> rfl

/-- Words of R41 majors 0x28 to 0x34, one for each instruction. -/
theorem test_words_expansion_sharing_messages :
    decodeCtl 0xA1F04200 = .ok (.xclr 31 1 2) ∧
    decodeCtl 0xA1E74301 = .ok (.xshift 30 29 3) ∧
    decodeCtl 0xA1C6C202 = .ok (.xm2l 28 27 2) ∧
    decodeCtl 0xA1A64103 = .ok (.xl2l 26 25 1) ∧
    decodeCtl 0xA070C404 = .ok (.xadm 7 3 4) ∧
    decodeCtl 0xA1814105 = .ok (.xld 24 5 true) ∧
    decodeCtl 0xA1718006 = .ok (.xst 23 6 false) ∧
    decodeCtl 0xA0658007 = .ok (.xownTake 6 22) ∧
    decodeCtl 0xA0054107 = .ok (.xownRel 21) ∧
    decodeCtl 0xA031C008 = .ok (.ord 3 7) ∧
    decodeCtl 0xB0520000 = .ok (.sgjoin 5 8) ∧
    decodeCtl 0xB0000001 = .ok .sgleave ∧
    decodeCtl 0xB0030002 = .ok (.npenter 12) ∧
    decodeCtl 0xB0000003 = .ok .npexit ∧
    decodeCtl 0xB0000004 = .ok .stepdone ∧
    decodeCtl 0xC0024A00 = .ok (.send 9 10) ∧
    decodeCtl 0xC042CC01 = .ok (.recvpost 4 11 12) ∧
    decodeCtl 0xC4040000 = .ok (.rinit 16) ∧
    decodeCtl 0xC4D38001 = .ok (.rgrab 13 14) ∧
    decodeCtl 0xD0F41100 = .ok (.cred 15 16 17) ∧
    decodeCtl 0xD124D401 = .ok (.credExact 18 19 20) ∧
    decodeCtl 0xD1559702 = .ok (.cmc 21 22 23) ∧
    decodeCtl 0xD1865A03 = .ok (.cag 24 25 26) := by
  and_intros <;> rfl

/-- Words of R42, R43, type class I, one for each instruction. -/
theorem test_words_lane_integer :
    decodeLane 0x01003FC0141C008100000000 = .ok (.lAdd ⟨false, 0, false⟩ .s32 true (.main 255) (.main 1 true) (.opf 7)) ∧
    decodeLane 0x02BA3F802800008000000000 = .ok (.lSub ⟨true, 3, true⟩ .s16x2 false (.main 254) (.main 2 true) .lat) ∧
    decodeLane 0x03743F403CFC008100000000 = .ok (.lMul ⟨false, 7, false⟩ .s8x4 true (.main 253) (.main 3 true) (.uni 63)) ∧
    decodeLane 0x048240014E000000FFFFFFFE = .ok (.lMulhi ⟨true, 0, false⟩ .s16x2 (.opf 0) (.main 20 false) (.imm 0xFFFFFFFE)) ∧
    decodeLane 0x060380015E000000FFFFFFFE = .ok (.lMin ⟨false, 0, false⟩ .n16x2 .lat (.main 21 false) (.imm 0xFFFFFFFE)) ∧
    decodeLane 0x07BC02416E000000FFFFFFFE = .ok (.lMax ⟨true, 3, true⟩ .s8x4 (.main 9) (.main 22 false) (.imm 0xFFFFFFFE)) ∧
    decodeLane 0x057007821C04242100000000 = .ok (.lMad ⟨false, 7, false⟩ .s32 true (.main 30) (.main 33 false) (.uni 1) (.main 36 true)) ∧
    decodeLane 0x1C8107C22C08252100000000 = .ok (.lSum3 ⟨true, 0, false⟩ .n32 true (.main 31) (.main 34 false) (.uni 2) (.main 37 true)) ∧
    decodeLane 0x1F0208023C0C262100000000 = .ok (.lClamp ⟨false, 0, false⟩ .s16x2 true (.main 32) (.main 35 false) (.uni 3) (.main 38 true)) ∧
    decodeLane 0x08B80A103000000000000000 = .ok (.lAbs ⟨true, 3, true⟩ .s32 false (.main 40) (.opf 3)) ∧
    decodeLane 0x09740A504000000000000000 = .ok (.lNeg ⟨false, 7, false⟩ .s8x4 false (.main 41) (.opf 4)) ∧
    decodeLane 0x19840A82B0B02D0100000000 = .ok (.lQdot ⟨true, 0, false⟩ true true (.main 42) (.main 43 false) (.main 44 false) (.main 45 false)) ∧
    decodeLane 0x1A030B82F0C3050000000000 = .ok (.lHdot ⟨false, 0, false⟩ false false (.main 46) (.main 47 false) (.main 48 false) (.uni 5)) ∧
    decodeLane 0x1BB90C834E00000000000007 = .ok (.lMulfull ⟨true, 3, true⟩ false 50 (.main 52 false) (.imm 0x7)) := by
  and_intros <;> rfl

/-- Words of R42, R43, type class B, one for each instruction. -/
theorem test_words_lane_bits :
    decodeLane 0x0A700F046C28000000000000 = .ok (.lAnd ⟨false, 7, false⟩ (.main 60) (.main 70 false) (.uni 10)) ∧
    decodeLane 0x0B800F447C2C008000000000 = .ok (.lOr ⟨true, 0, false⟩ (.main 61) (.main 71 true) (.uni 11)) ∧
    decodeLane 0x0C000F848C30000000000000 = .ok (.lXor ⟨false, 0, false⟩ (.main 62) (.main 72 false) (.uni 12)) ∧
    decodeLane 0x0EB80FC49C34008000000000 = .ok (.lShl ⟨true, 3, true⟩ (.main 63) (.main 73 true) (.uni 13)) ∧
    decodeLane 0x0F701004AC38000000000000 = .ok (.lShr ⟨false, 7, false⟩ (.main 64) (.main 74 false) (.uni 14)) ∧
    decodeLane 0x11801044BC3C008000000000 = .ok (.lRot ⟨true, 0, false⟩ (.main 65) (.main 75 true) (.uni 15)) ∧
    decodeLane 0x0D0040050000008000000000 = .ok (.lNot ⟨false, 0, false⟩ (.opf 0) (.main 80 true)) ∧
    decodeLane 0x12B840451000008000000000 = .ok (.lPopc ⟨true, 3, true⟩ (.opf 1) (.main 81 true)) ∧
    decodeLane 0x137040852000008000000000 = .ok (.lClz ⟨false, 7, false⟩ (.opf 2) (.main 82 true)) ∧
    decodeLane 0x148040C53000008000000000 = .ok (.lBrev ⟨true, 0, false⟩ (.opf 3) (.main 83 true)) ∧
    decodeLane 0x10001685BE0000000000001F = .ok (.lSra ⟨false, 0, false⟩ true (.main 90) (.main 91 false) (.imm 0x1F)) ∧
    decodeLane 0x15B91705DE03800000000008 = .ok (.lBfx ⟨true, 3, true⟩ false (.main 92) (.main 93 false) (.imm 0x8) (.imm 0x8)) ∧
    decodeLane 0x16701785F183800000000810 = .ok (.lBfi ⟨false, 7, false⟩ (.main 94) (.main 95 false) (.main 96 false) (.imm 0x810)) ∧
    decodeLane 0x17801846218F800000008180 = .ok (.lBytesel ⟨true, 0, false⟩ (.main 97) (.main 98 false) (.main 99 false) (.imm 0x8180)) ∧
    decodeLane 0x1800190651986700000000F8 = .ok (.lTruth ⟨false, 0, false⟩ (.main 100) (.main 101 false) (.main 102 false) (.main 103 false) 0xF8#8) ∧
    decodeLane 0x1DB81A0691A8001F00000000 = .ok (.lScadd ⟨true, 3, true⟩ (.main 104) (.main 105 false) (.main 106 false) 31) ∧
    decodeLane 0x1E701AC6C1B7800100000009 = .ok (.lFunnel ⟨false, 7, false⟩ true (.main 107) (.main 108 false) (.main 109 false) (.imm 0x9)) := by
  and_intros <;> rfl

/-- Words of R42, R43, type class F, one for each instruction. -/
theorem test_words_lane_float :
    decodeLane 0x20801B871C50000100000000 = .ok (.lFadd ⟨true, 0, false⟩ .f32 .rtz (.main 110) (.main 113 false) (.uni 20)) ∧
    decodeLane 0x21011BC72C54000200000000 = .ok (.lFsub ⟨false, 0, false⟩ .f16x2 .rdn (.main 111) (.main 114 false) (.uni 21)) ∧
    decodeLane 0x22BA1C073C58000300000000 = .ok (.lFmul ⟨true, 3, true⟩ .bf16x2 .rup (.main 112) (.main 115 false) (.uni 22)) ∧
    decodeLane 0x23701D0751D9004400000000 = .ok (.lFma ⟨false, 7, false⟩ .f32 .rna (.main 116) (.main 117 false) (.main 118 true) (.opf 0)) ∧
    decodeLane 0x35821DC781E47A0000000000 = .ok (.lFdot2 ⟨true, 0, false⟩ true .rne (.main 119) (.main 120 false) (.main 121 false) (.main 122 false)) ∧
    decodeLane 0x24001EC7E204000000000000 = .ok (.lFmin ⟨false, 0, false⟩ .f32 (.main 123) (.main 126 false) (.main 129 false)) ∧
    decodeLane 0x25B91F07F208000000000000 = .ok (.lFmax ⟨true, 3, true⟩ .f16x2 (.main 124) (.main 127 false) (.main 130 false)) ∧
    decodeLane 0x33721F48020C000000000000 = .ok (.lFcpsgn ⟨false, 7, false⟩ .bf16x2 (.main 125) (.main 128 false) (.main 131 false)) ∧
    decodeLane 0x348121085C07020000000000 = .ok (.lFclamp ⟨true, 0, false⟩ .f16x2 (.main 132) (.main 133 false) (.uni 1) (.uni 2)) ∧
    decodeLane 0x260021888000000000000000 = .ok (.lFabs ⟨false, 0, false⟩ .f32 (.main 134) (.main 136 false)) ∧
    decodeLane 0x27BA21C89000000000000000 = .ok (.lFneg ⟨true, 3, true⟩ .bf16x2 (.main 135) (.main 137 false)) ∧
    decodeLane 0x30702288B000000300000000 = .ok (.lFrnd ⟨false, 7, false⟩ .f32 .rup (.main 138) (.main 139 false)) ∧
    decodeLane 0x28802338023400003F800000 = .ok (.lFdiv ⟨true, 0, false⟩ (.main 140) (.imm 0x3F800000) (.main 141 false)) ∧
    decodeLane 0x290023896000000000000000 = .ok (.lFsqrt ⟨false, 0, false⟩ (.main 142) (.main 150 false)) ∧
    decodeLane 0x2AB823C97000000000000000 = .ok (.lFrcp ⟨true, 3, true⟩ (.main 143) (.main 151 false)) ∧
    decodeLane 0x2B7024098000000000000000 = .ok (.lFrsq ⟨false, 7, false⟩ (.main 144) (.main 152 false)) ∧
    decodeLane 0x2C8024499000000000000000 = .ok (.lFexp2 ⟨true, 0, false⟩ (.main 145) (.main 153 false)) ∧
    decodeLane 0x2D002489A000000000000000 = .ok (.lFlog2 ⟨false, 0, false⟩ (.main 146) (.main 154 false)) ∧
    decodeLane 0x2EB824C9B000000000000000 = .ok (.lFsin ⟨true, 3, true⟩ (.main 147) (.main 155 false)) ∧
    decodeLane 0x2F702509C000000000000000 = .ok (.lFcos ⟨false, 7, false⟩ (.main 148) (.main 156 false)) ∧
    decodeLane 0x31802549D000000000000000 = .ok (.lFclass ⟨true, 0, false⟩ (.main 149) (.main 157 false)) ∧
    decodeLane 0x32002789FC0C000100000000 = .ok (.lFldexp ⟨false, 0, false⟩ .rtz (.main 158) (.main 159 false) (.uni 3)) := by
  and_intros <;> rfl

/-- Words of R42, R43, R103 to R110, one for each instruction. -/
theorem test_words_lane_conversions_masks :
    decodeLane 0x38B8280A1000280A00000000 = .ok (.lCvt ⟨true, 3, true⟩ .s16 .bf16 .rdn true (.main 160) (.main 161 false)) ∧
    decodeLane 0x3970288A3290E60000000000 = .ok (.lCvtpk ⟨false, 7, false⟩ .f16 .f32 .rne false (.main 162) (.main 163 false) (.main 164 false)) ∧
    decodeLane 0x3A80294A629D600800000000 = .ok (.lQblk ⟨true, 0, false⟩ .e2m1 .rne true (.main 165) (.main 166 false) (.main 167 false)) ∧
    decodeLane 0x3B002A0A92A8CA0000000000 = .ok (.lDqblk ⟨false, 0, false⟩ .e5m2 (.main 168) (.main 169 false) (.main 170 false)) ∧
    decodeLane 0x40BD014ABE00000300000009 = .ok (.lIcmp ⟨true, 3, true⟩ .n8x4 .le 5 (.main 171 false) (.imm 0x9)) ∧
    decodeLane 0x4170018AC2B4000700000000 = .ok (.lFcmp ⟨false, 7, false⟩ .f32 .unord 6 (.main 172 false) (.main 173 false)) ∧
    decodeLane 0x42802B8AF2C0070000000000 = .ok (.lSel ⟨true, 0, false⟩ (.main 174) (.main 175 false) (.main 176 false) 7) ∧
    decodeLane 0x43000040200C000300000000 = .ok (.lMlogic ⟨false, 0, false⟩ .andn 1 2 3) ∧
    decodeLane 0x48B82C4B2E00000400000001 = .ok (.lPass ⟨true, 3, true⟩ .rot (.main 177) (.main 178 false) (.imm 0x1)) ∧
    decodeLane 0x4970CA002000000300000000 = .ok (.lVote ⟨false, 7, false⟩ .count 40 2) ∧
    decodeLane 0x4A80CA4B3000000800000000 = .ok (.lRed ⟨true, 0, false⟩ .fmax 41 (.main 179 false)) ∧
    decodeLane 0x4C012D0B5000000100000000 = .ok (.lScan ⟨false, 0, false⟩ false true (.main 180) (.main 181 false)) ∧
    decodeLane 0x4BB8803800000000DEADBEEF = .ok (.lMov ⟨true, 3, true⟩ .lat (.imm 0xDEADBEEF)) ∧
    decodeLane 0x4D702D800000000000000000 = .ok (.lLtid ⟨false, 7, false⟩ (.main 182)) ∧
    decodeLane 0x708000000000000000000000 = .ok (.lNop true) := by
  and_intros <;> rfl

/-- Words of R38, R39, R42, one for each instruction. -/
theorem test_words_lane_memory :
    decodeLane 0x50812E0BA0009F1CFFFFFFF0 = .ok (.lLd ⟨true, 0, false⟩ .b64 ⟨.a, some ⟨true, 15⟩, true, true, false⟩ (.main 184) (.main 186 false) 0xFFFFFFF0#32) ∧
    decodeLane 0x5106000BC301E00800000010 = .ok (.lSt ⟨false, 0, false⟩ .b128 ⟨.peer 3, none, true, false, false⟩ (.main 188 false) (.main 192 false) 0x10#32) ∧
    decodeLane 0x57BC310C5001000800000002 = .ok (.lLdw ⟨true, 3, true⟩ .n16 true false (.main 196) (.main 197 false) 2#32) ∧
    decodeLane 0x527131B3C320000000000008 = .ok (.lLdg ⟨false, 7, false⟩ true (.main 198) 60 (.main 200 false) 8#32) ∧
    decodeLane 0x538032738328000000000020 = .ok (.lBld ⟨true, 0, false⟩ (.main 201) 56 (.main 202 false) 0x20#32) ∧
    decodeLane 0x54000033432CCC0000000024 = .ok (.lBst ⟨false, 0, false⟩ 52 (.main 203 false) (.main 204 false) 0x24#32) ∧
    decodeLane 0x55B9334CE33C800700000004 = .ok (.lAmo ⟨true, 3, true⟩ .incw false .a (.main 205) (.main 206 false) (.main 207 false) 4#32) ∧
    decodeLane 0x5670340D1348D30674000000 = .ok (.lAmo3 ⟨false, 7, false⟩ .addb true (.peer 2) 6 (.main 208) (.main 209 false) (.main 210 false) (.main 211 false)) ∧
    decodeLane 0x5886350D8C23090000000030 = .ok (.lRld ⟨true, 0, false⟩ .b128 (.main 212) (.main 216 false) (.uni 8) (.uni 9) 0x30#32) ∧
    decodeLane 0x6000000DCC2CDD200000021F = .ok (.lXform ⟨false, 0, false⟩ 31 2 (.main 220 false) (.uni 11) (.main 221 true)) ∧
    decodeLane 0x61B8380E441800000000011E = .ok (.lXeval ⟨true, 3, true⟩ 224 30 1 (.main 228 false) (.opf 6)) ∧
    decodeLane 0x6270000E5C30000000000040 = .ok (.lXnear ⟨false, 7, false⟩ (.main 229 false) (.uni 12) 0x40#32) := by
  and_intros <;> rfl
/-! ## A small machine: one block of one shuttle on core 0 of a joined die, three pages, a context with a handler -/

/-- Registers of a shuttle written. -/
def regs (l : List (SReg × Nat)) (sh : Shuttle) : Shuttle := l.foldl (fun x e => x.writeS e.1 (BitVec.ofNat 64 e.2)) sh

def sh0 : Shuttle := placedShuttle 0x100000 []
def blk0 : Block := placedBlock 1 0x100000 0
def run0 (words : List Nat) : Run := { placedRun 0 with words := words }
/-- A shuttle whose first run holds a lane. -/
def shRun : Shuttle := { sh0 with queue := [run0 [0x700000000000000000000000]] }
/-- A load's head, with every thread selected; and one with none. -/
def hd : Head := ⟨false, 0, false⟩
def hdNone : Head := ⟨false, 1, false⟩

/-- Pages 0x10 (code and data) and 0x12 (stacks) may be written, page 0x11 may not; page 0x13 is serviceable. -/
def die0 : Die := { Die.initial 0 with
  joined := true
  tlb := [⟨0, 0x10, 0x300000, true, false⟩, ⟨0, 0x11, 0x310000, false, false⟩, ⟨0, 0x12, 0x320000, true, false⟩] }
def ctx0 : CtxEntry :=
  { valid := true, root := 0x400000, handler := 0x100040, stackBase := 0x120000, stackSize := 0x1000, ttab := 0x330000 }
def part0 : Part :=
  { granules := [0], super := some 1, queues := [], seq := 0, table := 0x350000, page := 0x351000, window := 0x360000,
    filled := [], log := 0x370000, spill := 0x380000, live := [(0, 0)], waiting := none, frames := [0x340000], groups := [],
    halted := false, reserved := [], capture := none }
def obj0 : CodeObj :=
  { ctx := 0, ctlLo := 0x100000, ctlLen := 0x1000, laneLo := 0x108000, laneLen := 120, descs := [0x104000],
    globals := [] }
/-- The context's entry, and the tables of the walk to page 0x13, whose leaf is serviceable with zeros. -/
def tables : Memory := (((((Memory.writeN [] 0x350000 (leBytes 40 (ctxImage ctx0))).writeN 0x400000 (leBytes 8 0x401001)).writeN 0x401000 (leBytes 8 0x402001)).writeN 0x402000
  (leBytes 8 0x403001)).writeN 0x403000 (leBytes 8 0x404001)).writeN 0x404098 (leBytes 8 0x16)
def machine (sh : Shuttle) (blk : Block) : State := { State.reset with
  started := true, cur := some 64, nextId := 2, shuttles := [(64, sh)], blocks := [(1, blk)], dies := [(0, die0)],
  parts := [(0, part0)], objs := [obj0], mem := tables }
def who (sh : Shuttle) (blk : Block) : Who := { h := 64, sh := sh, blk := blk }

theorem machine_who (sh : Shuttle) (blk : Block) : (machine sh blk).who? = some (who sh blk) := rfl
theorem machine_memory : tables.wf = true := by decide +kernel

/-- The outcome of one instruction on the small machine, as a function of its next state. -/
def after {α : Type} (i : Instr) (s : State) (f : State → α) : Option α :=
  match exec i s with | .next t => some (f t) | _ => none
/-- The executing shuttle after an instruction. -/
def shAfter {α : Type} (i : Instr) (s : State) (f : Shuttle → α) : Option α := (after i s fun t => (t.sh? 64).map f).join

/-! ## Witnesses: words and steps -/

theorem witness_ControlEncodingRoundTrip :
    (.addReg 63 1 2 .n32 : Instr).wf = true ∧ encodeCtl (.addReg 63 1 2 .n32) = some 0x07F042C0 := ⟨rfl, rfl⟩

theorem witness_LaneEncodingRoundTrip :
    (.lLtid ⟨true, 0, false⟩ (.main 255) : Instr).wf = true ∧
      encodeLane (.lLtid ⟨true, 0, false⟩ (.main 255)) = some 0x4D803FC00000000000000000 := ⟨rfl, rfl⟩

theorem witness_WordsUnambiguous :
    (0xD0000003 < 2 ^ 32 ∧ decodeCtl 0xD0000003 = .ok (.cag 0 0 0)) ∧
      (0x70 * 2 ^ 88 < 2 ^ 96 ∧ decodeLane (0x70 * 2 ^ 88) = .ok (.lNop false)) ∧
      (0x33 * 2 ^ 26 < 2 ^ 32 ∧ 0x33 * 2 ^ 26 / 2 ^ 26 = 0x33) ∧ (0x35 * 2 ^ 26 < 2 ^ 32 ∧ 0x35 ≤ 0x35 * 2 ^ 26 / 2 ^ 26) ∧
      (2 ^ 32 - 1 < 2 ^ 32 ∧ 0x35 ≤ (2 ^ 32 - 1) / 2 ^ 26) := ⟨⟨by decide, rfl⟩, ⟨by decide, rfl⟩, by decide⟩

/-- A control word that is an instruction and one that is none; a lane word; the step of another agent. -/
theorem witness_StepRunsDecoded :
    (let s := State.reset.withFetchWord 32 0x34000001
     s.agenda = [.control 64] ∧
      (((s.ticked []).controlGoes 64).map fun w => (w.h, (s.ticked []).boundary 64 w.sh == none,
        ((s.ticked []).enterTranslation w).fetchControl w)) = some (64, true, .bytes 0x34000001) ∧
      decodeCtl 0x34000001 = .ok .yield) ∧
    (let s := State.reset.withFetchWord 32 0
     s.agenda = [.control 64] ∧
      (((s.ticked []).controlGoes 64).map fun w => (w.h, (s.ticked []).boundary 64 w.sh == none,
        ((s.ticked []).enterTranslation w).fetchControl w)) = some (64, true, .bytes 0) ∧ decodeCtl 0 = .error 0) ∧
    (let s := State.reset.withFetchWord 96 0x700000000000000000000000
     s.agenda = [.lane 64] ∧ ((s.ticked []).laneWord 64).map (·.2.2) = some (.lNop false)) ∧
    ({ State.reset with agenda := [.event .faultService] } : State).agenda = .event .faultService :: [] := by
  and_intros <;> first | decide +kernel | rfl

/-- A state with an empty agenda, and one whose turn is another agent's. -/
theorem witness_StepAlwaysGoesOn : State.reset.agenda = [] ∧ Instr.isWord .faultService = false ∧
    (match step { State.reset with agenda := [.event .faultService] } with | .next _ => true | _ => false) = true := by
  and_intros <;> first | decide +kernel | rfl

theorem witness_StepKeepsMemoryForm : State.reset.mem.wf = true ∧
    ∃ t, step (State.reset.withFetchWord 32 0x34000001) = .next t ∧ t.mem.wf = true := by
  refine ⟨by decide, _, rfl, by decide +kernel⟩

/-! ## Witnesses: scalar instructions and transfers of control -/

theorem witness_HardwiredRegisters : (63 : SReg) ≠ 0 ∧ (7 : KReg) ≠ 0 ∧ (7 : MReg) ≠ 0 ∧ (62 : SReg) ≠ 63 := by decide

/-- Division by zero, the most negative number by −1, and the rest, at 64 and 32 bits; the bits of a shift. -/
theorem witness_DivisionAndShiftValues :
    cInt .n32 0x100000000 = 0 ∧ (cSigned .s64 = true ∧ cInt .s64 0x8000000000000000 = -(2 ^ (cWidth .s64 - 1)) ∧ cInt .s64 (-1) = -1) ∧
      (cInt .s32 (-7) = -7 ∧ cInt .s32 2 ≠ 0 ∧ 0 ≤ cInt .s32 7) ∧ 63 < cWidth .s64 ∧ 31 < cWidth .n32 ∧
      (0x100000000#64).toNat % 2 ^ cWidth .n32 = 0 := by decide

theorem witness_ScalarResults :
    let s := machine (regs [(5, 7), (6, 0)] sh0) blk0
    let w := who (regs [(5, 7), (6, 0)] sh0) blk0
    s.who? = some w ∧ scalarResult s w (.div 9 5 6 .s32) = some (9, BitVec.allOnes 64) ∧
      scalarResult s w (.mfs 9 .gen) = some (9, 2) ∧ predicateResult w (.cmpImm 1 5 .ltN 8#12) = some (1, true) ∧
      (7 : KReg) ≠ 0 := by
  and_intros <;> first | decide +kernel | rfl

theorem witness_LoopAndRegisterTransfers :
    let sh := regs [(5, 0), (6, 1), (7, 0x100FFC)] sh0
    let s := machine sh blk0
    let w := who sh blk0
    s.who? = some w ∧ (transfer w (.loop 5 false 1)).map (·.1) = some 0x100004 ∧ transfer w (.loop 5 true 1) = none ∧
      transfer w (.loop 6 false 1) = none ∧ s.sameSection w.blk.ctx w.sh.pc 0x100FFC = true ∧ w.sh.readS 5 = 0 ∧
      (registerTransfer w (.callr 7)).map (·.1) = some 7 ∧ s.validTarget w.blk.ctx (w.sh.readS 7) = true ∧
      (3 < 4 ∧ 63 < 64 ∧ 4095 < 2 ^ 12) := by
  and_intros <;> first | decide +kernel | rfl

/-- Taken to the last word of the section, not taken, past the section; a register target that is misaligned, past 2^57, and
in no section. -/
theorem witness_BranchTransfers :
    let sh := regs [(5, 0x100002), (6, 2 ^ 57), (7, 0x101000)] sh0
    let s := machine sh blk0
    let w := who sh blk0
    s.who? = some w ∧ (w.sh.readK 0 != false) = true ∧
      s.sameSection w.blk.ctx w.sh.pc (w.sh.pc + 4 * (0x3FF#22).signExtend 64) = true ∧ (w.sh.readK 1 != false) = false ∧
      (transfer w (.br 0 false 0x400#22)).map (·.1) = some 0x101000 ∧ s.sameSection w.blk.ctx w.sh.pc 0x101000 = false ∧
      (registerTransfer w (.jr 5)).isSome ∧ (w.sh.readS 5).toNat % 4 ≠ 0 ∧ 2 ^ 57 ≤ (w.sh.readS 6).toNat ∧
      ∀ o ∈ s.objs, o.ctx ≠ w.blk.ctx ∨ (w.sh.readS 7).toNat < o.ctlLo ∨ o.ctlLo + o.ctlLen ≤ (w.sh.readS 7).toNat := by
  and_intros <;> first | decide +kernel | rfl

/-! ## Witnesses: traps, the return from them, LAUNCH -/

theorem witness_TrapRecordFields :
    let r : TrapRec := { cause := 2 ^ 9 - 1, tmask := 255, cpc := 2 ^ 57 - 1, lword := 2 ^ 20 - 1, roff := 31, addr := 2 ^ 64 - 1,
                         ipc := 2 ^ 57 - 1 }
    r.cause < 2 ^ 9 ∧ r.tmask < 256 ∧ r.cpc < 2 ^ 57 ∧ r.lword < 2 ^ 20 ∧ r.roff < 32 ∧ r.addr < 2 ^ 64 ∧ r.ipc < 2 ^ 57 := by
  decide

theorem canDeliver : CanDeliver (machine sh0 blk0) (who sh0 blk0) ctx0 0x320F00 :=
  ⟨by decide +kernel, by decide, rfl, by decide +kernel, by decide +kernel, 0x320FFF, by decide +kernel⟩

theorem witness_TrapDelivery : (machine sh0 blk0).who? = some (who sh0 blk0) ∧ CanDeliver (machine sh0 blk0) (who sh0 blk0) ctx0 0x320F00 ∧
    (sh0.queue = [] ∧ sh0.deferred = []) ∧ shRun.handler = false ∧ shRun.queue ≠ [] ∧
    ({ sh0 with deferred := [{ cause := 0x06D }] } : Shuttle).deferred ≠ [] :=
  ⟨rfl, canDeliver, ⟨rfl, rfl⟩, rfl, by decide⟩

theorem witness_HandlerTrapIsFatal : ({ sh0 with handler := true } : Shuttle).handler = true ∧ blk0.fatal = none := ⟨rfl, rfl⟩

/-- A shuttle in its handler, whose frame returns to the word that trapped. -/
def shHandler (r : TrapRec) (q : List Run) : Shuttle := { sh0 with handler := true, trap := some r, queue := q, pc := 0x100040 }
def rec0 : TrapRec := { cause := 0x190, cpc := 0x100000 }
def frame0 (word : Nat) : Frame := { word := word, block := List.replicate 128 0 }

theorem witness_ReturnFromHandler :
    let sh := shHandler rec0 []
    let s := machine sh blk0
    let w := who sh blk0
    s.who? = some w ∧ (sh0.handler = false ∧ sh0.queue = []) ∧ w.sh.trap = some rec0 ∧ s.ctx? w.blk.ctx = some ctx0 ∧
      s.check w.blk.site w.blk.ctx w.sh.fatalPages false 5 1
        [(0, frameAddr ctx0 w.blk w.sh.idx), (1, frameAddr ctx0 w.blk w.sh.idx + 255)] = .go [(0, 0x320F00), (1, 0x320FFF)] ∧
      frameAddr ctx0 w.blk w.sh.idx / 65536 = (frameAddr ctx0 w.blk w.sh.idx + 255) / 65536 ∧
      (∀ i, i < 256 → s.farGone (0x320F00 + i) = false ∧ s.poisoned [(0, 0x320F00 + i)] = []) ∧
      w.sh.deferred = [] ∧ s.resumeBad w rec0 (frame0 (2 ^ 64 * 0x100000)) = false ∧ (frame0 (2 ^ 64 * 0x100000)).cpc = rec0.cpc ∧
      s.resumeBad w rec0 (frame0 (2 ^ 64 * 0x100004)) = false ∧ (frame0 (2 ^ 64 * 0x100004)).cpc ≠ rec0.cpc ∧
      s.resumeBad w rec0 (frame0 (2 ^ 64 * 0x100000 + 2 ^ 25)) = false ∧ s.resumeBad w rec0 (frame0 0) = true ∧
      (∀ d a b m, rec0.instr ≠ some (.cpym d a b m)) ∧ (rec0.lane = false ∧ rec0.defer = false ∧ w.blk.fatal = none) := by
  and_intros <;> first | decide +kernel | rfl | exact fun _ _ _ _ h => nomatch h

/-- After a deferred trap, alone or before what another frame's trap stopped; after a lane trap, with a run that competes
again and with one of a memory-bound shuttle. -/
theorem witness_ReturnFromHandler_more :
    let deferred : TrapRec := { cause := 0x06D, defer := true, cpc := 0x100000 }
    let lane : TrapRec := { cause := 0x045, lane := true, cpc := 0x100000 }
    let q : Run := { run0 [0x700000000000000000000000] with phase := .stopped }
    let sh := shHandler deferred []
    let owing : Shuttle := { sh with owed := some (rec0, 0, List.replicate 128 0) }
    let stopped := shHandler lane [q]
    let bound : Shuttle := { stopped with hist := BitVec.allOnes 64 }
    let bad (sh : Shuttle) (r : TrapRec) (x : Nat) : Bool := (machine sh blk0).resumeBad (who sh blk0) r (frame0 x)
    bad sh deferred (2 ^ 64 * 0x100000) = false ∧ sh.owed = none ∧ bad owing deferred (2 ^ 64 * 0x100000) = false ∧
      (rec0.defer = false ∧ rec0.lane = false ∧ bitsOf 0 25 24 = 0) ∧
      bad stopped lane (2 ^ 64 * 0x100000) = false ∧ bad stopped lane (2 ^ 64 * 0x100000 + 2 ^ 25) = false ∧
      stopped.memoryBound = false ∧ bad bound lane (2 ^ 64 * 0x100000) = false ∧ bound.memoryBound = true ∧
      (lane.cause ≠ 0x031 ∧ stopped.deferred = []) := by
  and_intros <;> first | decide +kernel | rfl

/-- The records of the returns after a lane trap and after a deferred trap. -/
theorem witness_ReturnFromHandler_other :
    (let r : TrapRec := { cause := 0x05D, lane := true, cpc := 0x100000 }
     let sh := shHandler r [run0 [0x700000000000000000000000]]
     r.cause ≠ 0x031 ∧ sh.queue ≠ [] ∧ (machine sh blk0).resumeBad (who sh blk0) r (frame0 (2 ^ 64 * 0x100000)) = false) ∧
    (let r : TrapRec := { cause := 0x0A7, defer := true, cpc := 0x100000 }
     let sh := shHandler r []
     r.defer = true ∧ sh.deferred = [] ∧ (machine sh blk0).resumeBad (who sh blk0) r (frame0 (2 ^ 64 * 0x100004)) = false) := by
  and_intros <;> first | decide +kernel | rfl

def blkSuper : Block := { blk0 with supervisor := true }
/-- A kernel's descriptor at 0x104000 and a launch record of one block at 0x105000. -/
def memLaunch : Memory :=
  (tables.writeN 0x304000 (leBytes 64 (0x100000 + 2 ^ 128 * 65536 + 2 ^ 201 * 256 + 2 ^ 224))).writeN 0x305000
    (leBytes 128 (0x104000 + 2 ^ 64 * (1 + 2 ^ 16 + 2 ^ 32) + 2 ^ 128 * 4))

theorem witness_SupervisorLaunch :
    let sh := regs [(5, 0x105000), (6, 0x105040), (7, 0x105001), (8, 0x100)] sh0
    let s := { machine sh blkSuper with mem := memLaunch }
    let w := who sh blkSuper
    s.who? = some w ∧ blk0.supervisor = false ∧ w.blk.supervisor = true ∧ w.sh.record = none ∧ (w.sh.readS 7).toNat % 64 ≠ 0 ∧
      s.part? w.blk.part = some part0 ∧
      (MayRead s w false 64 (w.sh.readS 5).toNat 0x305000 ∧ MayRead s w false 64 ((w.sh.readS 5).toNat + 64) 0x305040) ∧
      (match s.judgeRecord w part0 (leNat (s.view 0 0 0x305000 64 ++ s.view 0 0 0x305040 64)) (w.sh.readS 8).toNat with
        | .ok l => l.prio == 1 && l.queue == 0 && (Tab.getD part0.queues l.queue []).length < 16 | .error _ => false) = true ∧
      (match s.judgeRecord w part0 0 0 with | .error c => c == 2 | .ok _ => false) = true := by
  refine ⟨rfl, rfl, rfl, rfl, by decide +kernel, rfl, ⟨⟨⟨?_, ?_⟩, ?_⟩, ⟨⟨?_, ?_⟩, ?_⟩⟩, ?_, ?_⟩ <;> first | decide +kernel | rfl

/-! ## Witnesses: scalar accesses and atomics, runs, waits and order -/

/-- The last byte of a page and an aligned doubleword; the last aligned words of the activation store. -/
theorem witness_ScalarAccesses :
    let sh := regs [(5, 0x10FFFF), (6, 0x100008), (7, 65528)] sh0
    let s := machine sh blk0
    let w := who sh blk0
    s.who? = some w ∧ MayRead s w false (ldsUSize .n8) (w.sh.readS 5 + (0#12).signExtend 64).toNat 0x30FFFF ∧
      MayRead s w false (ldsSSize .s32) (w.sh.readS 6 + (0xFFC#12).signExtend 64).toNat 0x300004 ∧
      MayAccess s w true (ldsUSize .b64) (w.sh.readS 6 + (0#12).signExtend 64).toNat 0x300008 ∧
      (let off := (w.sh.readS 7 + (0#12).signExtend 64).toNat % 2 ^ 32
       off + 8 ≤ w.blk.a.bytes ∧ off % 8 = 0) ∧
      (let off := (w.sh.readS 7 + (4#12).signExtend 64).toNat % 2 ^ 32
       off + 4 ≤ w.blk.a.bytes ∧ off % 4 = 0) := by
  refine ⟨rfl, ⟨⟨?_, ?_⟩, ?_⟩, ⟨⟨?_, ?_⟩, ?_⟩, ⟨?_, ?_⟩, ?_, ?_⟩ <;> first | decide +kernel | rfl

theorem witness_AtomicValues : (32 = 32 ∨ 32 = 64) ∧ 2 ^ 32 - 1 < 2 ^ 32 ∧ amo3New .addb true 32 (2 ^ 31 - 2) 1 (2 ^ 31 - 1) = some (2 ^ 31 - 1) ∧
    amo3New .addb true 32 (2 ^ 31 - 1) 1 (2 ^ 31 - 1) = none := by decide

/-- The reservation held and not held; every access passes; no write is under way. -/
theorem witness_ControlAtomics :
    let sh := regs [(5, 0x10FFF8)] { sh0 with resv := some (0x30FFF8 / 64) }
    let s := machine sh blk0
    let w := who sh blk0
    s.who? = some w ∧ s.mem.wf = true ∧ (∀ p ∈ s.posted, p.line ≠ 0x30FFF8 / 64 ∧ ∀ c ∈ p.cells, c.1 / 64 ≠ 0x30FFF8 / 64) ∧ s.OffTables 0x30FFF8 ∧
      s.compressedAt w.blk.site w.blk.ctx (w.sh.readS 5).toNat = false ∧ 0x30FFF8 % 8 = 0 ∧
      s.FreeOfEvents 0x30FFF8 8 ∧ MayRead s w true 8 (w.sh.readS 5).toNat 0x30FFF8 ∧ MayRead s w false 8 (w.sh.readS 5).toNat 0x30FFF8 ∧
      w.sh.resv = some (0x30FFF8 / 64) ∧ sh0.resv ≠ some (0x30FFF8 / 64) ∧ s.poison.contains (0x30FFF8 / 64) = false ∧
      s.bad.contains (0x30FFF8 / 64) = false := by
  refine ⟨rfl, ?_, ?_, ?_, ?_, ?_, ?_, ⟨⟨?_, ?_⟩, ?_⟩, ⟨⟨?_, ?_⟩, ?_⟩, ?_, ?_, ?_, ?_⟩ <;>
    first | decide +kernel | rfl | (unfold State.FreeOfEvents; decide +kernel) | (unfold State.OffTables; decide +kernel)

/-- A shuttle with a queued run; a run of two words that may be queued, and one whose first word is illegal; a posted write
that FENCE waits for; the ends of the range of ICINV.pkg. -/
theorem witness_RunsSyncAndOrder :
    (shRun.handler = false ∧ shRun.queue ≠ [] ∧ shRun.wait ≠ .slot ∧ waitsFirst .halt = true ∧
      waitsAfterFeature .stepdone = some 8 ∧ blk0.kern.feat &&& 8 = 8 ∧ blk0.kern.feat &&& 4 = 4) ∧
    (let kern : Kern := { blk0.kern with laneAddr := 0x108000, laneLen := 3 }
     let blk : Block := { blk0 with kern := kern }
     let sh := regs [(5, 2 ^ 57 - 1), (6, 1), (7, 2)] sh0
     let nop (bnd : Nat) : List Byte := leBytes 12 (0x70 * 2 ^ 88 + bnd * 2 ^ 87)
     let native : Translation := ⟨true, true, 0, 0x108000, [0x70 * 2 ^ 88, 0x70 * 2 ^ 88 + 2 ^ 87], true, []⟩
     let s := { machine sh blk with mem := tables.writeN 0x308000 (nop 0 ++ nop 1 ++ leBytes 12 0), trans := [native] }
     let w := who sh blk
     s.who? = some w ∧ w.sh.handler = false ∧ w.sh.queue = [] ∧
      s.validate w 0 = .run [0x70 * 2 ^ 88, 0x70 * 2 ^ 88 + 2 ^ 87] ∧
      formFault w.blk w.sh.idx 0 [0x70 * 2 ^ 88, 0x70 * 2 ^ 88 + 2 ^ 87] = none ∧ w.sh.queue.length < 4 ∧
      s.validate w 2 = .trap 0x140 0 ∧ ({ s with trans := [] } : State).validate w 0 = .wait ∧ w.sh.drained = true ∧
      (∀ k, k < 7 → (127#7).getLsbD k = true → s.performedKind w .pod k = true) ∧ s.podDone w .pod = true ∧ s.posted = [] ∧
      (w.sh.readS 0).toNat = 0 ∧
      (w.sh.readS 6).toNat ≠ 0 ∧ (w.sh.readS 5).toNat + (w.sh.readS 6).toNat ≤ 2 ^ 57 ∧
      2 ^ 57 < (w.sh.readS 5).toNat + (w.sh.readS 7).toNat) ∧
    (let p := { mkPosted 64 blk0 0x100000 0x100000 1 none false with line := 0xC000, cells := [(0x300000, 7)] }
     p.h = 64 ∧ p.engine = none ∧ p.notAt .pkg = true ∧ (2#7).getLsbD 1 = true) ∧
    4 ≤ ({ sh0 with queue := List.replicate 4 (run0 []) } : Shuttle).queue.length := by
  and_intros <;> first | decide +kernel | rfl

/-! ## Witnesses: barriers -/

def bar0 : Barrier := { Barrier.zero 0 with init := true, expArr := 9, arrived := 1, expBytes := 16 }
def blkBar : Block := { blk0 with bars := [(3, bar0)] }

/-- Eight arrivals that just fit, nine that do not; a landing that saturates and one that does not. -/
theorem witness_BarrierPhases :
    let sh := regs [(5, 3), (6, 9)] sh0
    let s := machine sh blkBar
    let w := who sh blkBar
    s.who? = some w ∧ 3 = (w.sh.readS 5).toNat ∧ 3 < w.blk.nbars ∧ (w.blk.bar 3).init = true ∧
      s.streamPeers w.h = false ∧ (w.blk.bar 3).arrived + 8 ≤ (w.blk.bar 3).expArr ∧ 9 = (w.sh.readS 6).toNat ∧ 9 ≤ 1023 ∧
      (w.blk.bar 3).arrived + 9 > (w.blk.bar 3).expArr ∧ s.blk? 1 = some blkBar := by
  and_intros <;> first | decide +kernel | rfl

theorem witness_BarrierInstructions :
    let sh := regs [(5, 3), (6, 2 ^ 24 * 16 + 1), (7, 2 ^ 32 * 16 + 65520), (8, 4), (9, 0), (10, 2 ^ 32 * 17 + 65520), (11, 1024),
      (12, 2 ^ 48)] sh0
    let s := machine sh blkBar
    let w := who sh blkBar
    let v := (w.sh.readS 6).toNat
    s.who? = some w ∧ 3 = (w.sh.readS 5).toNat ∧ 3 < w.blk.nbars ∧
      (v / 2 ^ 48 = 0 ∧ v / 2 ^ 10 % 2 ^ 14 = 0 ∧ ¬(v % 2 ^ 10 = 0 ∧ v / 2 ^ 24 % 2 ^ 24 = 0)) ∧ (7 : SReg) ≠ 0 ∧
      (w.sh.readS 7).toNat % 2 ^ 32 + (w.sh.readS 7).toNat / 2 ^ 32 ≤ w.blk.a.bytes ∧ (w.blk.bar 3).init = true ∧
      (w.blk.bar 3).arrived ≤ v % 2 ^ 10 ∧ (w.blk.bar 3).phase = (w.sh.readS 9).getLsbD 0 ∧
      (w.blk.bar 3).phase ≠ (w.sh.readS 6).getLsbD 0 ∧ w.sh.wait ≠ .woken ∧ (w.sh.readS 8).toNat ≥ w.blk.nbars ∧
      (w.blk.bar 2).init = false ∧ (w.sh.readS 12).toNat / 2 ^ 48 ≠ 0 ∧ (w.sh.readS 11).toNat > 1023 ∧
      (w.sh.readS 10).toNat % 2 ^ 32 + (w.sh.readS 10).toNat / 2 ^ 32 > w.blk.a.bytes ∧
      (w.sh.readS 9).toNat % 2 ^ 10 < (w.blk.bar 3).arrived ∧
      ({ s with peers := [⟨1, 2, 0, 64, 0, none, .write [(0, [1])] false⟩] } : State).streamPeers w.h = true := by
  and_intros <;> first | decide +kernel | rfl

/-- A range that ends with the region, one that passes it, and one of no bytes. -/
theorem witness_EmptyRule :
    let sh := regs [(5, 65535), (6, 1), (7, 2)] sh0
    let w := who sh blk0
    (machine sh blk0).who? = some w ∧ (w.sh.readS 0).toNat = 0 ∧ (w.sh.readS 6).toNat ≠ 0 ∧ 63 < 64 ∧
      (w.sh.readS 5).toNat + (w.sh.readS 6).toNat ≤ (w.blk.store false).bytes ∧
      (w.sh.readS 5).toNat + (w.sh.readS 7).toNat > (w.blk.store true).bytes := by
  and_intros <;> first | decide +kernel | rfl

/-- The first arrival of two and the only one; the last awaited arrival, one of two, a shuttle that is no participant; an arrival
that stands. -/
theorem witness_GridBarrier :
    let pair (bars : Tab GInst) : State :=
      { machine sh0 blk0 with
        shuttles := [(64, sh0), (65, { sh0 with idx := 1, slot := 1 })], quads := [(0, { Quad.initial with bars := bars })] }
    let two (parts : List Nat) : State := pair [(15, ⟨0, parts, []⟩)]
    (two [64]).who? = some (who sh0 blk0) ∧ (two [64]).gbarOf false (who sh0 blk0).blk.quadKey 15 = some ⟨0, [64], []⟩ ∧
      (two [64, 65]).gbarOf false 0 15 = some ⟨0, [64, 65], []⟩ ∧ ((two [64, 65]).sh? 65).map (·.status) = some .running ∧
      (two [65]).gbarOf false 0 15 = some ⟨0, [65], []⟩ ∧ 64 ∉ [65] ∧ (two [64]).arrivedAt false 15 64 = false ∧
      (pair [(15, ⟨0, [64, 65], [64]⟩)]).arrivedAt false 15 64 = true ∧
      ((pair []).gbarOf false 0 15 = none ∧ (pair []).arrivedAt false 15 64 = false) ∧
      ((pair []).shuttles.map fun e => (e.1, e.2.status, ((pair []).blk? (blockOf e.1)).map fun k => (k.status, k.launch, k.quadKey)))
        = [(64, .running, some (.resident, 0, 0)), (65, .running, some (.resident, 0, 0))] ∧
      ((machine sh0 blk0).gbarOf true 0 15 = none ∧ (machine sh0 blk0).arrivedAt true 15 64 = false ∧
        (machine sh0 blk0).shuttles.map (·.1) = [64] ∧ blk0.site = 0) := by
  and_intros <;> first | decide +kernel | rfl

/-! ## Witnesses: copies, tensors, tiles, the matrix unit, the expansion unit -/

/-- A check's outcome at issue. -/
def passes {α : Type} : Judged α → Bool
  | .ok _ => true
  | _ => false
def stopsWith {α : Type} : Judged α → Nat → Bool
  | .trap r, c => r.cause == c
  | _, _ => false
def waitsFor {α : Type} : Judged α → List Nat → Bool
  | .wait ps, qs => ps == qs
  | _, _ => false

/-- A tensor of 32 rows of 384 elements of .s8 at 0x106000, and its tile; entry 1 of the context's table holds it. -/
def entry0 : Nat := 0x106000 + 2 ^ 128 * 384 + 2 ^ 160 * 32 + 2 ^ 256 * 384 + 2 ^ 453 + 2 ^ 459 * 5 + 2 ^ 464 * 384 + 2 ^ 480 * 32
def memTensor : Memory := tables.writeN 0x330040 (leBytes 64 (entry0 + 2 ^ 463))

/-- The last 16 bytes of the store and of a page; a full queue; a malformed word; a serviceable page; a CPYM with its MMA. -/
theorem witness_CopyCommandsIssue :
    let sh := regs [(5, 65520), (6, 0x10FFF0), (7, 2 ^ 33 + 2 ^ 32 + 16), (8, 0), (9, 0x130000), (10, 2 ^ 32 + 2 ^ 11 + 1), (11, 2 ^ 54)] sh0
    let s := { machine sh blk0 with 
      mem := memTensor.writeN 0x300004 (leBytes 4 0x8032CB05), trans := [⟨true, false, 0, 0x100000, [0, 0x8032CB05], true, [64]⟩] }
    let w := who sh blk0
    s.who? = some w ∧ w.sh.wait ≠ .slot ∧ ((copyOf s w (.cpy 5 6 7 ⟨true, true, .pod⟩)).map passes) = some true ∧
      (s.core w.coreKey).copyQ.length < 16 ∧ (s.core w.coreKey).copySlots = [] ∧
      ((copyOf s w (.cpy 5 6 8 ⟨false, false, .lane⟩)).map fun j => stopsWith j 0x0BB) = some true ∧
      ((copyOf s w (.cpy 5 9 7 ⟨false, false, .lane⟩)).map fun j => waitsFor j [0x13]) = some true ∧
      ((copyOf s w (.cpyt 0 10 0 ⟨false, false, .lane⟩)).map passes) = some true ∧ passes (s.judgeFollow w) = true ∧
      16 ≤ (List.replicate 16 0).length := by
  and_intros <;> first | decide +kernel | rfl

/-- A record that passes every check, one that fails (all zeros), and where the entry lies. -/
theorem witness_TensorDefinition :
    let sh := regs [(5, 0x100040), (6, 0x100080)] sh0
    let s := { machine sh blk0 with mem := memTensor.writeN 0x300040 (leBytes 64 entry0) }
    let w := who sh blk0
    s.who? = some w ∧ MayRead s w false 64 (w.sh.readS 5).toNat 0x300040 ∧ MayRead s w false 64 (w.sh.readS 6).toNat 0x300080 ∧
      (s.entryPa w.blk.ctx 1023 = some 0x33FFC0 ∧ s.farGone 0x33FFC0 = false) ∧ Entry.ok (leNat (s.view w.blk.site w.blk.core 0x300040 64)) = true ∧
      Entry.ok (leNat (s.view w.blk.site w.blk.core 0x300080 64)) = false := by
  refine ⟨rfl, ⟨⟨?_, ?_⟩, ?_⟩, ⟨⟨?_, ?_⟩, ?_⟩, ⟨?_, ?_⟩, ?_, ?_⟩ <;> first | decide +kernel | rfl

/-- The last place of a tile in the store, a misaligned one, one too far; the last tile, one beyond; an owned tile. -/
theorem witness_TileMoves :
    let sh := regs [(5, 61440), (6, 61441), (7, 61456)] sh0
    let s := machine sh blk0
    let w := who sh blk0
    let o := mkMat s w 0x100000 3 .s8 ⟨0, 0, false⟩ ⟨0, 0, false⟩
    s.who? = some w ∧ w.blk.kern.ctiles ≤ 16 ∧ 15 < w.blk.kern.ctiles ∧ tileMove (.cmovAToC 15 5) = some (15, 5) ∧
      (w.sh.readS 5).toNat % 16 = 0 ∧ (w.sh.readS 5).toNat + 4096 ≤ w.blk.a.bytes ∧ (w.sh.readS 6).toNat % 16 ≠ 0 ∧
      w.blk.a.bytes < (w.sh.readS 7).toNat + 4096 ∧ s.owned w.coreKey w.b 15 = false ∧
      ({ s with cores := [(0, { Core.initial with matQ := [o] })] } : State).owned w.coreKey w.b 3 = true := by
  and_intros <;> first | decide +kernel | rfl

/-- Two operands in the stores that pass their checks, one that does not; the record of an MGEMM of one step; a format whose
feature the kernel declares or not. -/
theorem witness_MatrixCommandsIssue :
    let sh := regs [(8, 2 ^ 54), (9, 2 ^ 54), (10, 0), (11, 1), (12, 0)] sh0
    let s := { machine sh blk0 with mem := memTensor }
    let w := who sh blk0
    let o := s.operand w.blk (w.sh.readS 8).toNat false
    s.who? = some w ∧ w.sh.wait ≠ .slot ∧ w.blk.kern.ctiles ≤ 31 ∧ 15 < w.blk.kern.ctiles ∧ w.blk.kern.feat / 2 % 2 = 1 ∧
      0 / 2 % 2 = 0 ∧ passes (judgeOperands (s.entryBad w.blk) w.blk .s8 o o) = true ∧
      stopsWith (judgeOperands (s.entryBad w.blk) w.blk .s8 (s.operand w.blk 0 false) o) 0x0C6 = true ∧
      passes (judgeGemm (s.entryBad w.blk) w.blk .s8 o o (w.sh.readS 10).toNat (w.sh.readS 11).toNat) = true ∧
      stopsWith (judgeGemm (s.entryBad w.blk) w.blk .s8 o o 0 0) 0x0DA = true ∧ (s.core w.coreKey).matQ.length + s.followsDue w.coreKey < 8 ∧
      (s.core w.coreKey).matSlots = [] := by
  and_intros <;> first | decide +kernel | rfl

/-- A register that loads back, one whose radius is −0, and one of a reserved kind. -/
theorem witness_ImageRoundTrips : (List.replicate 4096 (7 : Byte)).length = 4096 ∧ 1023 < 1024 ∧
    (ExpReg.empty.kind < 3 ∧ CentreOk 0 0 0x80000000) ∧ ¬(3 < 3 ∧ CentreOk 0 0 0) :=
  ⟨by decide +kernel, by decide, ⟨by decide, rfl, rfl, rfl, .inr rfl⟩, fun h => absurd h.1 (by decide)⟩

/-- Registers e1 (multipole), e2 (local) and e3 (multipole) of the shuttle, e4 of another, e5 of nobody. -/
def blkExp : Block :=
  let e (k : Nat) (o : Option Nat) : ExpReg := { ExpReg.empty with kind := k, owner := o }
  let v := ((blk0.eregs.set 1 (e 1 (some 0))).set 2 (e 2 (some 0))).set 3 (e 1 (some 0))
  { blk0 with eregs := (v.set 4 (e 2 (some 7))).set 6 (e 2 (some 0)) }

theorem witness_ExpansionResults :
    let sh := regs [(5, 0x3F800000), (6, 2 ^ 33 + 1), (7, 0x101), (8, 0x7F7FFFFF), (9, 31), (10, 65536 - 272), (11, 32)] sh0
    let s := machine sh blkExp
    let w := who sh blkExp
    let er (e : EReg) : ExpReg := w.blk.eregs.get e
    s.who? = some w ∧ w.blk.kern.feat.testBit 2 = true ∧ w.sh.drained = true ∧ (er 1).owner = some w.sh.idx ∧
      CentreOk ((w.sh.readS 5).setWidth 32) ((w.sh.readS 5 >>> 32).setWidth 32) ((w.sh.readS 6).setWidth 32) ∧
      (w.sh.readS 6).toNat / 2 ^ 32 < 3 ∧ ((er 1).kind = 1 ∧ (er 3).kind = 1 ∧ (er 2).kind = 2 ∧ (er 6).kind = 2) ∧
      ((w.sh.readS 7).toNat = (1 : EReg).val + 256 * (1 : EReg).val ∧ 0 < (w.sh.readS 8).toNat ∧ (w.sh.readS 8).toNat < 0x7F800000) ∧
      ((er 5).owner = none ∧ (er 4).owner = some 7 ∧ (er 4).owner ≠ some w.sh.idx) ∧ (w.sh.readS 9).toNat < 32 ∧
      ((w.sh.readS 10).toNat % 2 ^ 32 % 16 = 0 ∧ (w.sh.readS 10).toNat % 2 ^ 32 + 272 ≤ w.blk.a.bytes) ∧
      ((er 1).load (w.blk.a.readN ((w.sh.readS 10).toNat % 2 ^ 32) 272)).isSome = true ∧ 32 ≤ (w.sh.readS 11).toNat ∧
      (0 : Nat).testBit 2 = false ∧ waitsAfterFeature (.xownRel 1) = some 4 := by
  refine ⟨rfl, ?_, ?_, ?_, ⟨?_, ?_, ?_, .inl ?_⟩, ?_, ?_, ?_, ?_, ?_, ?_, ?_, ?_, ?_, ?_⟩ <;> first | decide +kernel | rfl

/-- The last image of page 0x10, whose bytes of zeros load into e1. -/
theorem witness_ExpansionResults_global :
    let sh := regs [(5, 0x10FEF0)] sh0
    let s := machine sh blkExp
    let w := who sh blkExp
    (w.blk.eregs.get 1).owner = some w.sh.idx ∧ (ImageAt s w false (w.sh.readS 5).toNat 0x30FEF0 ∧ ImageAt s w true (w.sh.readS 5).toNat 0x30FEF0) ∧
      (∀ i, i < 272 → s.poisoned [(0, 0x30FEF0 + i)] = []) ∧
      ((w.blk.eregs.get 1).load (s.view w.blk.site w.blk.core 0x30FEF0 272)).isSome = true := by
  refine ⟨rfl, ⟨⟨⟨0x30FFF0, ?_⟩, ?_, ?_⟩, ⟨0x30FFF0, ?_⟩, ?_, ?_⟩, ?_, ?_⟩ <;> decide +kernel

/-! ## Witnesses: groups, neighbour-paced mode, messages, ranges, collectives -/

/-- The first joining, one past eight groups, one at a taken position; a member that leaves. -/
theorem witness_SharingGroups :
    let sh := regs [(5, 65535), (6, 65536)] sh0
    let w := who sh blk0
    let me : Member := { block := 1, tenancy := 0, base := 0, size := 65536, lost := false, leaving := false }
    let grouped (gs : List Group) : State := { machine sh blk0 with quads := [(0, { Quad.initial with groups := gs })] }
    let mine : Group := { ctx := 0, tag := 65535, members := [(0, me)] }
    let other (n : Nat) : Group := { ctx := 0, tag := n, members := [(1, { me with block := 9 })] }
    (grouped []).who? = some w ∧ w.sh.drained = true ∧ 65536 ≤ (w.sh.readS 6).toNat ∧ (w.sh.readS 5).toNat < 65536 ∧
      (grouped []).groupOf 0 w.b = none ∧ ((grouped []).quad 0).fenced = false ∧
      ({ machine sh blk0 with quads := [(0, { Quad.initial with fenced := true })] } : State).groupOf 0 w.b = none ∧ (joinGroup [] 0 65535 w.blk.pos me).isSome = true ∧
      joinGroup ((range 0 8).map other) 0 65535 w.blk.pos me = none ∧ ((range 0 8).map other).length ≤ 8 ∧
      (grouped [mine]).groupOf 0 w.b = some mine ∧ (mine.ctx = w.blk.ctx ∧ mine.tag = 65535) ∧
      (grouped [{ mine with tag := 3 }]).groupOf 0 w.b = some { mine with tag := 3 } ∧
      (grouped [mine]).peersOpen w.b w.coreKey = false ∧
      ({ grouped [mine] with peers := [⟨1, 1, 0, 128, 0, none, .land 0 1⟩] } : State).peersOpen w.b w.coreKey = true ∧
      (leaveGroup 1 [mine, other 3]) = [other 3] := by
  and_intros <;> first | decide +kernel | rfl

/-- The record of a mode: core 1 is waited on and held, two buffers of 16 bytes at the end of the store, step 5. -/
def npRegs : List (SReg × Nat) :=
  [(8, 2 ^ 64 - 256 + 1), (9, 2 ^ 64 - 256 + 1), (10, 2 ^ 32 * 16 + 65504), (11, 2 ^ 32 * 5 + 2 ^ 8 * 2 + 1), (12, 0)]
def npOn : Paced := { Paced.off with on := true, step := 5, done := 4, published := 4, skew := 1, depth := 2, bufbase := 65504, buflen := 16, owner := some 1 }
def paced (p : Paced) (s : State) : State := { s with cores := [(0, { Core.initial with np := p })] }

theorem witness_PacedInstructions :
    let sh := regs npRegs sh0
    let s := machine sh blk0
    let w := who sh blk0
    let r := [w.sh.readS 8, w.sh.readS 9, w.sh.readS 10, w.sh.readS 11]
    s.who? = some w ∧ w.blk.kern.feat.testBit 3 = true ∧ w.sh.drained = true ∧ npOn.on = true ∧
      (s.core w.coreKey).np.on = false ∧ (s.core w.coreKey).np.entering = [] ∧ s.entryRecord w.blk r ≠ none ∧
      s.entryRecord w.blk [0, 0, 0, 0] = none ∧ (∀ h ∈ [65], blockOf h = w.b ∧ h ≠ w.h) ∧ [65] ≠ [] ∧ w.h ∈ [64] ∧
      w.h ∉ npOn.passed ∧ npOn.owner = some w.b ∧ w.h ∉ npOn.leaving ∧ w.h ∉ npOn.arrived ∧
      s.ownPosted w.h false .die = false ∧ s.streamPeers w.h = false ∧ s.seenPosted w.blk.site w.blk.core .die = false ∧ npOn.announced = false ∧
      s.allStand w.b (npOn.arrived ++ [w.h]) = true ∧
      ({ s with shuttles := s.shuttles ++ [(65, { sh0 with idx := 1 })] } : State).allStand w.b [w.h] = false ∧
      ({ s with posted := [{ mkPosted 64 blk0 0 0 1 none false with line := 0xC000 }] } : State).ownPosted w.h false .die = true := by
  and_intros <;> first | decide +kernel | rfl

/-- The longest payload at the end of the store, and one that passes it; a receive that an overflow message meets. -/
theorem witness_MessageInstructions :
    let sh := regs [(5, 65536 - 224), (6, 2 ^ 40 * 224 + 2 ^ 16 * 7 + 1), (7, 65536 - 208), (8, 2 ^ 33 + 2 ^ 32), (9, 2 ^ 44 * 14 + 2 ^ 32 * 3), (10, 0)] sh0
    let s := machine sh blkBar
    let w := who sh blkBar
    let m : Message := { h := 128, ipc := 0, ctx := 0, src := 1, dst := 0, tag := 7, xdir := 0, payload := List.replicate 16 1, sent := true, refused := false, head := none }
    s.who? = some w ∧ w.sh.drained = true ∧ w.sh.wait ≠ .slot ∧ passes (s.judgeSend w (w.sh.readS 5).toNat (w.sh.readS 6).toNat) = true ∧
      stopsWith (s.judgeSend w (w.sh.readS 7).toNat (w.sh.readS 6).toNat) 0x085 = true ∧
      stopsWith (judgeRecv w (w.sh.readS 8).toNat 0) 0x133 = true ∧ passes (judgeRecv w (w.sh.readS 8).toNat (w.sh.readS 9).toNat) = true ∧
      (match judgeRecv w (w.sh.readS 8).toNat (w.sh.readS 9).toNat with
        | .ok r => [m].findIdx? r.accepts == some 0 && ([] : List Message).findIdx? r.accepts == none | _ => false) = true ∧
      (s.core w.coreKey).sendQ.length < 8 ∧ (s.core w.coreKey).sendSlots = [] ∧ (s.core w.coreKey).recvs.length < 32 := by
  and_intros <;> first | decide +kernel | rfl

def range0 : Range := { part := 0, ctx := some 0, start := 0, next := 0, stop := 100, div := 4, min := 1 }

/-- Range 63 allotted to the context; range 64; a record with a minimum of 0; room, and a full queue. -/
theorem witness_RangeInstructions :
    let sh := regs [(8, 2 ^ 40 - 1), (9, 2 ^ 40 - 1), (10, 2 ^ 24 + 1), (11, 63), (12, 64), (13, 1), (14, 1), (15, 1)] sh0
    let s := { machine sh blk0 with dies := [(0, { die0 with ranges := [(63, range0)] })] }
    let w := who sh blk0
    s.who? = some w ∧ w.sh.wait ≠ .slot ∧ s.rangeFor w.blk.site w.blk.ctx 63 = some range0 ∧
      ((w.sh.readS 8).toNat < 2 ^ 40 ∧ (w.sh.readS 8).toNat ≤ (w.sh.readS 9).toNat ∧ (w.sh.readS 10).toNat < 2 ^ 48 ∧
        (w.sh.readS 10).toNat / 2 ^ 16 % 256 = 0 ∧ 0 < (w.sh.readS 10).toNat / 2 ^ 24 ∧ 0 < (w.sh.readS 10).toNat % 2 ^ 16 ∧
        (w.sh.readS 11).toNat < 64) ∧ 64 ≤ (w.sh.readS 12).toNat ∧ ¬0 < (w.sh.readS 14).toNat / 2 ^ 24 ∧
      ((s.die w.blk.site).rangeQ.length < 16 ∧ (s.die w.blk.site).rangeSlots = []) ∧ ¬(List.replicate 16 0).length < 16 ∧
      ((w.sh.readS 11).toNat = 63 ∧ ({ s.die 0 with rangeQ := List.replicate 16 0 } : Die).rangeQ.length ≥ 16) := by
  and_intros <;> first | decide +kernel | rfl

/-- A gather of group 1, rank 0 of one, into and out of the activation store, for the first use. -/
theorem witness_CollectiveCommandsIssue :
    let b (use : Nat) : Nat := 2 ^ 52 + 2 ^ 48 * use + 2 ^ 20 + 2 ^ 15 + 2 ^ 14 + 2 ^ 12
    let sh := regs [(5, 65520), (6, 16), (7, b 0), (8, b 15), (9, b 3)] sh0
    let part := { part0 with groups := [(1, 1 + 2 ^ 64 * 0x100000)] }
    let s := { machine sh blk0 with parts := [(0, part)] }
    let w := who sh blk0
    let go (r : SReg) : Option (Judged Coll) := collOf s w (.cag 5 6 r)
    s.who? = some w ∧ w.sh.wait ≠ .slot ∧ (go 7).map passes = some true ∧ (go 8).map passes = some true ∧
      (go 9).map (fun j => stopsWith j 0x133) = some true ∧ ((s.hub 0).use 1).cur = 15 ∧ (s.hub 0).drain 1 = 0 ∧
      (s.hub 0).collQ.length < 64 ∧ (s.hub 0).collSlots = [] ∧
      ((s.hub 0).uses = [] ∧ ({ s.hub 0 with uses := [(1, { GidUse.initial with unacked := 1 })] } : Hub).drain 1 ≠ 0) := by
  and_intros <;> first | decide +kernel | rfl

/-! ## Witnesses: lane instructions -/

/-- A line of 32-bit words. -/
def line (a b c d e f g h : W32) : Line := #v[a, b, c, d, e, f, g, h]

/-- A shuttle in a run: v20 and v21 hold an address pair for each thread, v22 offsets in a store, v24 small numbers; v30 is
unbound; m1 selects no thread. -/
def shLane : Shuttle := { shRun with
  v := ((((Vector.replicate 256 none).set 20 (some (line 0x100000 0x100010 0x100020 0x100030 0x100040 0x100050 0x100060 0x100070))).set 21
    (some (Vector.replicate 8 0))).set 22 (some (line 0 16 32 48 64 0xFFC0 0xFFE0 0xFFF0))).set 24 (some (line 0 1 2 3 0 1 2 3))
  m := (Vector.replicate 8 0).set 0 0xFF }
def runLane : Run := run0 [0x700000000000000000000000]
def mLane : State := machine shLane blk0
def wLane : Who := who shLane blk0

theorem lane_running : mLane.who? = some wLane ∧ wLane.sh.queue = runLane :: [] := ⟨rfl, rfl⟩

/-- Every kind of integer operation has an instruction; a packed element and a word; a width at which fitting is defined. -/
theorem witness_LaneIntegerResults : mLane.who? = some wLane ∧ wLane.sh.queue = runLane :: [] ∧
    (intExact (.lAdd hd .s8x4 true (.main 30) (.main 22 true) (.imm 1))).isSome = true ∧
    (intExact (.lMulhi hdNone .s32 .lat .lat (.uni 1))).isSome = true ∧ (8 = 8 ∧ 3 < 32 / 8) ∧ (32 = 32 ∧ 0 < 32 / 32) ∧ 0 < 64 :=
  ⟨rfl, rfl, rfl, rfl, by decide⟩

theorem witness_LaneBitResults : mLane.who? = some wLane ∧ wLane.sh.queue = runLane :: [] ∧
    (bitResult (.lSra hd false (.opf 3) (.main 22 false) (.imm 31))).isSome = true ∧ (bitResult (.lTruth hd .lat .lat .lat .lat 0xCA)).isSome = true ∧
    (2 ^ 32 - 1 < 2 ^ 32 ∧ 0 < 2 ^ 32 ∧ 31 < 32) ∧ 0 < 0xFF % 256 ∧ 0x7777 / 2 ^ (4 * (31 / 8)) % 16 < 8 :=
  ⟨rfl, rfl, rfl, rfl, by decide⟩

theorem witness_LaneFloatResults : mLane.who? = some wLane ∧ wLane.sh.queue = runLane :: [] ∧
    (floatResult (.lFma hd .f16x2 .rtz .lat .lat .lat .lat)).isSome = true ∧ (wordResult (.lFrcp hd (.main 30) (.main 24 true))).isSome = true ∧
    (fE4m3 ∈ [fF32, fF16, fBf16, fE4m3, fE5m2] ∧ 0x7E < 2 ^ fE4m3.bits ∧ decodeF fE4m3 0x7E ≠ .nan) ∧
    (fF32 ∈ [fF32, fF16, fBf16, fE4m3, fE5m2] ∧ 0xFFFFFFFF < 2 ^ fF32.bits ∧ decodeF fF32 0x80000000 ≠ .nan) := by
  and_intros <;> first | decide +kernel | rfl

theorem witness_CompareAndSelect : mLane.who? = some wLane ∧ wLane.sh.queue = runLane :: [] := lane_running

/-- All, some and no threads selected; a bound and an unbound name; a released one. -/
theorem witness_LaneWriteEffect : (0xFF#8 ≠ 0 ∧ (1#8).getLsbD 7 = false ∧ (1#8).getLsbD 0 = true) ∧ (shLane.v.get 24).isSome = true ∧
    shLane.v.get 30 = none ∧ LSrc.main 255 true ∈ [LSrc.lat, .main 255 true] ∧ shLane.queue = runLane :: [] ∧ (7 : MReg) ≠ 0 :=
  ⟨by decide, rfl, rfl, by decide, rfl, by decide⟩

theorem witness_ShuttleWideResults : mLane.who? = some wLane ∧ wLane.sh.queue = runLane :: [] := lane_running

/-- Where the address pair of `shLane` points. -/
def paLane (th : Nat) : Nat := 0x300000 + 16 * th

/-- A run with a buffer record at u4: .n8 elements at page 0x10, strides of 16 and 1, BOUNDS 1, an extent of 32 bytes; and an
address at u8. -/
def runBuf : Run :=
  { runLane with caps := ((((runLane.caps.set 4 0x100000).set 5 32).set 6 0x100000010).set 7 0x43).set 8 0x100000 }
def shBuf : Shuttle := { shLane with queue := [runBuf] }
def mBuf : State := machine shBuf blk0
def wBuf : Who := who shBuf blk0
def pair20 : LSrc := .main 20 false

/-- A 128-bit load, one of whose halves may have been read; LDG at every address of its index; a buffer load with threads 2, 3, 6 and 7 past the extent; nobody selected. -/
theorem witness_LaneGlobalLoads :
    let q := recordOf runBuf 4
    let o (th : Nat) : Nat := readSrc mBuf shBuf runBuf (.main 24 false) 1 th * bufStrideI q + th * bufStrideT q + 0
    let out (th : Nat) : Bool := o th + fmtBits (bufFmt q) / 8 > bufExtent q
    let sel := (selected wBuf hd).filter fun th => !out th || bufBounds q == 2
    mBuf.who? = some wBuf ∧ wBuf.sh.queue = runBuf :: [] ∧ runBuf.repl = none ∧
      ({ runBuf with half := some (true, [(0, List.replicate 8 1)]) } : Run).repl = none ∧
      (globalLoad mBuf wBuf runBuf (.lLd hd .b128 ⟨.g, none, false, false, true⟩ (.main 30) pair20 0)).isSome = true ∧
      LaneMayRead mBuf wBuf false 16 (selected wBuf hd) (globalAddr mBuf wBuf runBuf pair20 0) paLane ∧
      (globalLoad mBuf wBuf runBuf (.lLdg hdNone true (.main 30) 8 (.main 24 false) 16)).isSome = true ∧
      LaneMayRead mBuf wBuf false 8 (selected wBuf hdNone) (fun _ => 0) paLane ∧
      bufBad q = false ∧ bufBounds q = 1 ∧ sel = [0, 1, 4, 5] ∧
      LaneMayRead mBuf wBuf false 1 sel (fun th => bufBase q + o th) (fun th => 0x300000 + o th) := by
  refine ⟨rfl, rfl, rfl, rfl, rfl, ⟨⟨?_, ?_⟩, ?_⟩, rfl, ⟨⟨?_, ?_⟩, ?_⟩, ?_, ?_, ?_, ⟨?_, ?_⟩, ?_⟩ <;> first | decide +kernel | rfl

/-- A machine with a second block at core 1 and the group of the two. -/
def memb (b : Nat) : Member := { block := b, tenancy := 0, base := 0, size := 65536, lost := false, leaving := false }
def peerBlk : Block := { placedBlock 2 0x100000 0 with core := 1 }
def mGroup : State := { mLane with
  blocks := [(1, blk0), (2, peerBlk)]
  quads := [(0, { Quad.initial with groups := [{ ctx := 0, tag := 1, members := [(0, memb 1), (1, memb 2)] }] })] }

theorem target_window : LocalTarget mGroup wLane (.peer 1) 2 peerBlk false 65536 :=
  ⟨rfl, rfl, memb 2, by decide +kernel, rfl, rfl, rfl, rfl, by decide +kernel, fun _ => by decide +kernel, fun _ h => nomatch h⟩

/-- The window onto the block's own region. -/
theorem target_own : LocalTarget mGroup wLane (.peer 0) 1 blk0 false 65536 :=
  ⟨rfl, rfl, memb 1, by decide +kernel, rfl, rfl, rfl, rfl, by decide +kernel, fun h => absurd rfl h, fun _ h => nomatch h⟩

/-- The last 16 bytes of the store; a window; the stack store; a step buffer; a full granule and an empty one. -/
theorem witness_LaneLocalLoads :
    let ld (sp : LSpace) (q : Option StepQ) : Instr := .lLd hd .b128 ⟨sp, q, true, true, false⟩ (.main 30) (.main 22 false) 0
    mGroup.who? = some wLane ∧ wLane.sh.queue = runLane :: [] ∧ (localLoad (ld .a none)).isSome = true ∧
      LocalTarget mGroup wLane .a 1 blk0 false 65536 ∧ StepOk mGroup wLane runLane none 16 (selected wLane hd) (.main 22 false) 0 ∧
      (∀ th ∈ selected wLane hd, stepOff mGroup wLane runLane none (.main 22 false) 0 th + 16 ≤ 65536 ∧
        stepOff mGroup wLane runLane none (.main 22 false) 0 th % 16 = 0) ∧
      (localLoad (ld (.peer 1) none)).isSome = true ∧ LocalTarget mGroup wLane (.peer 1) 2 peerBlk false 65536 ∧
      (localLoad (.lLdw hd .b32 false false (.main 30) (.main 24 false) 0)).isSome = true ∧
      LocalTarget mGroup wLane .w 1 blk0 true blk0.w.bytes ∧ ({ blk0.a with full := [4095] } : LStore).isFull 4095 = true ∧
      blk0.a.isFull 4095 = false := by
  refine ⟨rfl, rfl, rfl, ⟨rfl, rfl, rfl, rfl⟩, (fun _ h => nomatch h), by decide +kernel, rfl, target_window, rfl, ⟨rfl, rfl, rfl, rfl⟩, ?_, ?_⟩ <;>
    first | decide +kernel | rfl

/-- Addresses of 16 bytes, of which a lower thread's are not a higher one's; the buffer of `witness_LaneGlobalLoads`. -/
theorem witness_LaneGlobalStores :
    let q := recordOf runBuf 4
    let o (th : Nat) : Nat := readSrc mBuf shBuf runBuf (.main 24 false) 1 th * bufStrideI q + th * bufStrideT q + 0
    let sel := (selected wBuf hd).filter fun th => !decide (o th + fmtBits (bufFmt q) / 8 > bufExtent q) || bufBounds q == 2
    mBuf.who? = some wBuf ∧ wBuf.sh.queue = runBuf :: [] ∧ (⟨.g, none, false, false, false⟩ : MemCtl).space = .g ∧
      LaneMayAccess mBuf wBuf true 16 (selected wBuf hd) (globalAddr mBuf wBuf runBuf pair20 0) paLane ∧ (∀ th, paLane th % 16 = 0) ∧
      bufBad q = false ∧ bufBounds q = 1 ∧ fmtBits (bufFmt q) / 8 = 1 ∧ (∀ th, (0x300000 + o th) % 1 = 0) ∧
      LaneMayAccess mBuf wBuf true 1 sel (fun th => bufBase q + o th) (fun th => 0x300000 + o th) ∧
      (1 ∈ selected wBuf hd ∧ 15 < 16 ∧ ∀ o ∈ selected wBuf hd, 1 < o → paLane 1 + 15 < paLane o ∨ paLane o + 16 ≤ paLane 1 + 15) := by
  refine ⟨rfl, rfl, rfl, ⟨?_, ?_⟩, fun th => by simp only [paLane]; omega, ?_, ?_, ?_, fun _ => Nat.mod_one _, ⟨?_, ?_⟩, ?_⟩ <;>
    first | decide +kernel | rfl

theorem witness_LaneLocalStores :
    let mc (sp : LSpace) : MemCtl := ⟨sp, none, true, false, false⟩
    mGroup.who? = some wLane ∧ wLane.sh.queue = runLane :: [] ∧ LocalTarget mGroup wLane (mc .a).space 1 blk0 false 65536 ∧
      StepOk mGroup wLane runLane (mc .a).step 16 (selected wLane hd) (.main 22 false) 0 ∧
      (∀ th ∈ selected wLane hd, stepOff mGroup wLane runLane (mc .a).step (.main 22 false) 0 th + 16 ≤ 65536 ∧
        stepOff mGroup wLane runLane (mc .a).step (.main 22 false) 0 th % 16 = 0) ∧
      LocalTarget mGroup wLane (mc (.peer 0)).space 1 blk0 false 65536 ∧ wLane.b = 1 ∧ 2 ≠ wLane.b ∧
      LocalTarget mGroup wLane (mc (.peer 1)).space 2 peerBlk false 65536 ∧ (mGroup.window wLane.blk wLane.b 1).isSome = true ∧
      (7 ∈ selected wLane hd ∧ 15 < 16 ∧ ∀ p ∈ selected wLane hd, ¬7 < p) := by
  refine ⟨rfl, rfl, ⟨rfl, rfl, rfl, rfl⟩, (fun _ h => nomatch h), by decide +kernel, target_own, rfl, by decide, target_window, ?_, ?_⟩ <;> decide +kernel

theorem witness_LaneAtomics :
    mGroup.who? = some wLane ∧ wLane.sh.queue = runLane :: [] ∧ runLane.repl = none ∧ mGroup.NoEvents ∧ mGroup.mem.wf = true ∧
      (atomicOf mGroup wLane runLane (.lAmo hd .add false .g (.main 30) pair20 (.main 24 false) 0)).isSome = true ∧
      LaneMayRead mGroup wLane true 4 (selected wLane hd) (globalAddr mGroup wLane runLane pair20 0) paLane ∧
      (∀ th ∈ selected wLane hd, paLane th % 4 = 0 ∧ (∀ p ∈ mGroup.posted, p.line ≠ paLane th / 64) ∧ mGroup.OffTables (paLane th) ∧
        mGroup.compressedAt wLane.blk.site wLane.blk.ctx (globalAddr mGroup wLane runLane pair20 0 th) = false) ∧
      (atomicOf mGroup wLane runLane (.lAmo3 hd .cas true .a 7 .lat (.main 22 false) (.main 24 false) (.imm 1))).isSome = true ∧
      LocalTarget mGroup wLane .a 1 blk0 false 65536 ∧ LocalTarget mGroup wLane (.peer 1) 2 peerBlk false 65536 ∧
      (∀ th ∈ selected wLane hd, (readSrc mGroup shLane runLane (.main 22 false) 0 th + 0) % 2 ^ 32 + 4 ≤ 65536 ∧
        (readSrc mGroup shLane runLane (.main 22 false) 0 th + 0) % 2 ^ 32 % 4 = 0) := by
  refine ⟨rfl, rfl, rfl, (fun _ h => nomatch h), ?_, rfl, ⟨⟨?_, ?_⟩, ?_⟩, ?_, rfl, ⟨rfl, rfl, rfl, rfl⟩, target_window, ?_⟩ <;> first | decide +kernel | rfl | (unfold State.OffTables; decide +kernel)

/-- The first address past the space; a misaligned one; a page that nothing maps, a serviceable one, one that may not be
written; the ends of the activation store; lane accesses of which threads 5 to 7 pass the end and 1, 2 and 3 are misaligned. -/
theorem witness_AccessTraps :
    let sh := regs [(5, 65532), (6, 65533), (7, 1), (8, 0x140000), (9, 0x130000), (10, 0x110000), (11, 2 ^ 57)] sh0
    let s := machine sh blk0
    let w := who sh blk0
    let ck (wr : Bool) (r : SReg) : Checked := s.check 0 0 [] wr 5 4 [(0, (w.sh.readS r + 0).toNat)]
    (2 ^ 57 ≤ 2 ^ 57 ∧ 0x100001 < 2 ^ 57 ∧ 0x100001 % 4 ≠ 0) ∧ s.translate 0 0 0x140000 = .none ∧
      (match s.translate 0 0 0x130000 with | .serv .. => true | _ => false) = true ∧
      (match s.translate 0 0 0x110000 with | .page pa wr _ => pa == 0x310000 && !wr | _ => false) = true ∧ s.who? = some w ∧
      (65533 % 2 ^ 32 + 4 > w.blk.a.bytes ∧ 65532 + 4 ≤ w.blk.a.bytes ∧ 65532 % 8 ≠ 0 ∧ 1 % 4 ≠ 0) ∧
      (ck false 11 = .trap 0x05D 1 (2 ^ 57) ∧ ck false 8 = .trap 0x045 1 0x140000 ∧ ck true 10 = .trap 0x055 1 0x110000 ∧
        ck false 9 = .wait [0x13]) ∧
      mLane.who? = some wLane ∧ wLane.sh.queue = runLane :: [] ∧ runLane.repl = none ∧ runLane.fatal = [] ∧
      mLane.check 0 0 [] false 5 4 ((selected wLane hd).map fun th => (th, globalAddr mLane wLane runLane pair20 2 th)) =
        .trap 0x04D 255 0x100002 ∧
      (selected wLane hd).filter (fun x => decide (blk0.a.bytes < (readSrc mLane shLane runLane (.main 22 false) 0 x + 0x20) % 2 ^ 32 + 16)) =
        6 :: [7] ∧
      (selected wLane hd).filter (fun x => decide ((readSrc mLane shLane runLane (.main 24 false) 0 x + 0) % 2 ^ 32 % 4 ≠ 0)) =
        1 :: [2, 3, 5, 6, 7] := by
  and_intros <;> first | decide +kernel | rfl

/-- A step of the core's own buffer; expansion registers of both kinds; a list of near elements with room,
2 of 4, and one of 0 of 0. -/
theorem witness_StepAndExpansionLanes :
    let blk := { blkExp with a := blkExp.a.writeN 65504 [2, 0, 0, 0, 4, 0, 0, 0] }
    let sh := { shLane with v := (shLane.v.set 25 (some (Vector.replicate 8 0))).set 26 (some (Vector.replicate 8 4)) }
    let s := paced npOn (machine sh blk)
    let w := who sh blk
    s.who? = some w ∧ w.sh.queue = runLane :: [] ∧ (s.core w.coreKey).np.on = true ∧
      (∀ th ∈ selected w hd, (readSrc s sh runLane (.main 25 false) 1 th = w.blk.core) ∧ w.blk.core ∉ runLane.gone ∧
        (readSrc s sh runLane (.main 25 false) 0 th + 0) % 2 ^ 32 + 16 ≤ npOn.buflen ∧
        stepGe npOn.done (readSrc s sh runLane (.main 26 false) 2 th) = true ∧
        stepGe ((npOn.step + 2 ^ 32 - readSrc s sh runLane (.main 26 false) 2 th % 2 ^ 32) % 2 ^ 32) npOn.depth = false) ∧
      (npOn.owner = some 1 ∧ s.blk? 1 = some blk) ∧ ((w.blk.eregs.get 1).kind = 1 ∧ (w.blk.eregs.get 2).kind = 2) ∧
      (∀ th ∈ selected w hd, (readSrc s sh runLane (.main 22 false) 0 th) % 16 = 0 ∧
        (readSrc s sh runLane (.main 22 false) 0 th) + 16 ≤ w.blk.a.bytes) ∧
      (65504 + 16 ≤ w.blk.a.bytes ∧ leNat (w.blk.a.readN 65504 4) = 2 ∧ leNat (w.blk.a.readN 65508 4) = 4 ∧
        65504 + 16 + 4 * 2 + 4 ≤ w.blk.a.bytes ∧ 7 < 2 ^ 32) ∧
      (65488 + 16 ≤ w.blk.a.bytes ∧ ¬(leNat (w.blk.a.readN 65488 4) < leNat (w.blk.a.readN 65492 4))) := by
  and_intros <;> first | decide +kernel | rfl
/-! ## Witnesses: runs, dispatch, launches -/

/-- A shuttle whose head run of some words stands in a phase. -/
def shPhase (p : RunPhase) (words : List Nat) (off : Nat) : Shuttle :=
  { shLane with queue := [{ runLane with phase := p, words := words, off := off }] }
/-- LTID to v30, which no name holds; a 16-byte load of v32 to v35 from the activation store with .wf. -/
def wordLtid : Nat := (encodeLane (.lLtid hd (.main 30))).getD 0
def instrWf : Instr := .lLd hd .b128 ⟨.a, none, true, true, false⟩ (.main 32) (.main 22 false) 0
def wordWf : Nat := (encodeLane instrWf).getD 0
def peakBlk (n : Nat) : Block := { blk0 with kern := { blk0.kern with peak := n } }
/-- Two blocks on core 0: a shuttle of each, each in enlarge wait; or the first at a barrier. -/
def mTwo (x y : Shuttle) : State := { machine x blk0 with
  shuttles := [(64, x), (128, y)], blocks := [(1, blk0), (2, { blk0 with admitted := 2, abase := 65536, tiles := [] })] }
/-- The load waits, since cycle 0. -/
def shWf : Shuttle := { shLane with queue := [{ runLane with words := [wordWf], since := some 0 }] }
def blkFull (n : Nat) : Block := { blk0 with a := { blk0.a with full := (range 0 n).map fun i => i } }

theorem witness_RunScheduling :
    let ws := unboundWrites shLane 0 [wordLtid] []
    let q := shPhase .queued [wordLtid] 0
    let draining : Shuttle := { sh0 with status := .draining }
    (∀ x ∈ [shPhase .queued [wordLtid] 0, shPhase (.ready 0) [wordLtid] 0, shPhase (.ready 0) [wordLtid] 1], ∃ r, x.queue = r :: []) ∧
      (ws.length = 1 ∧ shLane.bound = 4) ∧ (machine q blk0).sh? 64 = some q ∧ (machine q blk0).competes 64 q = true ∧
      (machine q blk0).heldBack 0 q = false ∧ (peakBlk 4).kern.peak < q.bound + ws.length ∧
      q.bound + ws.length ≤ (peakBlk 5).kern.peak ∧ (machine q blk0).supplies 0 64 1 = true ∧
      ((mTwo q sh0).core 0).favoured = none ∧
      (mTwo q { sh0 with v := Vector.replicate 256 none, queue := [{ runLane with aside := 12284 }] }).supplies 0 64 1 = false ∧
      (let s := machine (shPhase (.ready 0) [wordLtid] 0) blk0
       31 < Config.lanes 0 ∧ s.laneTaken 0 7 = false ∧ s.nextRun 0 7 = some 64 ∧ s.nextRun 0 31 = none) ∧
      [wordLtid].length ≤ 1 ∧ q.frozen = false ∧
      (machine draining blk0).drained 64 0 draining = true ∧ blk0.status = .resident ∧ blk0.stopping = false ∧
      (let s := mTwo (shPhase .enlarge [wordLtid] 0) (shPhase .enlarge [wordLtid] 0)
       s.stuck 0 = true ∧ (s.core 0).favoured = none ∧ (s.waitingLines 0).filter (fun h => !s.isSuper (blockOf h)) = 64 :: [128]) ∧
      (let x : Shuttle := { sh0 with wait := .barrier 3 }
       let s : State := { mTwo x (shPhase .enlarge [wordLtid] 0) with cores := [(0, { Core.initial with favoured := some 64 })] }
       (s.core 0).favoured = some 64 ∧ s.sh? 64 = some x ∧ s.stuck 0 = true ∧ x.enlarging = false ∧ s.youngest 0 1 = some 2) ∧
      (let s := machine shWf (blkFull 4096)
       (match s.laneWord 64 with | some (_, r, i) => i == instrWf && r.since == some 0 | none => false) = true ∧
       (∀ th ∈ selected (who shWf (blkFull 4096)) hd, readSrc s shWf runLane (.main 22 false) 0 th + 16 ≤ 65536 ∧
          readSrc s shWf runLane (.main 22 false) 0 th % 16 = 0) ∧ (blkFull 4096).a.isFull 4095 = true) ∧
      (let s : State := { machine shWf (blkFull 4095) with now := 2 ^ 20 }
       (match s.laneWord 64 with
         | some (w, r, i) => (wfLoad i).any fun l => s.emptyThreads w r l == [(7, 0xFFF0)] && r.pages == []
         | none => false) = true) := by
  refine ⟨?_, ?_⟩
  · intro x hx
    simp at hx
    rcases hx with rfl | rfl | rfl <;> exact ⟨_, rfl⟩
  and_intros <;> first | decide +kernel | rfl
/-- A kernel of two shuttles, and launch 7 of priority 3 with two blocks of it, on queue 0 of partition 0. -/
def kern2 : Kern := { placedKern 0x100000 with shuttles := 2, astore := 1024, wstore := 256, ctiles := 1, peak := 8, init := 1, feat := 0 }
def launch0 : Launch :=
  { part := 0, seq := 7, queue := 0, prio := 3, ctx := 0, kern := kern2, gx := 2, gy := 1, gz := 1, place := 0, serial := false,
    nbars := 4, waits := [], arrive := 0, args := [1, 2], left := false, eligible := true, nextBlock := 0, tail := false, ended := 0,
    failed := false, complete := false, before := none, since := 0, desc := 0x104000 }
def partQ : Part := { part0 with queues := [(0, [7])] }
/-- Page 0x10 of the tables, with an event object at 0x100100 that expects one arrival. -/
def memEvents : Memory :=
  (tables.writeN 0x404080 (leBytes 8 0x300007)).writeN 0x300100 (leBytes 16 (2 ^ 36 + 8))
def mLaunch (l : Launch) (blk : Block) : State :=
  { machine sh0 blk with launches := [(7, l)], parts := [(0, partQ)], now := 2 ^ 20, mem := memEvents }
/-- A block with every barrier object of its core, on each core of granule 0. -/
def fullBlk (c : Nat) : Block := { blk0 with core := c, nbars := 256 }
def mFull : State := { mLaunch launch0 (fullBlk 0) with blocks := (range 0 16).map fun c => (c + 1, fullBlk c) }
/-- What a halt has captured, with nothing saved. -/
def cap0 : Capture :=
  { seq := 0, queues := [], blocks := [], shuttles := [], overflow := [], recvs := [], ranges := [], table := [], frames := [] }
/-- The command window, whose ring holds one command. -/
def mCmd (cmd : Nat) (halted : Bool) : State :=
  { machine sh0 blkSuper with
    parts := [(0, { part0 with halted := halted })]
    mem := ((memLaunch.writeN 0x360000 (leBytes 4 512)).writeN 0x360004 (leBytes 4 256)).writeN 0x360100 (leBytes 256 cmd) }

theorem witness_DispatchAndLaunch :
    (let s := mLaunch launch0 blk0
     s.part? 0 = some partQ ∧ partQ.halted = false ∧
       (match s.firstPlaced partQ (s.dispatchHeld 0) (s.cands 0) with
         | some (x, [c]) => c == 4 && !x.resuming && whoLaunch x.who == 7 && x.linear == 0 | _ => false) = true ∧
       s.launch? 7 = some launch0 ∧ s.ctx? launch0.ctx = some ctx0 ∧ launch0.kern.shuttles ≤ 64) ∧
    (let s := mLaunch launch0 blk0
     ((s.cands 0).filter fun x => decide (x.since + s.mgmt.mhz * 1000 ≤ s.now) && !(partQ.reserved.any fun e => e.1 == x.who)).length = 1 ∧
       (s.cands 0).all (fun x => (s.bestPlace partQ x false []).isSome) = true) ∧
    (let s := mFull
     (s.cands 0).all (fun x => x.prio == 3 && decide (x.since + s.mgmt.mhz * 100 ≤ s.now) && s.bestPlace partQ x true [] == none) = true ∧
       s.cands 0 ≠ [] ∧ (∀ e ∈ s.blocks, e.2.part = 0 → e.2.stopping = false) ∧ (1, fullBlk 0) ∈ s.blocks ∧
       (s.rankOf (fullBlk 0)).1 < 3) ∧
    (let k : Block := { blk0 with status := .placed }
     (machine sh0 k).blk? 1 = some k ∧ k.image = none ∧ (machine sh0 k).numberFree 1 k.coreKey = true ∧ (machine sh0 k).entryPending k.coreKey = false ∧
       (machine sh0 k).halted k.part = false ∧ ((machine sh0 k).blocks.filter fun e => e.1 == 1).length = 1 ∧ (machine sh0 k).launch? k.launch = none ∧
       ((machine sh0 k).core k.coreKey).tenants = [] ∧ 0 < k.kern.astore) ∧
    (let l (b : Bool) : Launch := { launch0 with eligible := false, serial := true, waits := [(0x100100, b)] }
     Tab.getD partQ.queues 0 [] = 7 :: [] ∧ (mLaunch (l true) blk0).launch? (launchKey 0 7) = some (l true) ∧
       (∀ e ∈ (l true).waits, (mLaunch (l true) blk0).eventMet 0 e = true) ∧ (mLaunch (l false) blk0).eventMet 0 (0x100100, false) = false) ∧
    (let l : Launch := { launch0 with ended := 2, left := true, arrive := 0x100100 }
     l.total ≤ l.ended ∧ (mLaunch l blk0).eventPa l.ctx l.arrive = some 0x300100 ∧ (mLaunch l blk0).HubMay 0x300100 1 ∧
       (mLaunch l blk0).mem.wf = true ∧ l.failed = false) ∧
    (let go := 1 + 2 ^ 128 * 0x100 + 2 ^ 1024 * (0x104000 + 2 ^ 64 * (1 + 2 ^ 16 + 2 ^ 32) + 2 ^ 128 * 4)
     ((mCmd go false).supervisor part0).any (fun w => w.h == 64 && w.sh == sh0 && w.blk == blkSuper) = true ∧
       (∀ c ∈ [go, 1, 2, 2 + 2 ^ 192, 3, 4, 0, 5, 3 + 2 ^ 8], ((mCmd c false).command 0).map (·.2) = some (256, c)) ∧
       (∀ c ∈ [go, 1], c % 256 = 1) ∧ (∀ c ∈ [go, 1, 2, 2 + 2 ^ 192, 3, 4], slotBad c = false) ∧ slotBad (3 + 2 ^ 8) = true ∧
       part0.waiting = none ∧ 16 ≤ (List.replicate 16 0).length ∧ blkSuper.part = 0 ∧ (mCmd 4 true).mem.wf = true ∧
       ((mCmd go false).command 0).any (fun e => match (mCmd go false).judgeRecord (who sh0 blkSuper) e.1 (go / 2 ^ 1024 % 2 ^ 1024)
         (bitsOf go 137 128) with | .ok l => (Tab.getD e.1.queues l.queue []).length < 16 | .error _ => false) = true ∧
       (match (mCmd 1 false).judgeRecord (who sh0 blkSuper) part0 0 0 with | .error c => c == 2 | .ok _ => false) = true ∧
       (2 + 2 ^ 192) / 2 ^ 192 % 2 ^ 64 ∉ part0.granules ∧ 2 / 2 ^ 192 % 2 ^ 64 ∈ part0.granules ∧
       (part0.window = 0x360000 ∧ (mCmd 4 true).HubMay (0x360000 + 256 + 8) 8 ∧ (mCmd 4 true).HubMay (0x360000 + 4) 4) ∧
       ({ part0 with halted := true, capture := some cap0 } : Part).capture = some cap0 ∧ part0.capture = none) := by
  and_intros <;> first | decide +kernel | rfl | (unfold State.HubMay State.OffTables; decide +kernel)
/-! ## Witnesses: traps between instructions, Fatal, pre-emption -/

/-- Traps that wait for a boundary: a lane trap with its stopped run, a held control trap, two deferred traps. -/
def shLT : Shuttle := { shLane with laneTrap := some { cause := 0x05D, lane := true }, queue := [{ runLane with phase := .stopped }] }
def shHeld : Shuttle := { sh0 with held := some { cause := 0x190 }, wait := .other }
def shDef : Shuttle := { sh0 with deferred := [{ cause := 0x06D }, { cause := 0x10F }] }
def mPoison : State := { machine sh0 blk0 with poison := [0x300000 / 64] }
/-- A block that Fatal struck, of launch 7, with the room for a record. -/
def blkFatal : Block := { blk0 with fatal := some (64, { cause := 0x1A0 }), launch := 7 }
def shFatal : Shuttle := { sh0 with status := .fatal }
def mFatal (cons : Nat) : State := { machine shFatal blkFatal with
  launches := [(7, launch0)]
  mem := (tables.writeN 0x370000 (leBytes 4 128)).writeN 0x370004 (leBytes 4 cons) }

/-- The hub may write above the context's table where no line fails. -/
theorem hub_may (s : State) (pa n : Nat) (hp : s.poison = []) (hb : s.bad = []) (ht : ∀ e ∈ s.parts, e.2.table = 0x350000)
    (h : 0x354040 ≤ pa) : s.HubMay pa n := by
  refine fun i _ => ⟨by simp [State.lineBad, hp, hb], fun e he => .inr ?_⟩
  rw [ht e he]; omega

theorem struck_one {α : Type} (s : State) (x : α) : s.struck [x] = some x := by simp [State.struck, Nat.mod_one]

theorem witness_TrapAndFatalSteps :
    ((machine shLT blk0).atBoundary 64 = some shLT ∧ CanDeliver (machine shLT blk0) (who shLT blk0) ctx0 0x320F00 ∧
      (shLT.deferred = [] ∧ shLT.laneTrap = some { cause := 0x05D, lane := true })) ∧
    ((machine shHeld blk0).atBoundary 64 = some shHeld ∧ CanDeliver (machine shHeld blk0) (who shHeld blk0) ctx0 0x320F00 ∧
      (shHeld.deferred = [] ∧ shHeld.laneTrap = none ∧ shHeld.held = some { cause := 0x190 } ∧ shHeld.queue = [])) ∧
    ((machine shDef blk0).atBoundary 64 = some shDef ∧ CanDeliver (machine shDef blk0) (who shDef blk0) ctx0 0x320F00 ∧
      shDef.deferred = { cause := 0x06D } :: [{ cause := 0x10F }]) ∧
    (mPoison.fetchControl (who sh0 blk0) = .trap 0x165 ∧ (machine sh0 blk0).fetchControl (who sh0 blk0) ≠ .trap 0x165 ∧
      mPoison.translate 0 0 sh0.pc.toNat = .page 0x300000 true false ∧ (mPoison.boundary 64 sh0).isNone = true ∧
      (mPoison.boundary 64 shDef).isSome = true) ∧
    ((machine sh0 blk0).blk? 1 = some blk0 ∧ blk0.site = 0 ∧ blk0.holds = true ∧ blk0.fatal = none) ∧
    (machine sh0 blk0).atBoundary 64 = some sh0 := by
  refine ⟨⟨?_, ⟨?_, ?_, ?_, ?_, ?_, 0x320FFF, ?_⟩, ?_⟩, ⟨?_, ⟨?_, ?_, ?_, ?_, ?_, 0x320FFF, ?_⟩, ?_⟩, ⟨?_, ⟨?_, ?_, ?_, ?_, ?_, 0x320FFF, ?_⟩, ?_⟩, ?_⟩ <;>
    and_intros <;> first | decide +kernel | rfl

/-- Two blocks whose shuttles are inside one translation that a machine check discards. -/
theorem witness_TrapAndFatalSteps_hub :
    let s : State := { mTwo sh0 sh0 with trans := [⟨true, false, 0, 0x100000, [0], true, [64, 128]⟩] }
    (s.blk? 1).isSome = true ∧ (∃ x ∈ s.trans, ∃ j ∈ x.inside, blockOf j = 1) ∧ (s.blk? (blockOf 128)).map (·.fatal) = some none := by
  and_intros <;> decide +kernel

/-- A struck block with room in the log and with a full one. -/
theorem witness_TrapAndFatalSteps_log :
    (let s := mFatal 128
     s.blk? 1 = some blkFatal ∧ blkFatal.status ≠ .ended ∧ s.quiet 1 blkFatal.coreKey = true ∧
      s.launch? blkFatal.launch = some launch0 ∧ s.part? blkFatal.part = some part0 ∧ s.sh? 64 = some shFatal ∧ s.mem.wf = true ∧
      s.word32 part0.log = 128 ∧ 256 ≠ s.word32 (part0.log + 4) ∧ 256 = (mFatal 256).word32 (part0.log + 4) ∧
      s.HubMay part0.log 12 ∧ s.HubMay (part0.log + s.word32 part0.log) 128) := by
  and_intros <;> first | decide +kernel | rfl | exact hub_may _ _ _ rfl rfl (by decide) (by decide +kernel)

/-- A machine at a word that reads the store, or an expansion register of the shuttle. -/
def mAt (i : Instr) : State :=
  { machine sh0 blkExp with mem := tables.writeN 0x300000 (leBytes 4 ((encodeCtl i).getD 0)),
                            trans := [⟨true, false, 0, 0x100000, [(encodeCtl i).getD 0], true, [64]⟩] }

def readWord : Instr := .ldsA 9 0 false 0
def xstWord : Instr := .xst 1 0 true
/-- A soft error that the next word meets, in the store or in a register, and one that nothing reads. -/
theorem witness_TrapAndFatalSteps_errors :
    (let w := who sh0 blkExp
     ((mAt readWord).storeError w).isSome = true ∧ ((mAt xstWord).eregError w).isSome = true ∧
      (mAt readWord).atBoundary 64 = some sh0) ∧
    (((machine sh0 blk0).storeError (who sh0 blk0)).isNone = true ∧ ((machine sh0 blk0).engineError (who sh0 blk0)).isNone = true ∧
      ((machine sh0 blk0).eregError (who sh0 blk0)).isNone = true) ∧
    sh0.status = .running ∧ blkExp.fatal = none := by
  have a1 : (mAt readWord).laneWord 64 = none := by rfl
  have a2 : (mAt readWord).wordAt (who sh0 blkExp) sh0.pc.toNat = some readWord := by decide +kernel
  have a3 : (controlReads (who sh0 blkExp) readWord).flatMap LocalRead.places = [(1, false, 0)] := by decide +kernel
  have a4 : (mAt readWord).wouldComplete 64 false readWord = true := by decide +kernel
  have a5 : controlReads (who sh0 blkExp) readWord = [{ block := 1, ws := false, off := 0, len := 4, thread := 0 }] := by rfl
  have a6 : ((mAt readWord).boundary 64 sh0).isNone = true := by decide +kernel
  have b1 : (mAt xstWord).laneWord 64 = none := by rfl
  have b2 : (mAt xstWord).wordAt (who sh0 blkExp) sh0.pc.toNat = some xstWord := by decide +kernel
  have b3 : readsEreg sh0 xstWord = [1] := by rfl
  have b4 : (mAt xstWord).wouldComplete 64 false xstWord = true := by decide +kernel
  have b5 : ((mAt xstWord).boundary 64 sh0).isNone = true := by decide +kernel
  refine ⟨⟨?_, ?_, rfl⟩, ?_, rfl, rfl⟩
  · simp only [who] at *
    have a7 : granules 0 4 = [0] := by rfl
    simp [State.storeError, a1, a2, a4, a5, a6, a7, LocalRead.places, struck_one]
  · simp only [who] at *
    simp [State.eregError, b1, b2, b3, b4, b5, struck_one]
  · and_intros <;> rfl

/-- A copy command of the block, in flight or not; a posted write of its shuttle. -/
def copy0 (s : State) (w : Who) : Copy :=
  { mkCopy s w ⟨false, false, .lane⟩ .linear with src := .g, srcAddr := 0x106000, dst := .a, dstAddr := 0, len := 64, bar := some 3 }
def cpy (fly : Bool) (units : Nat) : Copy :=
  { copy0 (machine sh0 blk0) (who sh0 blk0) with inFlight := fly, done := units, written := decide (4 ≤ units) }
def withCore (c : Core) (s : State) : State := { s with cores := [(0, c)] }
def blkStop : Block := { blk0 with stopping := true }
def img0 : Image := { copies := [cpy false 0], slots := [], mats := [], version := 0, length := 0, bytes := 0, spillAt := none, core := 0, np := none }
def blkSaved : Block := { blk0 with status := .placed, image := some img0 }
def post0 : Posted := { mkPosted 64 blk0 0 0x100040 1 none false with line := 0x300040 / 64, cells := [(0x300041, 9)] }

/-- An image that fills shadow storage. -/
def imgFull : Image := { img0 with bytes := 192 * 2 ^ 20 }
/-- A resume whose one copy reads a page: its pages are there, none is, or one is serviceable. -/
def resuming (a : Nat) : Block := { blkSaved with image := some { img0 with copies := [{ cpy false 0 with srcAddr := a }] } }
def probeOf (a : Nat) : Checked :=
  let y := { cpy false 0 with srcAddr := a }
  checkWith ((machine sh0 (resuming a)).translate 0 0) y.fatal (y.dst == .g) y.slot 1 (y.remaining.map fun a => (0, a))

/-- The table as a capture holds it. -/
theorem witness_PreemptionSteps_table :
    (machine sh0 blkSuper).mem.readN part0.table 16384 = { cap0 with seq := 3, table := tables.readN 0x350000 16384 }.table := Eq.refl _

theorem witness_PreemptionSteps :
    (blk0.status = .resident ∧ blk0.supervisor = false ∧ blk0.fatal = none ∧ blk0.stopping = false) ∧
    (let s := withCore { Core.initial with copyQ := [cpy true 0] } (machine sh0 blkStop)
     s.blk? 1 = some blkStop ∧ blkStop.stopping = true ∧ s.stopped 1 blkStop = true ∧
       ({ s with posted := [post0] } : State).stopped 1 blkStop = false ∧ s.together (!blkStop.swap) 1 = [1] ∧
       s.seenDone { blkStop with quietAt := some 0 } = true ∧
       s.seenDone blkStop = false) ∧
    (let k : Block := { blk0 with onFault := some 0x13 }
     (machine sh0 k).blk? (blockOf 64) = some k ∧ k.onFault.isSome = true ∧ k.status = .resident ∧ k.stopping = false) ∧
    (let s := machine sh0 blkSaved
     s.blk? 1 = some blkSaved ∧ blkSaved.status = .placed ∧ blkSaved.image = some img0 ∧ s.groupOf blkSaved.quadKey 1 = none ∧
       s.canResume 1 = true ∧ s.unitOf .placed 1 = [1] ∧ s.entryPending blkSaved.coreKey = false ∧
       (((s.core blkSaved.coreKey).copyQ ++ img0.copies).map (·.id)).Nodup ∧ (s.sh? 64).map (·.wait) = some .none ∧
       ∀ y ∈ (s.core blkSaved.coreKey).copyQ ++ img0.copies, y.src = .g ∧ y.dst = .a) ∧
    ((match probeOf 0x106000 with | .go _ => true | _ => false) = true ∧ probeOf 0x140000 = .trap 0x047 1 0x140000 ∧
      probeOf 0x130000 = .wait [0x13] ∧ ((cpy false 0).seq = none ∧ (cpy false 0).h = 64)) ∧
    (let s : State := { machine sh0 blkStop with blocks := [(1, blkStop), (2, { blk0 with status := .saved, image := some imgFull })] }
     s.shadowUsed (hubOf blkStop.site) = 192 * 2 ^ 20 ∧ s.stopped 1 blkStop = true ∧ s.part? blkStop.part = some part0 ∧ s.mem.wf = true ∧
       ∀ o n, s.HubMay (part0.spill + o) n) ∧
    (let s : State := { machine sh0 blkSuper with parts := [(0, { part0 with halted := true })] }
     s.part? 0 = some { part0 with halted := true } ∧ s.captured 0 = true ∧ (machine sh0 blk0).captured 0 = false ∧
       s.net = [] ∧ { part0 with halted := true }.capture = none) ∧
    (let x : Capture := { cap0 with seq := 3, table := tables.readN 0x350000 16384 }
     let pt : Part := { part0 with halted := true, capture := some x }
     let s : State := { machine sh0 blkSuper with parts := [(0, pt)], launches := [(3, { launch0 with seq := 3 }), (7, launch0)] }
     s.part? 0 = some pt ∧ pt.halted = true ∧ pt.capture = some x ∧
       s.launch? 3 = some { launch0 with seq := 3 } ∧ 3 ≤ x.seq ∧ s.launch? 7 = some launch0 ∧ ¬7 ≤ x.seq) ∧
    ((machine sh0 blk0).occupied 0 = true ∧ (machine sh0 blk0).occupied 1 = false ∧ blk0.holds = true ∧ blk0.fatal = none) ∧
    (let s := machine sh0 blk0
     (∀ c ∈ quadCores 0 0, c ≠ 0 → (s.core c).fenced = false) ∧
       4 * (s.fencedOf ((range 0 (Config.cores 0)).map fun i => 128 * 0 + i) + 1) ≤ Config.cores 0 ∧ s.podRoutes = []) := by
  and_intros <;> first | decide +kernel | rfl | exact fun o n => hub_may _ _ n rfl rfl (by decide) (by show 0x354040 ≤ 0x380000 + o; omega)
/-! ## Witnesses: copies, the matrix unit, memory -/

/-- The machine with a core 0, a peer block at core 1 whose group entry says that it is lost. -/
def mCore (c : Core) : State := withCore c { machine sh0 blkBar with nextId := 9 }
def lostGroup : Quad := { Quad.initial with groups := [{ ctx := 0, tag := 1, members := [(0, memb 1), (1, { memb 2 with lost := true })] }] }
def cpyPeer : Copy := { cpy true 4 with dst := .peer 2 0 }
/-- A matrix operation on tile 3 of .s8 rows in the stores; one whose operand is the tensor of entry 1; an MGEMM. -/
def mat0 : MatOp := mkMat (machine sh0 blk0) (who sh0 blk0) 0x100000 3 .s8 ⟨0, 0, false⟩ ⟨0, 0, false⟩
def matDone : MatOp := { mat0 with fetched := 64, rows := List.replicate 64 [] }
def tensorOp : MatOperand := ⟨2 ^ 54, entry0, true⟩
def gemm0 : Gemm := { n := 2, abuf := 0, wbuf := 0, step := 0, issued := 0, half := false, pendingCopies := [], failed := [], dirty := false }
def packet0 (r : PeerReq) : PeerPacket := { core := 0, block := 1, tenancy := 0, h := 128, ipc := 0, copy := none, req := r }

theorem unit_one (s : State) (k : Copy) (h : k.len / 16 - k.done = 1) (hf : k.first 3 k.done = k.done) : s.unitFor k = k.done := by
  simp [State.unitFor, h, hf, Nat.mod_one]

theorem witness_CopyAndPeerSteps :
    (let c : Core := { Core.initial with copySlots := [cpy false 0], copyQ := List.replicate 15 (cpy true 0) }
     c.copySlots = cpy false 0 :: [] ∧ c.copyQ.length < 16 ∧ (cpy false 0).seq = none ∧
       ({ cpy false 0 with seq := some (7, 0) } : Copy).seq.isSome = true ∧ 16 ≤ (cpy true 0 :: c.copyQ).length) ∧
    (let c : Core := { Core.initial with copyQ := [cpy true 1, cpy true 1, cpy true 1, cpy false 0] }
     c.copyQ.findIdx? (fun k => !k.inFlight) = some 3 ∧ c.copyQ[3]? = some (cpy false 0) ∧ (c.copyQ.filter (·.inFlight)).length < 4 ∧
       (cpy false 0).acq = none ∧ ({ cpy false 0 with acq := some .pod } : Copy).acq = some .pod ∧
       (mCore c).posted = [] ∧ (mCore c).peers = []) ∧
    (let s := mCore { Core.initial with copyQ := [cpy true 4] }
     s.copyAt 0 0 = some (cpy true 4, blkBar) ∧ (cpy true 4).inFlight = true ∧ s.lastWritten (cpy true 4) = true ∧ s.copyLost blkBar (cpy true 4) = false ∧
       (cpy true 4).follow = none ∧ (cpy true 4).seq = none ∧ (cpy true 4).bar = some 3 ∧ (cpy true 4).dst = .a ∧
       ({ cpy true 4 with bar := none } : Copy).bar = none ∧ ({ cpy true 4 with follow := some mat0 } : Copy).follow = some mat0 ∧
       (s.core 0).matQ.length < 8) ∧
    (let s := { mCore { Core.initial with copyQ := [cpyPeer] } with quads := [(0, lostGroup)] }
     s.copyAt 0 0 = some (cpyPeer, blkBar) ∧ s.peerGone blkBar cpyPeer.dst = true) ∧
    (let s := { mCore { Core.initial with copyQ := [cpy true 0] } with poison := [0x306000 / 64] }
     16 * (cpy true 0).done < (cpy true 0).len ∧ s.copyRead blkBar (cpy true 0) 0 (16 * (cpy true 0).burst 0) = .fault 0x077 0x106000) ∧
    (let k : Copy := { cpy true 0 with srcAddr := 0x150000, len := 16 }
     let s := mCore { Core.initial with copyQ := [k] }
     s.unitFor k = 0 ∧ (match s.nextUnits blkBar k 0 with | .fault c a => c == 0x047 && a == 0x150000 | _ => false) = true ∧ k.src = .g ∧ k.seq = none) ∧
    (let k : Copy := { cpy true 0 with src := .peer 2 5, len := 16 }
     let s := { mCore { Core.initial with copyQ := [k] } with
       blocks := [(1, blkBar), (2, peerBlk)], quads := [(0, { Quad.initial with groups := [⟨0, 1, [(0, memb 1), (1, memb 2)]⟩] })] }
     s.blk? 2 = some peerBlk ∧ s.peerAnswers k 2 5 = false ∧ s.unitFor k = 0 ∧ (s.copyDest blkBar k (16 * 0) (16 * k.burst 0) matches .row []) = true) ∧
    (let p : Posted := { post0 with engine := some 2 }
     let s := { mCore { Core.initial with copyQ := [cpy true 4] } with posted := [p], poison := [p.line] }
     (cpy true 4).id = 2 ∧ s.posted.findIdx? (fun p => p.engine == some 2 && !p.full && (s.poison.contains p.line || s.bad.contains p.line)) =
       some 0 ∧ s.posted[0]? = some p ∧ s.blockedWrite 0 = false ∧ p.frame = false) ∧
    (let s : State := { machine sh0 blkBar with peers := [packet0 (.write [(65504, List.replicate 16 7), (65520, List.replicate 16 8)] true)] }
     s.blk? 1 = some blkBar ∧ s.tenant 1 0 = true ∧ s.tenant 1 1 = false ∧ s.peers.take 0 = [] ∧
       3 < blkBar.nbars ∧ (blkBar.bar 3).init = true ∧ (blkBar.bar 3).tenancy = 0 ∧ (blkBar.bar 0).init = false ∧ blkBar.nbars ≤ 4) := by
  and_intros <;> first | decide +kernel | rfl | exact unit_one _ _ rfl rfl

theorem witness_MatrixSteps :
    (let c : Core := { Core.initial with matSlots := [mat0], matQ := List.replicate 7 mat0 }
     c.matSlots = mat0 :: [] ∧ (mCore c).followsDue 0 = 0 ∧ c.matQ.length + (mCore c).followsDue 0 < 8) ∧
    (let k : Copy := { cpy true 4 with follow := some mat0 }
     let s := mCore { Core.initial with copyQ := [k], matQ := [{ matDone with computed := true }] }
     (s.core 0).copyQ = [k] ∧ k.inFlight = true ∧ s.lastWritten k = true ∧ ([] : List MatOp).length < 8 ∧ s.followsDue 0 = 1) ∧
    (let s := mCore { Core.initial with matQ := [matDone, mat0] }
     s.fetching 0 = some (1, mat0, blkBar) ∧ (match s.matRow blkBar mat0 0 with | .row bs => bs.length == 384 | _ => false) = true ∧
       mat0.pages = [] ∧ ({ mat0 with pages := [3] } : MatOp).pages ≠ []) ∧
    (let o : MatOp := { mat0 with a := tensorOp }
     let s := { mCore { Core.initial with matQ := [o] } with poison := [0x306000 / 64] }
     s.fetching 0 = some (0, o, blkBar) ∧ (match s.matRow blkBar o 0 with | .fault .. => true | _ => false) = true) ∧
    (let o : MatOp := { mat0 with a := { tensorOp with entry := entry0 + 0x30000 - 0x6000 } }
     let s := mCore { Core.initial with matQ := [o] }
     s.fetching 0 = some (0, o, blkBar) ∧ (match s.matRow blkBar o 0 with | .wait ps => ps.all (· == 0x13) | _ => false) = true) ∧
    (let s := mCore { Core.initial with matQ := [matDone] }
     (s.core 0).matQ = matDone :: [] ∧ s.blk? matDone.block = some blkBar ∧ matDone.gemm = none ∧ matDone.computed = false ∧
       64 ≤ matDone.fetched ∧ s.followsDue 0 = 0) ∧
    (gemm0.dirty = false ∧ gemm0.n ≤ 1 + 1 ∧ ¬gemm0.n ≤ 0 + 1) ∧
    (let o : MatOp := { mat0 with a := tensorOp, gemm := some gemm0 }
     let s := mCore { Core.initial with matQ := [o] }
     let k := seqCopy o gemm0 false s.nextId gemm0.issued
     gemm0.issued < gemm0.n ∧ gemm0.issued ≤ gemm0.step + 1 ∧ blkBar.stopping = false ∧ gemm0.failed = [] ∧ o.a.tensor = true ∧
       gemm0.half = false ∧ (match s.probeSeq blkBar o k with | .ok ps => ps.length == 1 | _ => false) = true ∧
       (s.core 0).copyQ.length < 16 ∧ (s.core 0).copySlots = [] ∧
       (let b : MatOp := { mat0 with b := { tensorOp with entry := entry0 + 0x40000 }, gemm := some gemm0 }
        b.a.tensor = false ∧ b.b.tensor = true ∧ s.seqWaits 0 b.id = false ∧
         (match s.probeSeq blkBar b (seqCopy b gemm0 true s.nextId 0) with | .fault .. => true | _ => false) = true)) ∧
    (let r : TrapRec := { cause := 0x05E, tid := some (1, 0) }
     let o : MatOp := { mat0 with a := tensorOp, gemm := some { gemm0 with failed := [(1, r), (0, r)] } }
     o.fetched = 0 ∧ [(1, r), (0, r)].find? (fun e => e.1 == gemm0.step) = some (0, r) ∧ gemm0.dirty = false) := by
  and_intros <;> first | decide +kernel | rfl

theorem witness_MemorySteps :
    (let s : State := { machine sh0 blk0 with posted := [post0, post0, { post0 with full := true, line := 7, cells := [(450, 1)] }], poison := [7] }
     s.posted[0]? = some post0 ∧ s.blockedWrite 0 = false ∧ s.blockedWrite 1 = true ∧ s.blockedWrite 2 = false ∧ s.mem.wf = true ∧
       post0.comp = false ∧ s.eventObjects = [] ∧ post0.line ∉ s.poison ∧ post0.line ∉ s.bad ∧ post0.full = false ∧ post0.engine = none ∧
       ({ s with bad := [post0.line] } : State).bad = [post0.line] ∧ s.posted[1]? = some post0 ∧
       ({ post0 with die := true } : Posted).die = true ∧ post0.die = false ∧ post0.frame = false ∧ s.OffTables (64 * post0.line) ∧
       (∃ c ∈ post0.cells, post0.writes c.1 = true)) ∧
    (let p : Posted := { post0 with frame := true }
     let s : State := { machine (shHandler rec0 []) blk0 with posted := [p], poison := [p.line] }
     p.line ∈ s.poison ∧ (s.sh? p.h).bind (·.trap) = some rec0 ∧ s.blk? (blockOf p.h) = some blk0 ∧ blk0.fatal = none ∧
       s.blockedWrite 0 = false) ∧
    (farTier (5 / 1024 * 65536) = false ∧ (5 : Nat) ∈ ({ machine sh0 blk0 with bad := [5] } : State).bad ∧ (machine sh0 blk0).retired = []) ∧
    (let f : FaultReq := ⟨0, 0, 0x13⟩
     let s : State := { machine sh0 blk0 with faults := [f] }
     s.faults.find? s.servable = some f ∧ s.walkPage 0 0x13 = .serv 0x404098 0 0 false ∧ s.walkPage 0 0x14 = .none ∧
       s.part? (0 / 256) = some part0 ∧ frameFor false part0.frames = some 0x340000 ∧ s.mem.wf = true ∧ 0x340000 < 2 ^ 48 ∧
       0x340000 + 65536 ≤ 0x404098 ∧ s.faults[0]? = some f ∧
       s.lineBad (0x404098 / 64) = false ∧ s.OffTables 0x404098 ∧ ({ s with poison := [7] } : State).lineBad (448 / 64) = true ∧
       (∀ i, s.lineBad (0 / 64 + i) = false)) := by
  and_intros <;> first | decide +kernel | rfl | (unfold State.OffTables; decide +kernel) | exact fun _ => rfl

/-- A region of control code and a run to translate, translations, an entry that becomes valid and one that ends. -/
theorem witness_MemorySteps_tables :
    (let s : State := { machine sh0 blk0 with mem := memEvents }
     (∃ o ∈ s.objs, o.ctx = 0 ∧ o.ctlLo ≤ 0x100FFC ∧ 0x100FFC + 4 * 1 ≤ o.ctlLo + o.ctlLen) ∧
       (∀ o ∈ s.objs, o.ctx = 0 → 0x100FFC < o.laneLo ∨ o.laneLo + o.laneLen ≤ 0x100FFC) ∧
       (∃ o ∈ s.objs, o.ctx = 0 ∧ o.laneLo ≤ 0x108000 ∧ 0x108000 + 12 * 1 ≤ o.laneLo + o.laneLen) ∧ (∀ t ∈ s.trans, False) ∧
       s.homeWords 0 4 0x100FFC 1 = some [0] ∧ (0x108000 - obj0.laneLo) % 12 = 0 ∧ s.homeWords 0 12 0x108000 1 = some [0] ∧ runShaped [0] = false ∧
       runShaped [2 ^ 87] = true) ∧
    (let t : Translation := { reed := true, run := false, ctx := 0, lo := 0x100000, words := [0], current := true, inside := [] }
     t.inside = [] ∧ t.current = true ∧ ({ t with inside := [64] } : Translation).inside ≠ []) ∧
    (let s : State := { machine sh0 blk0 with parts := [(0, { part0 with live := [(1, 9)] })] }
     s.part? 0 = some { part0 with live := [(1, 9)] } ∧ s.ctx? (256 * 0 + 0) = some ctx0 ∧ Tab.get? [(1, 9)] 0 = none ∧
       s.ctx? (256 * 0 + 1) = none ∧ ({ ctx0 with valid := false } : CtxEntry).valid = false ∧ (Tab.get? [(1, 9)] 1).isSome = true ∧
       s.mem.wf = true) := by
  refine ⟨⟨⟨obj0, ?_⟩, ?_, ⟨obj0, ?_⟩, ?_⟩, ?_⟩ <;> and_intros <;> first | decide +kernel | rfl | (intro x h; cases h)
/-! ## Witnesses: neighbour-paced mode, the network, ranges -/

/-- Core 0 in the mode at step 5, waiting on core 1, which has announced; its block's shuttle stands in STEPDONE or NPEXIT. -/
def shPaced : Shuttle := { sh0 with wait := .paced }
def np5 : Paced := { npOn with waiton := [1], heldby := [1], done := 5 }
def far5 : Core := { Core.initial with np := { npOn with step := 6, done := 5, published := 5, owner := none } }
def mPaced (sh : Shuttle) (np : Paced) (far : Core) : State :=
  { machine sh blk0 with cores := [(0, { Core.initial with np := np }), (1, far)] }
def recordNp : List W64 := npRegs.take 4 |>.map fun e => BitVec.ofNat 64 e.2
/-- An RLD of v36 at the step of v26 from the core of v25. -/
def instrRld (d : LDst) : Instr := .lRld hd .b32 d (.main 25 false) (.main 25 false) (.main 26 false) 0
def shRld (gone : List Nat) (step : W32) : Shuttle := { shLane with
  v := (shLane.v.set 25 (some (Vector.replicate 8 0))).set 26 (some (Vector.replicate 8 step))
  queue := [{ runLane with words := [(encodeLane (instrRld (.main 36))).getD 0], since := some 0, gone := gone }] }
/-- A message of 16 bytes from core 0 to core 9, at its origin, at its destination's quad, at its endpoint; its answer. -/
def msg0 : Message := { h := 64, ipc := 0, ctx := 0, src := 0, dst := 9, tag := 7, xdir := 0, payload := List.replicate 16 5, sent := true, refused := false, head := none }
def pkt0 : NetPacket := mkPacket 0 0 0 msg0 false false
def seat0 (p : NetPacket) : Seat := p.seats.headD { quad := 9, port := 9, buf := .shared, here := 0, due := 0, ready := 0, out := none }
def netDie (s : State) : State := { s with dies := [(0, { die0 with routes := some (fullRoutes 0) })] }
def recv0 : Recv := { h := 64, ipc := 0, ctx := 0, block := 1, anyTag := true, anySrc := true, tag := 0, src := 0, cap := 1, bar := 3, offset := 65504 }
def mNet (ps : List NetPacket) (c9 : Core) : State := netDie { machine sh0 blkBar with net := ps, cores := [(9, c9)], now := 8 }

theorem witness_PacedAndNetworkSteps :
    (let s := mPaced shPaced { Paced.off with entering := [64], record := recordNp } Core.initial
     (s.core 0).np.entering = 64 :: [] ∧ (s.core 0).np.on = false ∧ s.blk? (blockOf 64) = some blk0 ∧ s.entryPending 0 = true ∧
       (∀ b ∈ s.blocksOn 0, b = blockOf 64) ∧ (entryWith (fun _ => true) blk0 recordNp).isSome = true) ∧
    (let np := { np5 with announced := true, arrived := [64] }
     (mPaced shPaced np far5).mayAdvance 0 np = true ∧ shPaced.wait = .paced ∧ shPaced.handler = false ∧ np5.announced = false ∧
       ¬(mPaced shPaced np far5).hasDone 0 6 1 = true ∧ (mPaced shPaced np far5).hasDone 0 ((np.step + 1 + 2 ^ 32 - np.skew) % 2 ^ 32) 1 = true) ∧
    (let np := { np5 with leaving := [64] }
     let s := mPaced shPaced np far5
     np.on = true ∧ np.owner = some 1 ∧ s.allLeave 1 np = true ∧ (∀ x ∈ np.heldby, s.hasDone 0 np.done x = true) ∧ 64 ∈ np.leaving) ∧
    (let s := mPaced (shRld [] 4) npOn far5
     (match s.laneWord 64 with | some (_, r, i) => i == instrRld (.main 36) && r.since == some 0 | none => false) = true ∧
       npOn.on = true ∧ (∀ th ∈ selected (who (shRld [] 4) blk0) hd, readSrc s (shRld [] 4) runLane (.main 25 false) 1 th = blk0.core ∧
         stepGe npOn.done (readSrc s (shRld [] 4) runLane (.main 26 false) 2 th) = true ∧
         stepGe ((npOn.step + 2 ^ 32 - readSrc s (shRld [] 4) runLane (.main 26 false) 2 th % 2 ^ 32) % 2 ^ 32) npOn.depth = false)) ∧
    (let s : State := { mPaced (shRld [] 5) npOn far5 with now := 2 ^ 20 }
     (match s.laneWord 64 with
       | some (w, r, .lRld hd _ _ a b c off) => r.since == some 0 && !(s.unmet w.blk (stepReads s w r hd a b c off)).isEmpty | _ => false) = true) ∧
    ((selected (who (shRld [0] 4) blk0) hd).filter (fun _ => [0].contains 0) = 0 :: [1, 2, 3, 4, 5, 6, 7]) ∧
    (let s := mNet [pkt0] Core.initial
     let p := { pkt0 with dstQuad := 0 }
     s.net[0]? = some pkt0 ∧ pkt0.waits s.now = some (seat0 pkt0) ∧ (seat0 pkt0).quad ≠ pkt0.dstQuad ∧
       (match s.routeOf pkt0 (seat0 pkt0) with | some (o, some (h, b)) => o == 0 && h.quad == 1 && b == .shared | _ => false) = true ∧
       s.outBusy 0 0 0 = false ∧ (match s.granted 0 0 0 with | some (some i, p, a, some _) => i == 0 && p == pkt0 && a == seat0 pkt0 | _ => false) = true ∧
       (match s.granted 0 0 1 with | some _ => false | none => true) = true ∧ pkt0.ejected < pkt0.flits ∧
       ((mNet [p] Core.initial).granted 0 0 5).isSome = true ∧
       (let head := { s with net := [], cores := [(0, { Core.initial with sendQ := [{ msg0 with sent := false, head := some 2 }] })] }
        (match head.granted 0 0 0 with | some (none, p, _, some _) => p.msg.src == 0 | _ => false) = true ∧ head.outBusy 0 0 0 = false ∧
          head.now / 1024 ≤ (head.quad 0).windows ∧ (head.quad 0).windows < { head with now := 1024 }.now / 1024)) ∧
    (let p := { pkt0 with ejected := 2 }
     let full : Core := { Core.initial with overflow := List.replicate 48 msg0 }
     p.flits ≤ p.ejected ∧ p.reply = false ∧ Core.initial.recvs.findIdx? (·.accepts msg0) = none ∧ Core.initial.queues msg0 = true ∧
       full.recvs.findIdx? (·.accepts msg0) = none ∧ full.queues msg0 = false ∧
       [recv0].findIdx? (·.accepts msg0) = some 0 ∧ [recv0][0]? = some recv0 ∧ (mNet [p] Core.initial).blk? recv0.block = some blkBar ∧
       (let a := { mkPacket 0 9 0 msg0 true false with ejected := 1 }
        a.reply = true ∧ a.refusal = false ∧ a.flits ≤ a.ejected ∧ [msg0].findIdx? (fun x => x.sent && x.dst == msg0.dst) = some 0)) ∧
    (let s := { machine sh0 blk0 with cores := [(9, { Core.initial with claims := [0] }), (0, { Core.initial with sendQ := [{ msg0 with refused := true }] })] }
     (s.core 9).claims = 0 :: [] ∧ s.refusedOf 9 0 = some { msg0 with refused := true } ∧ (s.core 9).overflow.length + s.offered 9 none < 64 ∧
       (s.core 9).overflowOf 0 + s.offered 9 (some 0) < 48) ∧
    (let c : Core := { Core.initial with sendSlots := [msg0], sendQ := List.replicate 7 msg0 }
     c.sendSlots = msg0 :: [] ∧ c.sendQ.length < 8) ∧
    (let d : Die := { die0 with ranges := [(63, range0)], rangeQ := List.replicate 15 64, rangeSlots := [(64, .grab 63 5)] }
     Tab.get? d.ranges 63 = some range0 ∧ d.rangeQ.length < 16 ∧ d.rangeSlots = (64, .grab 63 5) :: [] ∧ part0.onDie 0 = true ∧
       Tab.get? d.ranges 62 = none) := by
  and_intros <;> first | decide +kernel | rfl

/-! ## Witnesses: collectives, ports, the host and the management plane -/

/-- A gather of group 1 at hub 0, rank 0 of one, from the activation store to it at 64, of one unit. -/
def coll0 : Coll := { id := 5, h := 64, ipc := 0, block := 1, hub := 0, gid := 1, use := 15, rank := 0, n := 1, root := 0, count := 1, kind := .gather, all := true, src := some (.a, 0), dst := some (.a, 64), bar := some 3, pins := [], read := false, toward := none, flying := false }
def contrib0 : Contribution := { kind := .gather, count := 1, data := List.replicate 16 7 }
def mHub (u : Hub) : State := { machine sh0 blkBar with hubs := [(0, u)], parts := [(0, { part0 with groups := [(1, 1 + 2 ^ 64 * 0x100000)] })] }

theorem witness_FabricSteps :
    (let sh : Shuttle := { sh0 with wait := .newUse 1 }
     let s : State := { machine sh blk0 with hubs := [(0, { Hub.initial with uses := [(1, { GidUse.initial with held := [(3, contrib0)] })] })] }
     (64, sh) ∈ s.shuttles ∧ sh.wait = .newUse 1 ∧ s.blk? (blockOf 64) = some blk0 ∧ hubOf blk0.site = 0 ∧ (s.hub 0).drain 1 = 0) ∧
    (let u : Hub := { Hub.initial with collSlots := [coll0] }
     u.collSlots = coll0 :: [] ∧ u.collQ.length < 64 ∧ coll0.hub = 0) ∧
    (GidUse.initial.cur = 15 ∧ 0 ≠ GidUse.initial.cur ∧ 0 = (GidUse.initial.cur + 1) % 16 ∧ 1 ≠ (GidUse.initial.cur + 1) % 16) ∧
    (let s := mHub { Hub.initial with collQ := [coll0] }
     (s.coll? 5) = some (coll0, blkBar) ∧ blkBar.status = .resident ∧ blkBar.fatal = none ∧ s.lostFor coll0 blkBar = none ∧
       coll0.src = some (.a, 0) ∧ coll0.read = false ∧ s.sourceReady coll0 blkBar = true ∧
       (match s.sourceOf coll0 blkBar .a 0 with | .row bs => bs.length == 16 | _ => false) = true ∧
       coll0.use = ((s.hub 0).use 1).cur ∧ collResult coll0 ((s.hub 0).use 1) = none ∧ coll0.h / 64 = coll0.block) ∧
    (let s := { mHub { Hub.initial with collQ := [coll0] } with poison := [0x300000 / 64] }
     (match s.sourceOf coll0 blkBar .g 0x100000 with | .fault c a => c == 0x077 && a == 0x100000 | _ => false) = true) ∧
    (let k := { coll0 with read := true, flying := true, toward := some (blkBar.coreKey, blkBar.tenancy) }
     k.toward = some (blkBar.coreKey, blkBar.tenancy) ∧ (5, 0) ≠ (blkBar.coreKey, blkBar.tenancy) ∧ k.dst = some (.a, 64) ∧
       collResult k { GidUse.initial with contrib := [(0, contrib0)] } = some (List.replicate 16 7)) ∧
    (let k := { coll0 with read := true, flying := true, toward := some (0, 0) }
     let s := { mHub { Hub.initial with collQ := [k] } with blocks := [(1, { blkBar with status := .ended })] }
     (s.coll? 5) = some (k, { blkBar with status := .ended }) ∧ k.flying = true ∧ k.toward = some (0, 0)) ∧
    (let s := mHub { Hub.initial with collQ := [coll0] }
     s.collPackages coll0 blkBar = [0] ∧ (∃ e ∈ s.hubs, coll0 ∈ e.2.collQ) ∧ s.blk? coll0.block = some blkBar ∧
       s.mgmt.log.length + (s.hubs.flatMap fun e => e.2.collQ).length ≤ 4096) ∧
    (0 = (Port.initial.got + 1) % 4096 ∧ 1 ≠ (Port.initial.got + 1) % 4096 ∧ Port.initial.up = false ∧ Port.initial.repair = none ∧
      ({ Port.initial with up := true, repair := some 3 } : Port).replay = []) ∧
    (let p : Port := { Port.initial with up := true }
     let q : Port := { p with errors := List.replicate 32 (3, 5) }
     let m : State := { machine sh0 blkBar with now := 6, podRoutes := [(0, [0, 1])], ports := [(0, { q with spare := some 2 }), (1, p)] }
     p.recent 3 6 (m.micros 4908535) < 32 ∧ 32 ≤ q.recent 3 6 (m.micros 4908535) ∧ q.repair = none ∧ q.spare = none ∧
       ∀ e ∈ m.podRoutes, 0 ∈ e.2 → 1 ∈ e.2 ∧ 1 ≠ 0 ∧ (m.port 1).up = true) := by
  and_intros <;> first | decide +kernel | rfl

/-- A management plane whose mailbox has arguments. -/
def mbox (l : List (Fin 29 × Nat)) (busy : Bool) (op result : Nat) : State :=
  let m := { State.reset.mgmt.mailbox with busy := busy, op := op, result := result }
  let s := { machine sh0 blkSuper with mem := memEvents }
  { s with mgmt := { s.mgmt with mailbox := { m with args := l.foldl (fun v e => v.set e.1 (BitVec.ofNat 64 e.2)) m.args } } }

theorem witness_ManagementSteps :
    (let s := machine sh0 blkSuper
     let p : Part := { part0 with filled := [(256, range 0 256)] }
     s.part? 0 = some part0 ∧ part0.super = some 1 ∧ s.blk? 1 = some blkSuper ∧ s.mem.wf = true ∧ 16 + [7].length ≤ 256 ∧
       [0, 1, 0, 0].length = 4 ∧ passed (leNat [0, 1, 0, 0]) 256 255 = [] ∧
       passed (leNat [0, 2, 0, 0]) 256 255 = [256] ∧ 256 ≤ (Tab.getD p.filled 256 []).length ∧
       s.recovery = false ∧ (∀ off n, s.HubMay (part0.window + off) n) ∧
       nextCommand (s.word32 part0.window) ≠ s.word32 (part0.window + 4) ∧ (blkSuper.bar 0).landed + 8 ≤ 0xFFFFFF) ∧
    (let s := mbox [] false 0 0
     s.recovery = false ∧ ({ s with recovery := true } : State).recovery = true ∧ (∀ a ∈ [0x300000, 0x300001], s.OffTables a) ∧
       s.bar2Pas true 0x100000 2 = some [0x300000, 0x300001] ∧ s.bar2Pas false 0x200000 1 = none ∧ [0x300000, 0x300001].Nodup ∧ s.launches = [] ∧
       0x300000 / 64 = 0x300001 / 64 ∧
       (∀ a ∈ [0x300000, 0x300001], a / 64 ∉ s.poison ∧ a / 64 ∉ s.bad) ∧ s.mem.wf = true) ∧
    ((mbox [] true 1 0).mgmt.mailbox.busy = true ∧ (mbox [] true 1 0).mgmt.mailbox.started = false ∧
      (mbox [] false 1 0).mgmt.mayGo 1 ∧ (mbox [] false 1 0).mgmt.mailbox.result < 65536 ∧
      Mgmt.mayGo { State.reset.mgmt with mailbox := { State.reset.mgmt.mailbox with busy := true, started := true, op := 7 } } 7) ∧
    (let s := mbox [(0, 2), (1, 2 ^ 24 - 1), (2, 31)] false 0 0
     let arg (n : Nat) : Nat := (s.mgmt.mailbox.args.get (Fin.ofNat 29 n)).toNat
     let gs := (range 0 88).filter fun g => if g < 64 then (arg 0).testBit g else (arg 1).testBit (g - 64)
     s.recovery = false ∧ ([] : List Byte).length = arg 4 ∧ [0#8].length ≠ arg 4 ∧ arg 1 < 2 ^ 24 ∧ gs ≠ [] ∧ arg 2 < 32 ∧ ctx0.valid = true ∧ (∀ g ∈ gs, (s.die (granuleSite g).1).fenced = false) ∧
       s.part? (arg 2) = none ∧ (∀ g ∈ gs, ∀ q ∈ s.parts, g ∉ q.2.granules)) ∧
    (let x : SuperPlan := { entry := ctx0, table := 0x350000, page := 0x354000, window := 0x360000, log := 0x370000, spill := 0x380000 }
     (mbox [] false 0 0).planApart { x with table := 0x410000 } ∧ ctxEntryOf (ctxImage x.entry) = x.entry) ∧
    ((12 : Nat) ≤ 12 ∧ 11 < 12 ∧ (mbox [] false 0 0).mgmt.mailbox.data.wf = true ∧ (1200 ≤ 1200 ∧ 3600 ≤ 3600 ∧ 1199 < 1200 ∧ 3600 < 3601)) ∧
    ((mbox [(0, 0), (1, 3840)] false 0 0).mgmt.staged.length = 0 ∧ 0 < 3840 ∧ 3840 < 3841 ∧ 0 % 2 = 0 ∧ 1 % 2 = 1) ∧
    (40960 ≤ 40960 ∧ 40959 < 40960 ∧ ((mbox [] false 0 0).die 0).joined = true ∧ ((mbox [] false 0 0).die 11).joined = false) ∧
    (let s := mbox [] true 3 0
     s.mgmt.mailbox.op = 3 ∧ s.captured 0 = true ∧ (machine sh0 blk0).captured 0 = false) ∧
    (0 % 8 = 0 ∧ 0x18 + 8 * 28 < 0x100 ∧ 0x100 + 8 * 479 < 0x1000 ∧ 4 % 8 ≠ 0) ∧
    (let m := State.reset.mgmt
     1000 * m.cap < 1000 * m.cap + 1 ∧ 950 * m.cap ≤ 950 * m.cap ∧ 950 * m.cap - 1 < 950 * m.cap ∧ 1100 * m.cap < 1100 * m.cap + 1 ∧
       105000 < 105001 ∧ 1 + 10 ≤ 10 + 1) ∧
    ((machine sh0 blk0).started = true ∧ State.reset.started = false) ∧
    (let s : State := { State.reset with dies := [(11, { Die.initial 11 with negotiating := true })] }
     11 < 12 ∧ (s.die 11).negotiating = true ∧ 4 * [3].length ≤ Config.cores 11 ∧ Config.cores 11 < 4 * (Config.cores 11 / 4 + 1)) := by
  and_intros <;> first | decide +kernel | rfl | exact hub_may _ _ _ rfl rfl (by decide) (by omega) |
    (unfold State.planApart; decide +kernel) | (unfold State.OffTables; decide +kernel) | exact .inl rfl | exact .inr ⟨rfl, rfl⟩ |
    exact fun off n => hub_may _ _ n rfl rfl (by decide) (by show 0x354040 ≤ 0x360000 + off; omega) | exact ⟨_, by decide +kernel, by decide +kernel⟩
/-! ## One step: values by hand from the rules cited -/

/-- s9, the pc, and predicate 1 after a control instruction with registers set. -/
def s9 (i : Instr) (l : List (SReg × Nat)) : Option Nat := shAfter i (machine (regs l sh0) blk0) fun x => (x.readS 9).toNat
def pcOf (i : Instr) (l : List (SReg × Nat)) : Option Nat := shAfter i (machine (regs l sh0) blk0) fun x => x.pc.toNat
def k1Of (i : Instr) (l : List (SReg × Nat)) : Option Bool := shAfter i (machine (regs l sh0) blk0) fun x => x.readK 1
/-- v30 of every thread after a lane instruction on `mLane`, where v24 holds 0, 1, 2, 3, 0, 1, 2, 3; mask 1; the latch of thread 0. -/
def v30 (i : Instr) : Option (List Nat) := shAfter i mLane fun x => ((x.v.get 30).map fun l => l.toList.map BitVec.toNat).getD []
def m1Of (i : Instr) : Option Nat := shAfter i mLane fun x => (x.readM 1).toNat
def pendOf (i : Instr) : Option (List (Nat × Nat)) := shAfter i mLane fun x => x.pend.map fun e => (e.1.val, e.2.toNat)
def d30 : LDst := .main 30
def th : LSrc := .main 24 false

/-- R113, R33: 32-bit arithmetic wraps and is extended by its type. -/
theorem test_add_wraps : s9 (.addReg 9 5 6 .s32) [(5, 0x7FFFFFFF), (6, 1)] = some 0xFFFFFFFF80000000 ∧
    s9 (.addReg 9 5 6 .n32) [(5, 0xFFFFFFFF), (6, 1)] = some 0 := by decide +kernel
theorem test_sub_borrows : s9 (.subReg 9 5 6 .s64) [(5, 0), (6, 1)] = some (2 ^ 64 - 1) := by decide +kernel
theorem test_mulh_signs : s9 (.mulh 9 5 6 .s64) [(5, 2 ^ 64 - 1), (6, 2)] = some (2 ^ 64 - 1) ∧
    s9 (.mulh 9 5 6 .n64) [(5, 2 ^ 64 - 1), (6, 2)] = some 1 := by decide +kernel
theorem test_div_truncates : s9 (.div 9 5 6 .s64) [(5, 2 ^ 64 - 7), (6, 2)] = some (2 ^ 64 - 3) ∧
    s9 (.rem 9 5 6 .s64) [(5, 2 ^ 64 - 7), (6, 2)] = some (2 ^ 64 - 1) := by decide +kernel
theorem test_div_corners : s9 (.div 9 5 6 .n32) [(5, 7)] = some 0xFFFFFFFF ∧ s9 (.rem 9 5 6 .s64) [(5, 7)] = some 7 ∧
    s9 (.div 9 5 6 .s32) [(5, 2 ^ 31), (6, 2 ^ 32 - 1)] = some 0xFFFFFFFF80000000 := by decide +kernel
theorem test_shift_past_width : s9 (.shlReg 9 5 6 .n32) [(5, 1), (6, 32)] = some 0 ∧
    s9 (.sraReg 9 5 6 .s64) [(5, 2 ^ 63), (6, 64)] = some (2 ^ 64 - 1) := by decide +kernel
theorem test_rot : s9 (.rotReg 9 5 6 .n32) [(5, 0x80000001), (6, 33)] = some 3 := by decide +kernel
theorem test_counts : s9 (.clzReg 9 5 .n32) [] = some 32 ∧ s9 (.ctz 9 5 .s64) [(5, 8)] = some 3 ∧
    s9 (.popcReg 9 5 .n32) [(5, 0xF0000000F)] = some 4 := by decide +kernel
/-- R114, R115: immediates are sign-extended; LUI extends bit 31; APC adds the word's own address. -/
theorem test_immediates : s9 (.addImm 9 5 0xFFF) [(5, 1)] = some 0 ∧ s9 (.lui 9 0x80000) [] = some 0xFFFFFFFF80000000 ∧
    s9 (.apc 9 1) [] = some 0x101000 := by decide +kernel
/-- R116: with .lt.n64 the literal −1 is 2^64 − 1. -/
theorem test_cmp_natural : k1Of (.cmpImm 1 5 .ltN 0xFFF) [(5, 7)] = some true ∧ k1Of (.cmpImm 1 5 .ltS 0xFFF) [(5, 7)] = some false := by
  decide +kernel
/-- R111: writes to s0 and k0 are discarded. -/
theorem test_discarded : shAfter (.addImm 0 0 5) (machine sh0 blk0) (fun x => (x.readS 0, x.pc)) = some (0, 0x100004) := by decide +kernel
theorem test_csel : s9 (.csel 9 5 6 0 true) [(5, 1), (6, 2)] = some 2 ∧ s9 (.csel 9 5 6 0 false) [(5, 1), (6, 2)] = some 1 := by
  decide +kernel
theorem test_predicates : s9 (.movsk 9) [] = some 1 ∧ k1Of (.movks 5) [(5, 0xFE)] = some true ∧ k1Of (.knot 1 0) [] = some false := by
  decide +kernel
/-- R120, R121, R122. -/
theorem test_branch : pcOf (.br 0 false (BitVec.ofInt 22 3)) [] = some 0x10000C ∧ pcOf (.br 0 true 3) [] = some 0x100004 ∧
    pcOf (.jr 5) [(5, 0x100FFC)] = some 0x100FFC := by decide +kernel
theorem test_call_links : shAfter (.callr 63) (machine (regs [(63, 0x100200)] sh0) blk0) (fun x => (x.pc, x.readS 63)) =
    some (0x100200, 0x100004) := by decide +kernel
theorem test_loop : pcOf (.loop 9 false 4) [] = some 0x100010 ∧ s9 (.loop 9 false 4) [] = some (2 ^ 64 - 1) ∧
    pcOf (.loop 9 true 4) [] = some 0x100004 := by decide +kernel
/-- R130, R340: TRAP enters the handler with its cause in s61. -/
theorem test_trap_enters : shAfter (.trap 5) (machine (regs [(5, 99)] sh0) blk0) (fun x => (x.pc, x.readS 61, x.handler)) =
    some (0x100040, 0x190, true) := by decide +kernel
/-- R127: sizes and extension of the scalar loads and stores of space A. -/
theorem test_local_scalar : (after (.stsA 5 6 true 0) (machine (regs [(5, 0x1122334455667788), (6, 8)] sh0) blk0) fun t =>
    (t.blk? 1).map fun k => leNat (k.a.readN 12 4)).join = some 0x11223344 ∧
    s9 (.ldsA 9 6 false 0) [(6, 8)] = some 0 := by decide +kernel
theorem test_misaligned : shAfter (.ldsA 9 5 false 2) (machine sh0 blk0) (fun x => (x.readS 61).toNat) = some 0x08D ∧
    shAfter (.ldsG 9 5 .n16 1) (machine (regs [(5, 0x100000)] sh0) blk0) (fun x => (x.readS 61).toNat) = some 0x04D := by decide +kernel
/-- R292: a store-conditional without a reservation fails with 1. -/
theorem test_sc_fails : s9 (.sc 9 5 6 .s64) [(5, 0x100000), (6, 7)] = some 1 := by decide +kernel
/-- R292, Table 5: the edges of incw and addb. -/
theorem test_atomic_edges : amoNew .incw false 32 5 0 = 0 ∧ amoNew .incw false 32 0xFFFFFFFF 0xFFFFFFFF = 0 ∧
    amoNew .incw false 32 7 0xFFFFFFFF = 8 ∧ amoNew .incw false 32 9 4 = 0 ∧ amo3New .addb false 32 10 5 15 = some 15 := by decide +kernel
/-- R142 to R144: the last arrival completes the phase and clears the count. -/
theorem test_barrier_phase : (after (.barrive 5 6) (machine (regs [(5, 3), (6, 1)] sh0) { blk0 with
    bars := [(3, { Barrier.zero 0 with init := true, expArr := 2, arrived := 1 })] }) fun t =>
      (t.blk? 1).map fun k => ((k.bar 3).phase, (k.bar 3).arrived)).join = some (true, 0) := by decide +kernel

/-- R93: wrapping and saturation of each element. -/
theorem test_lane_add : v30 (.lAdd hd .s32 false d30 th (.imm 0xFFFFFFFF)) = some [0xFFFFFFFF, 0, 1, 2, 0xFFFFFFFF, 0, 1, 2] ∧
    v30 (.lAdd hd .n8x4 true d30 (.imm 0x01FF80FF) (.imm 0x01018001)) = some (List.replicate 8 0x02FFFFFF) := by decide +kernel
theorem test_lane_neg_sat : v30 (.lNeg hd .s32 true d30 (.imm 0x80000000)) = some (List.replicate 8 0x7FFFFFFF) ∧
    v30 (.lNeg hd .n32 true d30 (.imm 5)) = some (List.replicate 8 0) := by decide +kernel
theorem test_lane_clamp : v30 (.lClamp hd .s32 false d30 (.imm 5) (.imm 9) th) = some [0, 1, 2, 3, 0, 1, 2, 3] := by decide +kernel
theorem test_lane_mulhi : v30 (.lMulhi hd .s32 d30 (.imm 0xFFFFFFFF) (.imm 2)) = some (List.replicate 8 0xFFFFFFFF) := by decide +kernel
theorem test_qdot : v30 (.lQdot hd true false d30 (.imm 0xFF010203) (.imm 0x02010101) (.imm 10)) = some (List.replicate 8 14) := by
  decide +kernel
/-- R95: the rule's own examples of BYTESEL and TRUTH. -/
theorem test_bytesel : v30 (.lBytesel hd d30 (.imm 0x80) (.imm 0) (.imm 0x8880)) = some (List.replicate 8 0xFFFFFF80) := by decide +kernel
theorem test_truth : v30 (.lTruth hd d30 th (.main 22 false) (.main 20 false) 0xAA) = some [0, 1, 2, 3, 0, 1, 2, 3] := by decide +kernel
theorem test_bit_fields : v30 (.lBfx hd true d30 (.imm 0xF0) (.imm 4) (.imm 4)) = some (List.replicate 8 0xFFFFFFFF) ∧
    v30 (.lBfi hd d30 (.imm 0) (.imm 0xFF) (.imm 0x081C)) = some (List.replicate 8 0xF0000000) := by decide +kernel
theorem test_lane_shifts : v30 (.lShl hd d30 (.imm 1) (.imm 32)) = some (List.replicate 8 0) ∧
    v30 (.lSra hd true d30 (.imm 0x80000000) (.imm 40)) = some (List.replicate 8 0xFFFFFFFF) ∧
    v30 (.lFunnel hd false d30 (.imm 0x80000000) (.imm 1) (.imm 4)) = some (List.replicate 8 0x18) := by decide +kernel
/-- R57, R96, R97: 1 + 2^-24 rounds to even; −0 of FNEG; FMIN of a NaN. -/
theorem test_fadd_rounds : v30 (.lFadd hd .f32 .rne d30 (.imm 0x3F800000) (.imm 0x33800000)) = some (List.replicate 8 0x3F800000) ∧
    v30 (.lFadd hd .f32 .rup d30 (.imm 0x3F800000) (.imm 0x33800000)) = some (List.replicate 8 0x3F800001) := by decide +kernel
theorem test_fneg : v30 (.lFneg hd .f16x2 d30 (.imm 0x00008000)) = some (List.replicate 8 0x80000000) := by decide +kernel
theorem test_fma_exact : v30 (.lFma hd .f32 .rne d30 (.imm 0x3F800001) (.imm 0x3F800001) (.imm 0xBF800002)) =
    some (List.replicate 8 0x28800000) := by decide +kernel
theorem test_fdiv_fsqrt : v30 (.lFdiv hd d30 (.imm 0x3F800000) (.imm 0x40400000)) = some (List.replicate 8 0x3EAAAAAB) ∧
    v30 (.lFsqrt hd d30 (.imm 0x40000000)) = some (List.replicate 8 0x3FB504F3) := by decide +kernel
theorem test_cvt : v30 (.lCvt hd .s32 .f32 .rtz true d30 (.imm 0xC0200000)) = some (List.replicate 8 0xFFFFFFFE) := by decide +kernel
/-- R103 to R109: masks, exchange and reductions in thread order. -/
theorem test_icmp : m1Of (.lIcmp hd .n32 .ge 1 th (.imm 2)) = some 0xCC := by decide +kernel
theorem test_pass : v30 (.lPass hd .mirror d30 th (.imm 3)) = some [3, 2, 1, 0, 3, 2, 1, 0] ∧
    v30 (.lPass hd .back d30 th (.imm 1)) = some [0, 0, 1, 2, 3, 0, 1, 2] := by decide +kernel
theorem test_scan : v30 (.lScan hd false true d30 th) = some [0, 0, 1, 3, 6, 6, 7, 9] := by decide +kernel
theorem test_vote_red : pendOf (.lVote hd .count 9 0) = some [(9, 8)] ∧ pendOf (.lRed hd (.max false) 9 th) = some [(9, 3)] := by decide +kernel
theorem test_ltid : v30 (.lLtid hd d30) = some [0, 1, 2, 3, 4, 5, 6, 7] := by decide +kernel
/-- R78: with no thread selected nothing is written and the name stays unbound. -/
theorem test_no_thread : v30 (.lLtid hdNone d30) = some [] := by decide +kernel
/-- R153: an element of 8 or 16 bits is extended by its sign. -/
theorem test_lane_load : (shAfter (.lLd hd .s8 ⟨.a, none, false, false, false⟩ d30 th 0)
    (machine shLane { blk0 with a := blk0.a.writeN 0 [0x7F, 0x80, 1, 0xFF] }) fun x => (x.v.get 30).map fun l => l.toList.map BitVec.toNat).join =
    some [0x7F, 0xFFFFFF80, 1, 0xFFFFFFFF, 0x7F, 0xFFFFFF80, 1, 0xFFFFFFFF] := by decide +kernel
/-- R286, R289: the atomics of a shuttle on one word, in thread order. -/
theorem test_lane_amo : v30 (.lAmo hd .add false .a d30 (.imm 0) (.imm 5) 0) = some [0, 5, 10, 15, 20, 25, 30, 35] := by decide +kernel
/-- A step fetches the word at the pc, decodes it and executes it. -/
theorem test_step_runs : (match step (State.reset.withFetchWord 32 0x34000001) with
    | .next t => (t.sh? 64).map (·.pc.toNat) | _ => none) = some 0x100004 := by decide +kernel
/-- R257: a load through a window comes after the shuttle's own store through it. -/
theorem test_peer_load_after_store : (match exec (.lLd hd .n8 ⟨.peer 1, none, false, false, false⟩ d30 (.imm 3) 0)
      { mGroup with peers := [{ core := 1, block := 2, tenancy := 0, h := 64, ipc := 0, copy := none, req := .write [(3, [7])] false }] } with
    | .next t => (t.peers.length, ((t.sh? 64).bind fun x => x.v.get 30).map fun l => l.toList.map BitVec.toNat) | _ => (9, none)) =
    (0, some (List.replicate 8 7)) := by decide +kernel
/-- R165: a copy of A:[0..31] to A:[16..47] leaves the source's bytes beyond the overlap. -/
theorem test_copy_overlap :
    let k : Copy := { cpy true 0 with kind := .linear, acq := some .core, src := .a, srcAddr := 0, dst := .a, dstAddr := 16, len := 32 }
    (((mCore { Core.initial with copyQ := [k] }).updBlk 1 fun b => { b with a := LStore.writeN { b.a with free := some 0 } 16 (List.replicate 16 9) }).moveUnit 0 0).blocks.map
      (fun e => e.2.a.readN 32 16) = [List.replicate 16 9] := by decide +kernel

end Sys2Proof.Tests
end

/-! PROOFS. The machine at power-on: its tables are empty, so looking up a die or a core answers its initial entry,
whatever the site. -/

namespace Sys2Proof.Machine

@[simp] theorem Tab.getD_nil {α : Type} (k : Nat) (d : α) : Tab.getD ([] : Tab α) k d = d := by
  simp only [Tab.getD, Tab.get?_nil, Option.getD_none]

@[simp] theorem State.reset_die (site : Nat) : State.reset.die site = Die.initial site :=
  Tab.getD_nil site (Die.initial site)

@[simp] theorem State.reset_core (c : Nat) : State.reset.core c = Core.initial :=
  Tab.getD_nil c Core.initial

@[simp] theorem State.reset_mgmt : State.reset.mgmt = Mgmt.initial := rfl

theorem State.reset_die_joined (site : Nat) : (State.reset.die site).joined = false := by
  rw [State.reset_die, Die.initial]

/-- R246: a core's cap on memory-bound runs comes up at 128. -/
theorem State.reset_core_cap (c : Nat) : (State.reset.core c).cap = 128 := by
  rw [State.reset_core, Core.initial]

/-- R7's clock, log 6's power cap and an idle mailbox. -/
theorem State.reset_mgmt_values :
    State.reset.mgmt.mhz = 940 ∧ State.reset.mgmt.cap = 3600 ∧ State.reset.mgmt.mailbox.busy = false := by
  rw [State.reset_mgmt]
  exact ⟨rfl, rfl, rfl⟩

/-- Settles O8: the tables and the memory are empty by the definition of the reset state; what is read through a table's
default (each site's die and core) is its initial entry. -/
theorem resetState : Obligations.ResetState := by
  obtain ⟨hclock, hpower, hmailbox⟩ := State.reset_mgmt_values
  exact ⟨rfl, Memory.wf_reset, rfl, rfl, rfl, rfl, rfl, rfl, hclock, hpower, hmailbox,
    fun site => ⟨State.reset_die_joined site, State.reset_core_cap site⟩⟩

end Sys2Proof.Machine

/-! PROOFS. The bit and field lane instructions (R95, R110), the compares, MLOGIC and SEL (R103 to R105): each completes
in the common shape of R87, and what the arithmetic of R95 gives is read off bit by bit. -/

namespace Sys2Proof.Machine

/-! ## Completion of a lane instruction -/

/-- A change of the executing shuttle alone is the whole effect of an instruction that answers with it. -/
theorem gives_of_updSh {i : Instr} {s : State} {w : Who} {f : Shuttle → Shuttle} (hw : s.who? = some w)
    (he : exec i s = .next (s.updSh w.h f)) : Gives i s w (f w.sh) :=
  ⟨_, he, rfl, updSh_same (who?_sh hw) f, fun _ => updSh_ne s f, fun _ => rfl, fun _ _ _ => rfl⟩

/-- A lane instruction releases its sources, makes its writes and takes its run to the next word (R71, R80). -/
theorem gives_of_laneDone {i : Instr} {s : State} {w : Who} {r : Run} {rs : List Run} {srcs : List LSrc}
    {f : Who → Run → Shuttle → Shuttle} (hw : s.who? = some w) (hq : w.sh.queue = r :: rs)
    (he : exec i s = onLane s fun w r => s.laneDone w srcs (f w r)) :
    Gives i s w ((f w r (release srcs w.sh)).updHead Run.onward) :=
  gives_of_updSh (f := fun sh => (f w r (release srcs sh)).updHead Run.onward) hw (he.trans (onLane_some hw hq _))

/-- Where only the selected threads' words matter, an instruction of the shape of R87 writes those words. -/
theorem laneGives_of_laneMap {i : Instr} {s : State} {w : Who} {r : Run} {rs : List Run} {hd : Head} {d : LDst}
    {srcs : List LSrc} {f g : List Nat → Nat} (hw : s.who? = some w) (hq : w.sh.queue = r :: rs)
    (he : exec i s = laneMap s hd d srcs f) (hfg : ∀ th, f (readAll s w r srcs th) = g (readAll s w r srcs th)) :
    LaneGives i s w hd d srcs fun th => g (readAll s w r srcs th) := by
  simp only [← hfg]
  exact gives_of_laneDone hw hq he

/-! ## Operands are words -/

theorem Line.at_lt (l : Line) (t : Nat) : Line.at l t < 2 ^ 32 := BitVec.isLt _

theorem freeAt_lt (s : State) (pos t : Nat) : freeAt s pos t < 2 ^ 32 := BitVec.isLt _

theorem readMain_lt (s : State) (sh : Shuttle) (n : Fin 256) (pos t : Nat) : readMain s sh n pos t < 2 ^ 32 := by
  unfold readMain
  split
  · exact Line.at_lt _ t
  · exact freeAt_lt s pos t

/-- Every operand of a lane instruction is a word of 32 bits, whatever its level (R88). -/
theorem readSrc_lt (s : State) (sh : Shuttle) (r : Run) (x : LSrc) (pos t : Nat) : readSrc s sh r x pos t < 2 ^ 32 := by
  cases x with
  | main n _ => exact readMain_lt s sh n pos t
  | opf n => exact Line.at_lt _ t
  | lat =>
    show (if maskBit sh.latOk t then Line.at sh.lat t else freeAt s pos t) < 2 ^ 32
    split
    · exact Line.at_lt _ t
    · exact freeAt_lt s pos t
  | uni n => exact Nat.mod_lt _ (by decide)
  | imm v => exact v.isLt

/-- Each entry is a word, and so is what stands for an entry past the end. -/
def AreWords (xs : List Nat) : Prop := ∀ i, xs.getD i 0 < 2 ^ 32

theorem areWords_readAll (s : State) (w : Who) (r : Run) (srcs : List LSrc) (t : Nat) : AreWords (readAll s w r srcs t) := by
  intro i
  rw [List.getD_eq_getElem?_getD, readAll, List.getElem?_map]
  cases srcs.zipIdx[i]? with
  | none => exact Nat.two_pow_pos 32
  | some x => exact readSrc_lt s w.sh r x.1 x.2 t

theorem toNat_asBits {xs : List Nat} (h : AreWords xs) (i : Nat) : (asBits xs i).toNat = xs.getD i 0 :=
  Nat.mod_eq_of_lt (h i)

/-! ## Two's complement -/

theorem toSigned_eq_toInt {n : Nat} (hn : 0 < n) (w : Nat) : toSigned n w = (BitVec.ofNat n w).toInt := by
  have hpow : 2 ^ n = 2 * 2 ^ (n - 1) := by rw [← Nat.pow_succ', Nat.succ_eq_add_one, Nat.sub_add_cancel hn]
  have hcond : 2 * (w % 2 ^ n) < 2 ^ n ↔ w % 2 ^ n < 2 ^ (n - 1) := by omega
  simp only [toSigned, BitVec.toInt_eq_toNat_cond, BitVec.toNat_ofNat, hcond]

/-- Dividing the signed value by a power of two, rounding down, is the arithmetic shift. -/
theorem ofInt_toInt_div_two_pow {n : Nat} (x : BitVec n) (m k : Nat) :
    (x.toInt / (2 ^ k : Nat) % (2 ^ m : Nat)).toNat = ((x.sshiftRight k).signExtend m).toNat := by
  rw [BitVec.signExtend, BitVec.toNat_ofInt, BitVec.toInt_sshiftRight, Int.shiftRight_eq_div_pow]

/-- A shift past the sign bit gives the sign bit everywhere, as a shift by the width less one does. -/
theorem sshiftRight_min (x : BitVec 32) (b : Nat) : x.sshiftRight (min b 31) = x.sshiftRight b := by
  refine BitVec.eq_of_getLsbD_eq fun i hi => ?_
  by_cases hb : b ≤ 31
  · rw [Nat.min_eq_left hb]
  · have hpast : ¬ b + i < 32 := by omega
    simp only [BitVec.getLsbD_sshiftRight, Nat.min_eq_right (Nat.le_of_not_le hb), hpast, BitVec.msb_eq_getLsbD_last]
    rcases Nat.eq_zero_or_pos i with rfl | hi0
    · rfl
    · simp [show ¬ 31 + i < 32 by omega]

/-! ## Each function of R95 as an operation on patterns -/

theorem not32_eq (a : Nat) : not32 a = (~~~BitVec.ofNat 32 a).toNat := by
  rw [not32, BitVec.toNat_not, BitVec.toNat_ofNat]

theorem shl32_eq (a b : Nat) : shl32 a b = (BitVec.ofNat 32 a <<< b).toNat := by
  unfold shl32
  rw [BitVec.toNat_shiftLeft, BitVec.toNat_ofNat, Nat.shiftLeft_eq, Nat.mod_mul_mod]
  split
  · next hb => exact (Nat.mod_eq_zero_of_dvd (Nat.dvd_mul_left_of_dvd (Nat.pow_dvd_pow 2 hb) a)).symm
  · rfl

theorem shr32_eq {a : Nat} (ha : a < 2 ^ 32) (b : Nat) : shr32 a b = (BitVec.ofNat 32 a >>> b).toNat := by
  unfold shr32
  rw [BitVec.toNat_ushiftRight, BitVec.toNat_ofNat, Nat.mod_eq_of_lt ha, Nat.shiftRight_eq_div_pow]
  split
  · next hb => exact (Nat.div_eq_of_lt (Nat.lt_of_lt_of_le ha (Nat.pow_le_pow_right (by decide) hb))).symm
  · rfl

theorem sra32_eq (a b : Nat) : sra32 a b = ((BitVec.ofNat 32 a).sshiftRight b).toNat := by
  rw [sra32, toSigned_eq_toInt (by decide), ofInt_toInt_div_two_pow, BitVec.signExtend_eq, sshiftRight_min]

theorem rot32_eq {a : Nat} (ha : a < 2 ^ 32) (b : Nat) : rot32 a b = ((BitVec.ofNat 32 a).rotateLeft b).toNat := by
  have hk : b % 32 ≤ 32 := Nat.le_of_lt (Nat.mod_lt b (by decide))
  have hlow : a / 2 ^ (32 - b % 32) < 2 ^ (b % 32) :=
    Nat.div_lt_of_lt_mul (by rwa [← Nat.pow_add, Nat.sub_add_cancel hk])
  have hword : a / 2 ^ (32 - b % 32) < 2 ^ 32 := Nat.lt_of_le_of_lt (Nat.div_le_self _ _) ha
  rw [rot32, ← Nat.shiftLeft_eq, Nat.shiftLeft_add_eq_or_of_lt hlow, Nat.or_mod_two_pow, Nat.mod_eq_of_lt hword,
    BitVec.toNat_rotateLeft, BitVec.toNat_ofNat, Nat.mod_eq_of_lt ha, Nat.shiftRight_eq_div_pow]

theorem scadd_eq (x y n : Nat) : (x * 2 ^ n + y) % 2 ^ 32 = (BitVec.ofNat 32 x <<< n + BitVec.ofNat 32 y).toNat := by
  rw [BitVec.toNat_add, BitVec.toNat_shiftLeft, BitVec.toNat_ofNat, BitVec.toNat_ofNat, Nat.shiftLeft_eq, Nat.mod_mul_mod,
    ← Nat.add_mod]

theorem toNat_append_words {a b : Nat} (ha : a < 2 ^ 32) (hb : b < 2 ^ 32) :
    (BitVec.ofNat 32 b ++ BitVec.ofNat 32 a).toNat = a + 2 ^ 32 * b := by
  rw [BitVec.toNat_append, BitVec.toNat_ofNat, BitVec.toNat_ofNat, Nat.mod_eq_of_lt ha, Nat.mod_eq_of_lt hb,
    ← Nat.shiftLeft_add_eq_or_of_lt ha, Nat.shiftLeft_eq, Nat.add_comm, Nat.mul_comm]

theorem funnel_eq (lo : Bool) {a b : Nat} (ha : a < 2 ^ 32) (hb : b < 2 ^ 32) (c : Nat) :
    funnel lo a b c = ((if lo then (BitVec.ofNat 32 b ++ BitVec.ofNat 32 a) >>> (c % 32)
      else (BitVec.ofNat 32 b ++ BitVec.ofNat 32 a) <<< (c % 32) >>> 32).setWidth 32).toNat := by
  cases lo with
  | true =>
    simp only [funnel, if_true, BitVec.toNat_setWidth, BitVec.toNat_ushiftRight, toNat_append_words ha hb,
      Nat.shiftRight_eq_div_pow]
  | false =>
    simp only [funnel, Bool.false_eq_true, if_false, BitVec.toNat_setWidth, BitVec.toNat_ushiftRight,
      BitVec.toNat_shiftLeft, toNat_append_words ha hb, Nat.shiftRight_eq_div_pow, Nat.shiftLeft_eq]
    rw [Nat.pow_add 2 32 32, Nat.mod_mul_right_div_self, Nat.mod_mod]

/-! ## Numbers put together from digits -/

/-- A digit of `k` bits at place `a` below a number that begins at the next place. -/
theorem testBit_digit_add {x y a k : Nat} (hx : x < 2 ^ k) (hy : 2 ^ (a + k) ∣ y) (j : Nat) :
    (x * 2 ^ a + y).testBit j = if j < a + k then decide (a ≤ j) && x.testBit (j - a) else y.testBit j := by
  obtain ⟨q, rfl⟩ := hy
  have hlow : x * 2 ^ a < 2 ^ (a + k) := by
    rw [Nat.add_comm a k, Nat.pow_add]
    exact Nat.mul_lt_mul_of_pos_right hx (Nat.two_pow_pos a)
  rw [Nat.add_comm, Nat.testBit_two_pow_mul_add q hlow, Nat.testBit_mul_two_pow, Nat.testBit_two_pow_mul]
  split
  · rfl
  · next hj => simp [Nat.le_of_not_lt hj]

theorem dvd_digit_add {x y a k : Nat} (hy : 2 ^ (a + k) ∣ y) : 2 ^ a ∣ x * 2 ^ a + y :=
  Nat.dvd_add (Nat.dvd_mul_left _ x) (Nat.dvd_trans (Nat.pow_dvd_pow 2 (Nat.le_add_right a k)) hy)

/-- The number whose bits from `a` on, `n` of them, are those of `p`. -/
def bitSum (p : Nat → Bool) (a n : Nat) : Nat := ((range a n).map fun i => (p i).toNat * 2 ^ i).sum

theorem bitSum_succ (p : Nat → Bool) (a n : Nat) : bitSum p a (n + 1) = (p a).toNat * 2 ^ a + bitSum p (a + 1) n := rfl

theorem two_pow_dvd_bitSum (p : Nat → Bool) (a n : Nat) : 2 ^ a ∣ bitSum p a n := by
  induction n generalizing a with
  | zero => exact Nat.dvd_zero _
  | succ n ih => exact bitSum_succ p a n ▸ dvd_digit_add (ih (a + 1))

theorem testBit_bitSum (p : Nat → Bool) (a n j : Nat) :
    (bitSum p a n).testBit j = (decide (a ≤ j) && decide (j < a + n) && p j) := by
  induction n generalizing a with
  | zero =>
    have hnone : a ≤ j → ¬ j < a := Nat.not_lt.mpr
    simp +contextual [bitSum, range, hnone]
  | succ n ih =>
    rw [bitSum_succ, testBit_digit_add (Bool.toNat_lt (p a)) (two_pow_dvd_bitSum p (a + 1) n), ih]
    rcases Nat.lt_trichotomy j a with hj | rfl | hj
    · simp [show j < a + 1 by omega, show ¬ a ≤ j by omega]
    · cases p j <;> simp
    · simp [show ¬ j < a + 1 by omega, Nat.le_of_lt hj, Nat.succ_le_of_lt hj, Nat.add_assoc, Nat.add_comm 1 n]

/-- A sum over the 32 bits of a word, each term one bit at its place. -/
theorem foldl_bits_eq_bitSum {f : Nat → Nat} {p : Nat → Bool} (h : ∀ i, f i = (p i).toNat * 2 ^ i) :
    ((range 0 32).map f).foldl (· + ·) 0 = bitSum p 0 32 := by
  rw [funext h, bitSum, List.sum_eq_foldl]

theorem reverseBits_lt (n a : Nat) : reverseBits n a < 2 ^ n := by
  induction n generalizing a with
  | zero => exact Nat.one_pos
  | succ n ih =>
    have hlow := ih (a / 2)
    have htop : a % 2 * 2 ^ n ≤ 1 * 2 ^ n := Nat.mul_le_mul_right _ (Nat.le_of_lt_succ (Nat.mod_lt a (by decide)))
    rw [reverseBits, Nat.pow_succ]
    omega

theorem testBit_reverseBits (n a i : Nat) : (reverseBits n a).testBit i = (decide (i < n) && a.testBit (n - 1 - i)) := by
  induction n generalizing a with
  | zero => simp [reverseBits]
  | succ n ih =>
    rw [reverseBits, Nat.mul_comm, Nat.testBit_two_pow_mul_add _ (reverseBits_lt n (a / 2)), ih, ← Nat.testBit_succ]
    rcases Nat.lt_trichotomy i n with hi | rfl | hi
    · simp [hi, Nat.lt_succ_of_lt hi, show n - 1 - i + 1 = n - i by omega]
    · simp
    · simp [show ¬ i < n by omega, show ¬ i < n + 1 by omega, Nat.testBit_mod_two_pow a 1, show ¬ i - n < 1 by omega]

theorem reverseBits_eq (a : Nat) : reverseBits 32 a = (BitVec.ofNat 32 a).reverse.toNat := by
  refine Nat.eq_of_testBit_eq fun i => ?_
  rw [testBit_reverseBits, BitVec.testBit_toNat, BitVec.getLsbD_reverse, BitVec.getMsbD_eq_getLsbD, BitVec.getLsbD_ofNat]
  by_cases hi : i < 32
  · simp [hi, show 31 - i < 32 by omega]
  · simp [hi]

/-! ## The bits of R95's functions -/

theorem bfx_natural (a b c : Nat) : bfx false a b c = a / 2 ^ (b % 256) % 2 ^ min (c % 256) 32 := by
  simp only [bfx, Bool.false_eq_true, if_false, ← Int.natCast_ediv, ← Int.natCast_emod, Int.toNat_natCast]
  split
  · next hlen => rw [hlen, Nat.pow_zero, Nat.mod_one]
  · rfl

theorem testBit_bfx_natural (a b c i : Nat) :
    (bfx false a b c).testBit i = (decide (i < min (c % 256) 32) && a.testBit (i + b % 256)) := by
  rw [bfx_natural, Nat.testBit_mod_two_pow, Nat.testBit_div_two_pow]

/-- BFX of a signed operand: the field of the arithmetic shift, extended by its own top bit. -/
theorem bfx_signed {c : Nat} (hc : 0 < c % 256) (a b : Nat) : bfx true a b c =
    ((((BitVec.ofNat 32 a).sshiftRight (b % 256)).signExtend (min (c % 256) 32)).signExtend 32).toNat := by
  have hlen : 0 < min (c % 256) 32 := Nat.lt_min.mpr ⟨hc, by decide⟩
  simp only [bfx, if_neg (Nat.ne_of_gt hlen), if_true]
  rw [toSigned_eq_toInt (Nat.zero_lt_succ 31), ofInt_toInt_div_two_pow, toSigned_eq_toInt hlen, BitVec.ofNat_toNat,
    BitVec.setWidth_eq, ← BitVec.toNat_ofInt, ← BitVec.signExtend]

theorem getLsbD_sshiftRight_word (x : BitVec 32) (k : Nat) {j : Nat} (hj : j < 32) :
    (x.sshiftRight k).getLsbD j = x.getLsbD (min (j + k) 31) := by
  rw [BitVec.getLsbD_sshiftRight, BitVec.msb_eq_getLsbD_last, Nat.add_comm k j]
  by_cases hin : j + k < 32
  · simp [hj, hin, Nat.min_eq_left (Nat.le_of_lt_succ hin)]
  · simp [hj, hin, show min (j + k) 31 = 31 by omega]

theorem getLsbD_signExtend_min {n : Nat} (x : BitVec n) (hn : 0 < n) {m i : Nat} (hi : i < m) :
    (x.signExtend m).getLsbD i = x.getLsbD (min i (n - 1)) := by
  rw [BitVec.getLsbD_signExtend, BitVec.msb_eq_getLsbD_last]
  by_cases hin : i < n
  · simp [hi, hin, Nat.min_eq_left (Nat.le_sub_one_of_lt hin)]
  · simp [hi, hin, show min i (n - 1) = n - 1 by omega]

theorem testBit_bfx_signed {c i : Nat} (hc : 0 < c % 256) (hi : i < 32) (a b : Nat) :
    (bfx true a b c).testBit i = a.testBit (min (min i (min (c % 256) 32 - 1) + b % 256) 31) := by
  have hlen : 0 < min (c % 256) 32 := Nat.lt_min.mpr ⟨hc, by decide⟩
  have hfield : min i (min (c % 256) 32 - 1) < min (c % 256) 32 := by omega
  rw [bfx_signed hc, BitVec.testBit_toNat, getLsbD_signExtend_min _ hlen hi,
    getLsbD_signExtend_min _ (by decide) hfield, Nat.min_eq_left (by omega : _ ≤ 32 - 1),
    getLsbD_sshiftRight_word _ _ (by omega), BitVec.getLsbD_ofNat]
  simp [show min (min i (min (c % 256) 32 - 1) + b % 256) 31 < 32 by omega]

/-- The bit of BFI's result at a place: of the field, or of the operand that it is inserted in. -/
def bfiBit (a b c i : Nat) : Bool :=
  if c % 256 ≤ i ∧ i < c % 256 + min (c / 256 % 256) 32 then b.testBit (i - c % 256) else a.testBit i

theorem bfi_eq_bitSum (a b c : Nat) : bfi a b c = bitSum (bfiBit a b c) 0 32 := by
  rw [bfi, foldl_bits_eq_bitSum (p := bfiBit a b c)]
  intro i
  simp only [bfiBit, Bool.and_eq_true, decide_eq_true_eq]
  split
  · rw [Nat.toNat_testBit]
  · rw [Nat.toNat_testBit]

theorem testBit_bfi (a b c : Nat) {i : Nat} (hi : i < 32) : (bfi a b c).testBit i = bfiBit a b c i := by
  rw [bfi_eq_bitSum, testBit_bitSum]
  simp [hi]

/-- The entry of TRUTH's table that the operands' bits at a place select. -/
def truthBit (tb : BitVec 8) (a b c i : Nat) : Bool :=
  tb.getLsbD ((a.testBit i).toNat + 2 * (b.testBit i).toNat + 4 * (c.testBit i).toNat)

theorem truth_eq_bitSum (tb : BitVec 8) (a b c : Nat) : truth tb a b c = bitSum (truthBit tb a b c) 0 32 := by
  rw [truth, foldl_bits_eq_bitSum (p := truthBit tb a b c)]
  intro i
  simp only [truthBit, Nat.toNat_testBit]
  split
  · next hset => rw [hset, Bool.toNat_true, Nat.one_mul]
  · next hclear => rw [eq_false_of_ne_true hclear, Bool.toNat_false, Nat.zero_mul]

theorem testBit_truth (tb : BitVec 8) (a b c : Nat) {i : Nat} (hi : i < 32) :
    (truth tb a b c).testBit i = truthBit tb a b c i := by
  rw [truth_eq_bitSum, testBit_bitSum]
  simp [hi]

/-- The nibble of BYTESEL's third operand that selects result byte `i`. -/
def byteSelector (c i : Nat) : Nat := c / 2 ^ (4 * i) % 16

/-- Result byte `i` of BYTESEL, `last` the byte below (R95, log 12). -/
def selectedByte (v c i last : Nat) : Nat :=
  if byteSelector c i < 8 then v / 2 ^ (8 * byteSelector c i) % 256
  else if i = 0 then 0 else if last ≥ 128 then 255 else 0

theorem byteselFrom_succ (v c n i last : Nat) : byteselFrom v c (n + 1) i last =
    selectedByte v c i last * 2 ^ (8 * i) + byteselFrom v c n (i + 1) (selectedByte v c i last) := rfl

theorem selectedByte_lt (v c i last : Nat) : selectedByte v c i last < 2 ^ 8 := by
  unfold selectedByte
  split
  · exact Nat.mod_lt _ (by decide)
  · split
    · decide
    · split <;> decide

theorem testBit_selectedByte {c i : Nat} (hsel : byteSelector c i < 8) (v last : Nat) {k : Nat} (hk : k < 8) :
    (selectedByte v c i last).testBit k = v.testBit (8 * byteSelector c i + k) := by
  rw [selectedByte, if_pos hsel, show 256 = 2 ^ 8 from rfl, Nat.testBit_mod_two_pow, Nat.testBit_div_two_pow, Nat.add_comm k]
  simp [hk]

theorem two_pow_dvd_byteselFrom (v c n i last : Nat) : 2 ^ (8 * i) ∣ byteselFrom v c n i last := by
  induction n generalizing i last with
  | zero => exact Nat.dvd_zero _
  | succ n ih => exact byteselFrom_succ v c n i last ▸ dvd_digit_add (ih (i + 1) _)

/-- A bit of the result lies in the byte at its place, whatever the bytes below: a selector below 8 does not read them. -/
theorem testBit_byteselFrom {c j : Nat} (hsel : byteSelector c (j / 8) < 8) (v : Nat) {n i : Nat} (hi : i ≤ j / 8)
    (hn : j / 8 < i + n) (last : Nat) :
    (byteselFrom v c n i last).testBit j = v.testBit (8 * byteSelector c (j / 8) + j % 8) := by
  induction n generalizing i last with
  | zero => omega
  | succ n ih =>
    rw [byteselFrom_succ, testBit_digit_add (a := 8 * i) (selectedByte_lt v c i last) (two_pow_dvd_byteselFrom v c n (i + 1) _)]
    rcases Nat.eq_or_lt_of_le hi with rfl | habove
    · rw [if_pos (by omega), testBit_selectedByte hsel v last (by omega), show j - 8 * (j / 8) = j % 8 by omega]
      simp [Nat.mul_div_le]
    · rw [if_neg (by omega), ih habove (by omega)]

theorem testBit_bytesel {c i : Nat} (hsel : byteSelector c (i / 8) < 8) (hi : i < 32) (a b : Nat) :
    (bytesel a b c).testBit i = (a + 2 ^ 32 * b).testBit (8 * byteSelector c (i / 8) + i % 8) :=
  testBit_byteselFrom hsel _ (Nat.zero_le _) (by omega) 0

/-! ## The bit and field instructions complete -/

/-- The bit and field instructions have the shape of R87, and on words compute what R95 and R110 say. -/
theorem exec_of_bitResult {i : Instr} {h : Head} {d : LDst} {srcs : List LSrc} {f : List Nat → Nat}
    (hi : bitResult i = some (h, d, srcs, f)) :
    ∃ g, (∀ s, exec i s = laneMap s h d srcs g) ∧ ∀ xs, AreWords xs → g xs = f xs := by
  unfold bitResult at hi
  split at hi <;> cases hi
  · exact ⟨_, fun _ => rfl, fun _ _ => rfl⟩ -- lAnd
  · exact ⟨_, fun _ => rfl, fun _ _ => rfl⟩ -- lOr
  · exact ⟨_, fun _ => rfl, fun _ _ => rfl⟩ -- lXor
  · exact ⟨_, fun _ => rfl, fun _ _ => not32_eq _⟩ -- lNot
  · exact ⟨_, fun _ => rfl, fun _ _ => shl32_eq _ _⟩ -- lShl
  · exact ⟨_, fun _ => rfl, fun _ hxs => shr32_eq (hxs 0) _⟩ -- lShr
  · exact ⟨_, fun _ => rfl, fun _ _ => sra32_eq _ _⟩ -- lSra
  · exact ⟨_, fun _ => rfl, fun _ hxs => rot32_eq (hxs 0) _⟩ -- lRot
  · exact ⟨_, fun _ => rfl, fun _ _ => rfl⟩ -- lPopc
  · exact ⟨_, fun _ => rfl, fun _ _ => rfl⟩ -- lClz
  · exact ⟨_, fun _ => rfl, fun _ _ => reverseBits_eq _⟩ -- lBrev
  · exact ⟨_, fun _ => rfl, fun _ _ => rfl⟩ -- lBfx
  · exact ⟨_, fun _ => rfl, fun _ _ => rfl⟩ -- lBfi
  · exact ⟨_, fun _ => rfl, fun _ _ => rfl⟩ -- lBytesel
  · exact ⟨_, fun _ => rfl, fun _ _ => rfl⟩ -- lTruth
  · exact ⟨_, fun _ => rfl, fun _ _ => scadd_eq _ _ _⟩ -- lScadd
  · exact ⟨_, fun _ => rfl, fun _ hxs => funnel_eq _ (hxs 0) (hxs 1) _⟩ -- lFunnel
  · exact ⟨_, fun _ => rfl, fun _ _ => rfl⟩ -- lMov

/-- LTID gives each thread its index in the block (R110). -/
theorem exec_lLtid (h : Head) (d : LDst) (s : State) : exec (.lLtid h d) s = onLane s fun w _ =>
    s.laneDone w [] (putEach (guardOf w.sh h) fun th => putDst s d th (8 * w.sh.idx + th)) := rfl

theorem exec_lNop (b : Bool) (s : State) : exec (.lNop b) s = onLane s fun w _ => s.laneDone w [] id := rfl

/-- Settles O39: each form is a `laneMap` whose function agrees with R95's on words, and the functions R95 gives in
pseudocode are read off bit by bit. -/
theorem laneBitResults : Obligations.LaneBitResults := by
  refine ⟨fun s w r rs hw hq => ⟨fun i h d srcs f hi => ?_, fun h d => ?_, fun b => ?_⟩, fun a b c i _ _ _ hi => ?_⟩
  · obtain ⟨g, hexec, hgf⟩ := exec_of_bitResult hi
    exact laneGives_of_laneMap hw hq (hexec s) fun th => hgf _ (areWords_readAll s w r srcs th)
  · exact gives_of_laneDone hw hq (exec_lLtid h d s)
  · exact gives_of_laneDone hw hq (exec_lNop b s)
  · exact ⟨testBit_bfx_natural a b c i, fun hc => testBit_bfx_signed hc hi a b, testBit_bfi a b c hi,
      fun tb => testBit_truth tb a b c hi, fun hsel => testBit_bytesel hsel hi a b⟩

/-! ## Compares, MLOGIC and SEL -/

theorem exec_lIcmp (h : Head) (t : IType) (c : ICond) (d : MReg) (a b : LSrc) (s : State) :
    exec (.lIcmp h t c d a b) s = compareMap s h d a b (allElems (iWidth t) fun x y => iHolds c (iVal t x) (iVal t y)) := rfl

theorem exec_lFcmp (h : Head) (t : FType) (c : FCond) (d : MReg) (a b : LSrc) (s : State) :
    exec (.lFcmp h t c d a b) s =
      compareMap s h d a b (allElems (fWidth t) fun x y => fHolds c (decodeF (fFmt t) x) (decodeF (fFmt t) y)) := rfl

theorem exec_lMlogic (h : Head) (f : MFn) (d a b : MReg) (s : State) :
    exec (.lMlogic h f d a b) s = onLane s fun w _ => s.laneDone w []
      (putMask d (guardOf w.sh h) fun th => mFun f (maskBit (w.sh.readM a) th) (maskBit (w.sh.readM b) th)) := rfl

theorem exec_lSel (h : Head) (d : LDst) (a b : LSrc) (m : MReg) (s : State) :
    exec (.lSel h d a b m) s = onLane s fun w r => s.laneDone w [a, b] (putEach (guardOf w.sh h) fun th =>
      putDst s d th (if maskBit (w.sh.readM m) th then readSrc s w.sh r a 0 th else readSrc s w.sh r b 1 th)) := rfl

/-- An instruction in the shape of a compare writes the bits that its condition has on the threads' operands (R103). -/
theorem gives_of_compareMap {i : Instr} {s : State} {w : Who} {r : Run} {rs : List Run} {hd : Head} {d : MReg}
    {a b : LSrc} {p : Nat → Nat → Bool} {q : Nat → Bool} (hw : s.who? = some w) (hq : w.sh.queue = r :: rs)
    (he : exec i s = compareMap s hd d a b p)
    (hpq : ∀ th, p (readSrc s w.sh r a 0 th) (readSrc s w.sh r b 1 th) = q th) :
    Gives i s w ((putMask d (guardOf w.sh hd) q (release [a, b] w.sh)).updHead Run.onward) := by
  rw [← funext hpq]
  exact gives_of_laneDone hw hq he

/-- A packed compare holds when every element's does. -/
theorem allElems_eq_all {n x y : Nat} {p : Nat → Nat → Bool} {q : Nat → Bool}
    (h : ∀ e, p (elemAt n e x) (elemAt n e y) = q e) : allElems n p x y = (range 0 (32 / n)).all q := by
  rw [allElems, funext h]

/-- Settles O41: the compares through the shape of R103, element by element and condition by condition; MLOGIC function
by function; SEL by its own arm. -/
theorem compareAndSelect : Obligations.CompareAndSelect := by
  intro s w r rs hw hq
  refine ⟨fun h t c d a b => ?_, fun h t c d a b => ?_, fun h f d a b => ?_, fun h d a b m => ?_⟩
  · refine gives_of_compareMap hw hq (exec_lIcmp h t c d a b s) fun th => allElems_eq_all fun e => ?_
    cases c with
    | eq | lt | le | gt | ge => rfl
    | ne => exact decide_not.symm
  · refine gives_of_compareMap hw hq (exec_lFcmp h t c d a b s) fun th => allElems_eq_all fun e => ?_
    unfold fHolds
    cases Num.cmp (decodeF (fFmt t) (elemAt (fWidth t) e (readSrc s w.sh r a 0 th)))
      (decodeF (fFmt t) (elemAt (fWidth t) e (readSrc s w.sh r b 1 th))) with
    | none => cases c <;> rfl
    | some o => cases o <;> cases c <;> rfl
  · cases f with
    | and | or | xor | andn => exact gives_of_laneDone hw hq (exec_lMlogic h _ d a b s)
  · exact gives_of_laneDone hw hq (exec_lSel h d a b m s)

end Sys2Proof.Machine
